-- ==== Sys2Proof/Word.lean ====
section
/-!
DEFINITION. The word types of the SX4 and the one table type of the model.

`Tbl α` holds values by a number (a register number, an address, an identifier); `Mem` is a
table of bytes by address. What an absent key reads as is said where the table is read
(Machine/Bits.lean, Machine/Mem.lean).
-/

namespace Sys2Proof

/-- A byte of memory (R3). -/
abbrev Byte := BitVec 8

/-- A 32-bit lane register or operand value (R14). -/
abbrev Word32 := BitVec 32

/-- A 64-bit scalar register (R14). -/
abbrev Word64 := BitVec 64

/-- Values by number, in rising order of the number. -/
abbrev Tbl (α : Type) := List (Nat × α)

/-- Bytes by address, in rising order, with no zero byte listed. -/
abbrev Mem := List (Nat × BitVec 8)

end Sys2Proof
end

