-- ==== Sys2Proof/Machine/Bits.lean ====
section
/-!
DEFINITION. Tables by number, byte order (R3), sign extension and saturation (R9), and the other plain helpers of the machine.
-/

namespace Sys2Proof

/-- The value listed for `k`. -/
def Tbl.at? {α : Type} (t : Tbl α) (k : Nat) : Option α :=
  match t with
  | [] => none
  | (i, v) :: r => if i = k then some v else Tbl.at? r k

/-- The value listed for `k`, or `d`. -/
def Tbl.atD {α : Type} (t : Tbl α) (k : Nat) (d : α) : α := (Tbl.at? t k).getD d

/-- The table with `v` at `k`, and every other key as it was. -/
def Tbl.put {α : Type} (t : Tbl α) (k : Nat) (v : α) : Tbl α :=
  t.filter (fun e => e.1 < k) ++ (k, v) :: t.filter (fun e => k < e.1)

/-- The table with `v` at the `n` keys from `k`, and every other key as it was. -/
def Tbl.fill {α : Type} (t : Tbl α) (k n : Nat) (v : α) : Tbl α :=
  t.filter (fun e => e.1 < k) ++ (List.range n).map (fun i => (k + i, v)) ++ t.filter (fun e => k + n ≤ e.1)

/-- The table without `k`. -/
def Tbl.del {α : Type} (t : Tbl α) (k : Nat) : Tbl α := t.filter (fun e => e.1 ≠ k)

/-- The table with `f` applied to the value at `k`, if there is one. -/
def Tbl.upd {α : Type} (t : Tbl α) (k : Nat) (f : α → α) : Tbl α :=
  match Tbl.at? t k with
  | some v => Tbl.put t k (f v)
  | none => t

/-- The keys listed. -/
def Tbl.keys {α : Type} (t : Tbl α) : List Nat := t.map (·.1)

/-- The table with `f` applied to every key and value. -/
def Tbl.each {α : Type} (t : Tbl α) (f : Nat → α → α) : Tbl α := t.map fun e => (e.1, f e.1 e.2)

/-- The keys whose values satisfy `p`. -/
def Tbl.keysOf {α : Type} (t : Tbl α) (p : α → Bool) : List Nat := (t.filter fun e => p e.2).map (·.1)

namespace Machine

/-- The `n` low bytes of `x`, lowest first (R3). -/
def bytesOf : (n x : Nat) → List Byte
  | 0, _ => []
  | n + 1, x => BitVec.ofNat 8 x :: bytesOf n (x / 256)

/-- The number whose bytes are `bs`, lowest first (R3). -/
def natOf : List Byte → Nat
  | [] => 0
  | b :: r => b.toNat + 256 * natOf r

/-- Byte `i` of a byte string, zero beyond its end. -/
def byteAt (bs : List Byte) (i : Nat) : Nat := ((bs[i]?).getD 0).toNat

/-- The little-endian number in `n` bytes from byte `i`. -/
def numAt (bs : List Byte) (i n : Nat) : Nat := natOf ((bs.drop i).take n)

/-- Bits [hi:lo] of `x` (R3). -/
def bits (x hi lo : Nat) : Nat := x / 2 ^ lo % 2 ^ (hi + 1 - lo)

/-- Bit `i` of `x`. -/
def bit (x i : Nat) : Bool := x / 2 ^ i % 2 = 1

/-- sext(x, n): the low `n` bits of `x` as a two's-complement integer (R9). -/
def sext (n x : Nat) : Int :=
  let y := x % 2 ^ n
  if y < 2 ^ (n - 1) then (y : Int) else (y : Int) - 2 ^ n

/-- `x` modulo 2^n as a natural number (two's complement for a negative `x`). -/
def wrapN (n : Nat) (x : Int) : Nat := (x % (2 ^ n : Nat)).toNat

/-- sat(x, lo, hi) (R9). -/
def sat (x lo hi : Int) : Int := if x < lo then lo else if hi < x then hi else x

/-- An immediate of `n` bits, sign-extended to 64 bits (R75). -/
def sx {n : Nat} (x : BitVec n) : Word64 := x.signExtend 64

/-- 1 or 0. -/
def b2n (b : Bool) : Nat := if b then 1 else 0

/-- Number of one bits among the low `n` bits of `x`. -/
def popcount : (n x : Nat) → Nat
  | 0, _ => 0
  | n + 1, x => x % 2 + popcount n (x / 2)

/-- Number of bits needed to write `x`: 0 for 0, else 1 + floor(log2 x). -/
def bitLen (x : Nat) : Nat := if x = 0 then 0 else Nat.log2 x + 1

/-- Zero bits above the highest one bit in `n` bits. -/
def clz (n x : Nat) : Nat := n - bitLen (x % 2 ^ n)

/-- The numbers below `n` whose bit in `mask` is 1, in rising order. -/
def setBits (n mask : Nat) : List Nat := (List.range n).filter (bit mask)

/-- The mask with the bits of `l` set. -/
def maskOf (l : List Nat) : Nat := l.foldl (fun m i => if bit m i then m else m + 2 ^ i) 0

/-- A list with `x` put in place by `le`, after its equals. -/
def insertBy {α : Type} (le : α → α → Bool) (x : α) : List α → List α
  | [] => [x]
  | y :: r => if le y x then y :: insertBy le x r else x :: y :: r

/-- A stable insertion sort. -/
def sortBy {α : Type} (le : α → α → Bool) (l : List α) : List α :=
  l.foldl (fun acc x => insertBy le x acc) []

/-- The list without repeats, first occurrences kept. -/
def dedup (l : List Nat) : List Nat :=
  (l.foldl (fun acc x => if acc.contains x then acc else x :: acc) []).reverse

/-- Division rounded up. -/
def ceilDiv (a b : Nat) : Nat := (a + b - 1) / b

/-- The least number of `l`. -/
def minOf (l : List Nat) : Option Nat :=
  l.foldl (fun a x => match a with | none => some x | some y => some (if x < y then x else y)) none

end Machine

end Sys2Proof
end

