-- ==== Sys2Proof/Syntax.lean ====
section
/-!
DEFINITION. The instructions of the SX4: one constructor of `Instr` for each row of the opcode table.

Scalar constructors carry the fields of their 32-bit word (R74, R79). Lane constructors carry a `LaneOp`,
the fields of the 96-bit lane word other than the opcode (R80). The remaining constructors are the steps the device, the
host, the operator or the fabric performs; they carry what the outside world supplies with the step.
-/

namespace Sys2Proof

/-- A scalar register field s0–s63 (R74). -/
abbrev SReg := BitVec 6

/-- The lane types, in the order of their TY codes 0 to 15 (R80). -/
inductive Ty where
  | i8 | i16 | i32 | i64 | n8 | n16 | n32 | n64 | f16 | bf16 | f32 | f64 | e4m3 | e5m2 | e2m3 | e2m1
  deriving DecidableEq, Repr

/-- The special sources of R83 other than IMM20 and k0–k15. -/
inductive Special where
  | lane | cell | gang | team | cluster | cohort | grid | item | ntpl | tstamp | ngang | nteam | nclus
  | cx | cy | cz | nx | ny | nz
  deriving DecidableEq, Repr

/-- A source field (R82, R83). An unread source field holds zero, which is `v 0`. -/
inductive Src where
  | v (i : BitVec 8)
  | o (i : BitVec 3)
  | lt
  | imm
  | k (i : BitVec 4)
  | sp (x : Special)
  deriving DecidableEq, Repr

/-- The destination fields DL, DV and DO (R81). An instruction without a result has `v 0`; one that writes a
predicate has `v n` with the predicate's number. -/
inductive Dst where
  | v (i : BitVec 8)
  | o (i : BitVec 3)
  | vo (i : BitVec 8) (j : BitVec 3)
  | latch
  deriving DecidableEq, Repr

/-- RM: dynamic or one of the six rounding modes (R48, R80). -/
inductive Rm where
  | dyn | rne | rtz | rdn | rup | rna | rso
  deriving DecidableEq, Repr

/-- SM: the mode's choice, wrap or saturate (R80). -/
inductive Sm where
  | mode | wrap | sat
  deriving DecidableEq, Repr

/-- DM: the mode's choice, preserve or flush subnormals (R80). -/
inductive Dm where
  | mode | preserve | flush
  deriving DecidableEq, Repr

/-- The fields of a lane word other than OPC (R80). -/
structure LaneOp where
  ty : Ty
  fn : BitVec 4
  dst : Dst
  sa : Src
  sb : Src
  sc : Src
  /-- PG[36]: the guard predicate is negated. -/
  neg : Bool
  /-- PG[35:33]: the guard predicate. -/
  pg : BitVec 3
  rm : Rm
  sm : Sm
  dm : Dm
  yld : Bool
  imm : BitVec 20
  deriving DecidableEq, Repr

/-- A request for a measurement index, made of a die by a function (R403). -/
structure MeasRequest where
  die : Nat
  index : Nat
  fn : Nat
  deriving DecidableEq, Repr

/-- The sensor figures of one correction island at a tick (R353). Islands are numbered 0–47 for the regions, 48–55 for the stacks
and 56–59 for the ports of the dies (R352). -/
structure Sample where
  island : Nat
  /-- M, the measured energy of the tick, in eu. -/
  m : Nat
  /-- S, the static energy of the tick, in eu. -/
  s : Nat
  /-- The reading of a region's hottest junction, in °C (R366). -/
  temp : Int
  deriving DecidableEq, Repr

/-- Where an error is found (R287, R288). -/
inductive ErrSite where
  | l1 (core line : Nat)
  | near (region line : Nat)
  | home (line : Nat)
  | victim (line : Nat)
  | held (line : Nat)
  | dram (line : Nat)
  | scratch (core row : Nat)
  | reg (core off : Nat)
  | acc (core slot : Nat)
  | latch (g l : Nat)
  | operand (g l i : Nat)
  | tag (t n : Nat)
  | barrier (t : Nat)
  | laneQueue (g : Nat)
  | rowHold (t n : Nat)
  | faultSlot (asid n : Nat)
  | directory (asid core : Nat)
  deriving DecidableEq, Repr

/-- A swarm report flit (R368). -/
structure SwarmFlit where
  part : BitVec 12
  dev : Nat
  period : Nat
  floor : BitVec 16
  demand : BitVec 16
  deriving DecidableEq, Repr

/-- A fabric packet: the header of R385, its data bytes, and which bytes of its line are poisoned (notes/assumptions/40.md). -/
structure Packet where
  ptype : BitVec 8
  part : BitVec 12
  cw : BitVec 4
  src : BitVec 12
  dst : BitVec 12
  addr : Nat
  value : BitVec 64
  cval : BitVec 64
  key : BitVec 32
  op : BitVec 8
  mask : BitVec 128
  data : List Byte
  bad : BitVec 128
  deriving DecidableEq, Repr

/-- A host access over CXL.mem to device-physical address `pa` (R394): a read of `n` bytes or a write of bytes. -/
structure CxlAccess where
  pa : Nat
  n : Nat
  write : Option (List Byte)
  deriving DecidableEq, Repr

/-- A register of a context page (R396) or of a partition block (R400), by its offset, or the status register of the physical function (R411). -/
inductive PageReg where
  | ctx (asid off : Nat)
  /-- A register of page `page` of function `fn`, whatever context it is or was bound to (R396, R398). -/
  | page (fn page off : Nat)
  | part (p off : Nat)
  | status
  /-- The violation counter of the device (R387). -/
  | violations
  deriving DecidableEq, Repr

/-- What worker firmware and the supervisor supply when a context is created (R14, R28, R291, R328, R348, R351, R395). -/
structure CtxDesc where
  asid : Nat
  part : Nat
  fn : Nat
  page : Nat
  l1 : Nat
  parkt : Nat
  key : Nat
  ectr : BitVec 48
  cw : Nat
  depth : Nat
  refill : Nat
  gbase : Word64
  glim : Word64
  kbase : Word64
  klim : Word64
  pbudget : Nat
  deriving DecidableEq, Repr

/-- A firmware image as the verifier of R405 sees it, with what worker firmware sets in its partition, the default where it sets nothing: EPOCH in ticks
(R328), SLICE in units of 16 µs (R330), the threshold of the trim (R362) and READINT in ticks (R372). `digest` stands for the image's contents, as they
are measured (R403). -/
structure FwImage where
  ed25519 : Bool
  mldsa65 : Bool
  version : Nat
  digest : Nat
  epoch : Option Nat
  slice : Option Nat
  trimThr : Option Nat
  readint : Option Nat
  deriving DecidableEq, Repr

/-- A multicast-reduce group, with the device that is its root (R390). -/
structure GroupDesc where
  group : BitVec 12
  root : BitVec 12
  part : BitVec 12
  nc : Nat
  members : List (Nat × Nat)
  deriving DecidableEq, Repr

/-- The instructions and steps of the SX4, one constructor for each row of the opcode table. -/
inductive Instr where
  /-- R103: Writes a + b of two scalar registers to sd. -/
  | sadd (d : SReg) (a : SReg) (b : SReg)
  /-- R103: Writes a − b to sd. -/
  | ssub (d : SReg) (a : SReg) (b : SReg)
  /-- R103: Writes the low 64 bits of a × b to sd. -/
  | smul (d : SReg) (a : SReg) (b : SReg)
  /-- R103: Writes the high 64 bits of the signed product to sd. -/
  | smulh (d : SReg) (a : SReg) (b : SReg)
  /-- R103: Writes the high 64 bits of the unsigned product to sd. -/
  | smulhn (d : SReg) (a : SReg) (b : SReg)
  /-- R104: Writes the signed quotient, truncated toward zero, without trapping. -/
  | sdiv (d : SReg) (a : SReg) (b : SReg)
  /-- R104: Writes the unsigned quotient without trapping. -/
  | sdivn (d : SReg) (a : SReg) (b : SReg)
  /-- R104: Writes the signed remainder, which has the sign of a. -/
  | srem (d : SReg) (a : SReg) (b : SReg)
  /-- R104: Writes the unsigned remainder. -/
  | sremn (d : SReg) (a : SReg) (b : SReg)
  /-- R103: Writes a AND b to sd. -/
  | sand (d : SReg) (a : SReg) (b : SReg)
  /-- R103: Writes a OR b to sd. -/
  | sor (d : SReg) (a : SReg) (b : SReg)
  /-- R103: Writes a XOR b to sd. -/
  | sxor (d : SReg) (a : SReg) (b : SReg)
  /-- R103: Shifts a left by b[5:0]. -/
  | sshl (d : SReg) (a : SReg) (b : SReg)
  /-- R103: Shifts a right by b[5:0], filling with zeros. -/
  | sshr (d : SReg) (a : SReg) (b : SReg)
  /-- R103: Shifts a right by b[5:0], filling with the sign bit. -/
  | ssra (d : SReg) (a : SReg) (b : SReg)
  /-- R103: Writes the signed minimum of a and b. -/
  | smin (d : SReg) (a : SReg) (b : SReg)
  /-- R103: Writes the unsigned minimum of a and b. -/
  | sminn (d : SReg) (a : SReg) (b : SReg)
  /-- R103: Writes the signed maximum of a and b. -/
  | smax (d : SReg) (a : SReg) (b : SReg)
  /-- R103: Writes the unsigned maximum of a and b. -/
  | smaxn (d : SReg) (a : SReg) (b : SReg)
  /-- R103: Writes 1 if a < b as signed values, else 0. -/
  | sslt (d : SReg) (a : SReg) (b : SReg)
  /-- R103: Writes 1 if a < b as unsigned values, else 0. -/
  | ssltn (d : SReg) (a : SReg) (b : SReg)
  /-- R103: Writes 1 if a = b, else 0. -/
  | seq (d : SReg) (a : SReg) (b : SReg)
  /-- R103: Writes the number of 1 bits of a. -/
  | spopc (d : SReg) (a : SReg)
  /-- R103: Writes the number of leading zero bits of a. -/
  | sclz (d : SReg) (a : SReg)
  /-- R103: Writes a + (b << k), with k from 0 to 3. -/
  | slea (d : SReg) (a : SReg) (b : SReg) (k : BitVec 2)
  /-- R105: Writes a plus the sign-extended immediate. -/
  | saddi (d : SReg) (a : SReg) (i : BitVec 13)
  /-- R105: Writes a AND the sign-extended immediate. -/
  | sandi (d : SReg) (a : SReg) (i : BitVec 13)
  /-- R105: Writes a OR the sign-extended immediate. -/
  | sori (d : SReg) (a : SReg) (i : BitVec 13)
  /-- R105: Writes a XOR the sign-extended immediate. -/
  | sxori (d : SReg) (a : SReg) (i : BitVec 13)
  /-- R105: Shifts a left by an immediate count. -/
  | sshli (d : SReg) (a : SReg) (n : BitVec 6)
  /-- R105: Shifts a right by an immediate count, filling with zeros. -/
  | sshri (d : SReg) (a : SReg) (n : BitVec 6)
  /-- R105: Shifts a right by an immediate count, filling with the sign bit. -/
  | ssrai (d : SReg) (a : SReg) (n : BitVec 6)
  /-- R105: Writes 1 if a is signed-less than the immediate. -/
  | sslti (d : SReg) (a : SReg) (i : BitVec 13)
  /-- R105: Writes 1 if a is unsigned-less than the sign-extended immediate. -/
  | ssltni (d : SReg) (a : SReg) (i : BitVec 13)
  /-- R106: Loads the sign-extended 19-bit immediate into sd. -/
  | sli (d : SReg) (i : BitVec 19)
  /-- R106: Shifts sd left by 19 bits and appends 19 immediate bits. -/
  | slx (d : SReg) (i : BitVec 19)
  /-- R105: Writes the low 64 bits of a times the immediate. -/
  | smuli (d : SReg) (a : SReg) (i : BitVec 13)
  /-- R107: Branches if a = b. -/
  | sbeq (a : SReg) (b : SReg) (i : BitVec 13)
  /-- R107: Branches if a ≠ b. -/
  | sbne (a : SReg) (b : SReg) (i : BitVec 13)
  /-- R107: Branches if a < b as signed values. -/
  | sblt (a : SReg) (b : SReg) (i : BitVec 13)
  /-- R107: Branches if a ≥ b as signed values. -/
  | sbge (a : SReg) (b : SReg) (i : BitVec 13)
  /-- R107: Branches if a < b as unsigned values. -/
  | sbltn (a : SReg) (b : SReg) (i : BitVec 13)
  /-- R107: Branches if a ≥ b as unsigned values. -/
  | sbgen (a : SReg) (b : SReg) (i : BitVec 13)
  /-- R108: Decrements s[sa] and branches while the result is nonzero. -/
  | sloop (a : SReg) (i : BitVec 13)
  /-- R109: Jumps relative to SPC. -/
  | sj (i : BitVec 25)
  /-- R109: Jumps relative to SPC and writes the link to s63. -/
  | sjal (i : BitVec 25)
  /-- R110: Jumps to s[sa] + offset. -/
  | sjr (a : SReg) (i : BitVec 13)
  /-- R110: Jumps to s[sa] + offset and writes the link to sd. -/
  | sjalr (d : SReg) (a : SReg) (i : BitVec 13)
  /-- R111: Loads a zero-extended byte through G. -/
  | sldb (d : SReg) (a : SReg) (i : BitVec 13)
  /-- R111: Loads a zero-extended halfword through G. -/
  | sldh (d : SReg) (a : SReg) (i : BitVec 13)
  /-- R111: Loads a zero-extended word through G. -/
  | sldw (d : SReg) (a : SReg) (i : BitVec 13)
  /-- R111: Loads 8 bytes through G. -/
  | sldd (d : SReg) (a : SReg) (i : BitVec 13)
  /-- R111: Loads a sign-extended byte through G. -/
  | sldbx (d : SReg) (a : SReg) (i : BitVec 13)
  /-- R111: Loads a sign-extended halfword through G. -/
  | sldhx (d : SReg) (a : SReg) (i : BitVec 13)
  /-- R111: Loads a sign-extended word through G. -/
  | sldwx (d : SReg) (a : SReg) (i : BitVec 13)
  /-- R111: Loads 8 bytes through the K constant segment. -/
  | sldk (d : SReg) (a : SReg) (i : BitVec 13)
  /-- R111: Stores the low byte of s[sb] through G. -/
  | sstb (b : SReg) (a : SReg) (i : BitVec 13)
  /-- R111: Stores the low halfword of s[sb] through G. -/
  | ssth (b : SReg) (a : SReg) (i : BitVec 13)
  /-- R111: Stores the low word of s[sb] through G. -/
  | sstw (b : SReg) (a : SReg) (i : BitVec 13)
  /-- R111: Stores 8 bytes of s[sb] through G. -/
  | sstd (b : SReg) (a : SReg) (i : BitVec 13)
  /-- R111: Loads 8 bytes from scratchpad or from the gang's register window. -/
  | slds (d : SReg) (a : SReg) (i : BitVec 13)
  /-- R111: Stores 8 bytes to scratchpad or to the gang's register window. -/
  | ssts (b : SReg) (a : SReg) (i : BitVec 13)
  /-- R115: Waits for room, drains the scalar write-combining buffers, and appends a lane block with a snapshot of s32–s47 and MODE. -/
  | lq (a : SReg) (i : BitVec 13)
  /-- R116: Waits until every enqueued lane block has ended, its accesses are accepted and its flags are merged. -/
  | lqw
  /-- R117: Waits as LQW does, then reads one lane's 32-bit register into sd. -/
  | sgetl (d : SReg) (r : BitVec 8) (l : BitVec 5)
  /-- R177: Checks a block copy and queues it at the region's copy engines on a completion tag. -/
  | bcopy (n : BitVec 6) (a : SReg) (b : SReg) (x : BitVec 3) (y : BitVec 3)
  /-- R178: Checks a block reduction from S and queues it at the copy engines on a tag. -/
  | bred (n : BitVec 6) (a : SReg) (b : SReg) (x : BitVec 3) (o : BitVec 4)
  /-- R189: Captures and checks a tile-task record, then enqueues the task and attaches its signal tag. -/
  | ttq (a : SReg) (i : BitVec 13)
  /-- R176: Writes the status word of a completion tag to sd without waiting. -/
  | tagx (d : SReg) (n : BitVec 6)
  /-- R198: Installs a code-table image as the team's next table version, waiting for tasks that still use the other buffer. -/
  | ctset (a : SReg) (i : BitVec 13)
  /-- R185: Creates, looks up or removes the twin range of a shadowed G range. -/
  | shadow (d : SReg) (a : SReg) (b : SReg)
  /-- R187: Waits for copies into the twin, then exchanges the pages of the range and its twin and advances the generation. -/
  | publish (a : SReg)
  /-- R188: Probes the translation of a G address and writes a status word without trapping. -/
  | trchk (d : SReg) (a : SReg) (i : BitVec 13)
  /-- R211: Arrives at a hardware barrier with a release, then waits for its phase and acquires. -/
  | bar (l : BitVec 3) (x : BitVec 4)
  /-- R211: Arrives at a hardware barrier with a release. -/
  | bara (l : BitVec 3) (x : BitVec 4)
  /-- R211: Waits for the phase of the gang's outstanding arrival to complete, then acquires. -/
  | barw (l : BitVec 3) (x : BitVec 4)
  /-- R213: Waits until every named tag has COUNT 0, then acquires. -/
  | waitall (a : SReg)
  /-- R213: Waits until some named tag is DONE and writes the lowest such index. -/
  | waitany (d : SReg) (a : SReg)
  /-- R213: Writes the lowest named tag with DONE = 1, or 64, without waiting. -/
  | tagff (d : SReg) (a : SReg)
  /-- R213: Clears DONE and ERR of the named tags. -/
  | tagclr (a : SReg)
  /-- R169: Drains scalar write-combining buffers and waits until the gang's earlier scalar accesses are performed at the scope. -/
  | fence (s : BitVec 3)
  /-- R171: Reads a key word atomically and acquires the ranges bound to it. -/
  | acq (d : SReg) (a : SReg) (s : BitVec 3)
  /-- R171: Releases the gang's writes and bound ranges, then stores a key word atomically. -/
  | rel (a : SReg) (b : SReg) (s : BitVec 3)
  /-- R172: Binds a G range to a synchronisation object at a scope, installing the binding at every home slice. -/
  | bind (c : SReg) (a : SReg) (b : SReg) (s : BitVec 3)
  /-- R173: Removes the binding with the given virtual base. -/
  | unbind (a : SReg)
  /-- R215: Releases at device scope and sets a bit of the context's event vector. -/
  | evset (e : BitVec 8)
  /-- R215: Waits until an event bit is 1, then acquires at device scope. -/
  | evwait (e : BitVec 8)
  /-- R216: Tests a launch queue, captures and checks a launch record, appends or refuses it, and writes a status. -/
  | launch (d : SReg) (a : SReg) (q : BitVec 3)
  /-- R218: Waits for the gang's blocks and copies, then turns the gang into a template and begins stamping. -/
  | freeze
  /-- R217: Sets the pending item count of the gang's template. -/
  | stamp (a : SReg)
  /-- R221: Checks and records an 8-byte store that each stamped item performs at a strided address. -/
  | stt (b : SReg) (a : SReg) (i : BitVec 13)
  /-- R223: Takes a pending pre-emption, or makes the quarter skip the gang once. -/
  | yield
  /-- R223: Ends the scalar stream and drains its write-combining buffers. -/
  | exit
  /-- R223: Completes, then raises BREAK with SW = 1 and the given code. -/
  | trap (i : BitVec 13)
  /-- R164: Puts a row slot in OPENING for a persistent hold of the named row segments. -/
  | rowpinP (n : BitVec 3) (a : SReg) (m : BitVec 8)
  /-- R164: Puts a row slot in OPENING for a volatile hold of the named row segments. -/
  | rowpinV (n : BitVec 3) (a : SReg) (m : BitVec 8)
  /-- R166: Waits for earlier row accesses, writes dirty segments back and frees the row slot. -/
  | rowrel (n : BitVec 3)
  /-- R167: Writes a row slot's status word to sd without waiting. -/
  | rowq (d : SReg) (n : BitVec 3)
  /-- R231: Requests an operating point for the island and writes whether it lies in the allowance. -/
  | opreq (d : SReg) (n : BitVec 4)
  /-- R232: Writes the context's energy bucket word to sd. -/
  | ebkt (d : SReg)
  /-- R234: Emits a MARK packet into the waggle trace when tracing is enabled. -/
  | tmark (v : BitVec 12)
  /-- R230: Ends the PREEMPT handler: drains the gang's stores and suspends it with a resume SPC. -/
  | pdone (a : SReg)
  /-- R235: Requests device ownership of a G range from the host and waits, then acquires at system scope. -/
  | rngacq (a : SReg) (b : SReg)
  /-- R235: Writes a range back, marks its pages host-owned and invalidates their translations. -/
  | rngrel (a : SReg) (b : SReg)
  /-- R233: Sets or clears the gang's drowse bit. -/
  | drowse (e : BitVec 1)
  /-- R236: Reads a control and status register into sd. -/
  | csrr (d : SReg) (c : BitVec 12)
  /-- R236: Writes s[sb] to a control and status register at S. -/
  | csrw (b : SReg) (c : BitVec 12)
  /-- R237: Waits as LQW does, then writes a segment's BASE and LIM words at S. -/
  | segw (a : SReg) (b : SReg) (s : BitVec 3)
  /-- R227: Restores the lane frame and privilege and resumes at TSPC, replaying pending lanes. -/
  | tret
  /-- R238: Maps a zero-filled pool page at a pool-backed first-touch entry and writes a status. -/
  | mapf (d : SReg) (a : SReg)
  /-- R239: Places the frame's fault in a fault slot and parks the gang until a reply lands. -/
  | fltpark (d : SReg)
  /-- R240: Invalidates the TLB entry of TADDR, frees the frame's slot and returns as TRET. -/
  | fltret
  /-- R241: Invalidates core and walk-ahead TLB entries of a page, an ASID or the partition. -/
  | tlbinv (a : SReg) (k : BitVec 2)
  /-- R242: Writes the partition's pool word to sd. -/
  | poolq (d : SReg)
  /-- R174: Writes dirty copies of a G range to DRAM at the scope. -/
  | cflush (a : SReg) (b : SReg) (s : BitVec 3)
  /-- R174: Writes back a G range as CFLUSH does and invalidates the issuing core's copies. -/
  | cinv (a : SReg) (b : SReg) (s : BitVec 3)
  /-- R77: Raises BREAK precisely at its own SPC. -/
  | sbrk (x : BitVec 25)
  /-- R124: Adds two integer operands per active lane, wrapping or saturating. -/
  | vadd (w : LaneOp)
  /-- R124: Subtracts two integer operands per lane, wrapping or saturating. -/
  | vsub (w : LaneOp)
  /-- R124: Multiplies integers per lane, wrapping or saturating. -/
  | vmul (w : LaneOp)
  /-- R124: Writes the high half of the integer product per lane. -/
  | vmulh (w : LaneOp)
  /-- R124: Computes a × b + c exactly, then wraps or saturates. -/
  | vmad (w : LaneOp)
  /-- R125: Divides integers per lane without trapping. -/
  | vdiv (w : LaneOp)
  /-- R125: Writes the integer remainder per lane without trapping. -/
  | vrem (w : LaneOp)
  /-- R124: Writes the absolute value per lane. -/
  | vabs (w : LaneOp)
  /-- R124: Writes the negation per lane. -/
  | vneg (w : LaneOp)
  /-- R124: Writes the lesser integer per lane. -/
  | vmin (w : LaneOp)
  /-- R124: Writes the greater integer per lane. -/
  | vmax (w : LaneOp)
  /-- R124: Bitwise AND per lane. -/
  | vand (w : LaneOp)
  /-- R124: Bitwise OR per lane. -/
  | vor (w : LaneOp)
  /-- R124: Bitwise XOR per lane. -/
  | vxor (w : LaneOp)
  /-- R124: Bitwise complement per lane. -/
  | vnot (w : LaneOp)
  /-- R126: Shifts left per lane, wrapping or saturating. -/
  | vshl (w : LaneOp)
  /-- R126: Shifts right per lane, filling with zeros. -/
  | vshr (w : LaneOp)
  /-- R126: Shifts right per lane, filling with bit w−1. -/
  | vsra (w : LaneOp)
  /-- R126: Rotates the w bits left per lane. -/
  | vrot (w : LaneOp)
  /-- R124: Counts 1 bits per lane. -/
  | vpopc (w : LaneOp)
  /-- R124: Counts leading zeros per lane. -/
  | vclz (w : LaneOp)
  /-- R126: Extracts a bit field per lane. -/
  | vbfx (w : LaneOp)
  /-- R126: Inserts a bit field per lane. -/
  | vbfi (w : LaneOp)
  /-- R127: Compares integers and writes a predicate per lane. -/
  | vcmp (w : LaneOp)
  /-- R127: Selects a or b per lane by a predicate. -/
  | vsel (w : LaneOp)
  /-- R127: Adds with carry-in and writes carry-out to a predicate. -/
  | vadc (w : LaneOp)
  /-- R128: Adds the absolute difference to an accumulator per lane. -/
  | vsad (w : LaneOp)
  /-- R128: Computes a four-element 8-bit dot product plus c per lane. -/
  | vdot4 (w : LaneOp)
  /-- R129: Floating addition rounded once. -/
  | fadd (w : LaneOp)
  /-- R129: Floating subtraction rounded once. -/
  | fsub (w : LaneOp)
  /-- R129: Floating multiplication rounded once. -/
  | fmul (w : LaneOp)
  /-- R129: Fused multiply-add rounded once. -/
  | ffma (w : LaneOp)
  /-- R130: Floating minimum, preferring numbers or propagating NaN. -/
  | fmin (w : LaneOp)
  /-- R130: Floating maximum, preferring numbers or propagating NaN. -/
  | fmax (w : LaneOp)
  /-- R130: Clears the sign bit. -/
  | fabs (w : LaneOp)
  /-- R130: Inverts the sign bit. -/
  | fneg (w : LaneOp)
  /-- R129: Floating division rounded once. -/
  | fdiv (w : LaneOp)
  /-- R129: Floating square root rounded once. -/
  | fsqrt (w : LaneOp)
  /-- R132: Computes a correctly rounded transcendental function per lane. -/
  | ftrn (w : LaneOp)
  /-- R131: Compares floating values, quietly or signalling, into a predicate. -/
  | fcmp (w : LaneOp)
  /-- R131: Writes a one-hot class mask of a floating value. -/
  | fclass (w : LaneOp)
  /-- R133: Computes a × 2^b rounded once. -/
  | fscale (w : LaneOp)
  /-- R133: Rounds to an integral value in the same format. -/
  | frnd (w : LaneOp)
  /-- R133: Computes a two-element f16 or bf16 dot product plus an f32, rounded once. -/
  | fdot2 (w : LaneOp)
  /-- R134: Converts between integer, binary and narrow types. -/
  | cvt (w : LaneOp)
  /-- R135: Converts blocks of 8 lanes into a scaled block with a shared E8M0 scale. -/
  | cvtb (w : LaneOp)
  /-- R136: Expands one scaled matrix element into a binary value. -/
  | cvtx (w : LaneOp)
  /-- R137: Writes the largest magnitude over each 8-lane block. -/
  | vamax (w : LaneOp)
  /-- R138: Copies a value at the width of its type. -/
  | vmov (w : LaneOp)
  /-- R139: Gathers each lane's value from a lane index. -/
  | vperm (w : LaneOp)
  /-- R139: Broadcasts one lane's value to every active lane. -/
  | vbcast (w : LaneOp)
  /-- R140: Reduces across the active lanes of the group as a fixed pairwise tree. -/
  | vreds (w : LaneOp)
  /-- R140: Computes an inclusive or exclusive scan in ascending lane order. -/
  | vscan (w : LaneOp)
  /-- R141: Computes all, any, ballot or uniformity across the active lanes. -/
  | vvote (w : LaneOp)
  /-- R142: Writes a ≠ 0 to a predicate. -/
  | vpopSet (w : LaneOp)
  /-- R142: Writes the predicates as bits of a lane result. -/
  | vpopGet (w : LaneOp)
  /-- R142: Writes bits of a value into p1–p7. -/
  | vpopPut (w : LaneOp)
  /-- R143: Branches each cell that has an active lane with a nonzero condition, splitting the group. -/
  | lbra (w : LaneOp)
  /-- R143: Jumps each cell that has an active lane. -/
  | ljmp (w : LaneOp)
  /-- R143: Jumps and writes the return word index. -/
  | lcall (w : LaneOp)
  /-- R143: Jumps each cell to the word index held by its lowest active lane. -/
  | lret (w : LaneOp)
  /-- R144: Pushes the cell mask and narrows it by the guard and condition. -/
  | lif (w : LaneOp)
  /-- R144: Inverts the cell mask within the pushed entry. -/
  | lelse (w : LaneOp)
  /-- R144: Pops the cell mask. -/
  | lendif (w : LaneOp)
  /-- R145: Waits, and rejoins the cells that meet at the same LREGANG into one group. -/
  | lregang (w : LaneOp)
  /-- R145: Waits at the end of the lane block; the block ends when every cell waits there. -/
  | lend (w : LaneOp)
  /-- R145: Sets the exited bit of every active lane. -/
  | lexit (w : LaneOp)
  /-- R147: Makes the quarter skip the gang once. -/
  | lyield (w : LaneOp)
  /-- R146: Arrives the cell at a gang barrier and waits for the others. -/
  | lbarg (w : LaneOp)
  /-- R147: Does nothing. -/
  | lnop (w : LaneOp)
  /-- R153: Loads n bytes per active lane through a segment, element-precisely. -/
  | ldv (w : LaneOp)
  /-- R153: Stores n bytes per active lane through a segment. -/
  | stv (w : LaneOp)
  /-- R154: Gathers G elements as one packet through home slices and base-die gather expanders. -/
  | ldpk (w : LaneOp)
  /-- R154: Scatters G elements as one packet without allocation. -/
  | stpk (w : LaneOp)
  /-- R156: Stores through G into the cell's write-combining buffers, non-temporally. -/
  | stnt (w : LaneOp)
  /-- R157: Brings lines into L1 and the near slice, never trapping on an element. -/
  | pref (w : LaneOp)
  /-- R159: Performs an atomic update per lane at the serialising point and returns the old value. -/
  | atom (w : LaneOp)
  /-- R159: Performs an atomic update per lane without a return. -/
  | atomn (w : LaneOp)
  /-- R161: Sends each lane's value to a multicast-reduce window. -/
  | redmc (w : LaneOp)
  /-- R165: Reads from a held row slot through segment H. -/
  | rowld (w : LaneOp)
  /-- R165: Writes to a held row slot through segment H. -/
  | rowst (w : LaneOp)
  /-- R205: Waits for earlier tasks on the tile, then reads and converts an accumulator slot. -/
  | accrd (w : LaneOp)
  /-- R206: Writes an i64 with a unit into an accumulator slot as residues. -/
  | accwr (w : LaneOp)
  /-- R158: Reads comb-map bytes through segment M. -/
  | ldmap (w : LaneOp)
  /-- R158: Writes comb-map bytes through segment M. -/
  | stmap (w : LaneOp)
  /-- R170: Drains the cell's buffers and waits until its earlier lane accesses are performed at the scope. -/
  | vfence (w : LaneOp)
  /-- R214: Each cell waits until a tag has COUNT 0, then acquires. -/
  | lwaitt (w : LaneOp)
  /-- R419: Emits a MARK trace packet per cell that has an active lane. -/
  | ltmark (w : LaneOp)
  /-- R77: A fetched scalar word with an unassigned primary, SALU fn or nonzero must-be-zero field raises ILLEGAL precisely, uncharged. -/
  | illegalEncoding
  /-- R100: A scalar fetch at SPC that does not translate, is not owned, is poisoned or reaches 2^57 raises XLAT, OWN or POISON at that SPC. -/
  | scalarFetchFault
  /-- R372: Every READINT ticks a signed meter reading is issued for each live context. -/
  | readingPeriodic (asid : Nat)
  /-- R388: A request without completion after 1 ms is undelivered: data poisoned or team killed. -/
  | requestTimeout (tag : Nat)
  /-- R414: The core buffer writes a 62-byte trace record into the context's ring. -/
  | traceDrain (core asid : Nat)
  /-- R426: After 1,024 idle cycles the remaining bytes of a context are drained as a short record. -/
  | traceIdleFlush (core asid : Nat)
  /-- R23: The lanes take the next lane-queue entry and start it with cleared latches and masks. -/
  | laneBlockStart (g : Nat)
  /-- R37: Once its stores are accepted, the gang reduces its barriers and frees its window and slot. -/
  | gangRetire (g : Nat)
  /-- R37: After the last task and copy finish, the team releases rows, clears tags and frees its store. -/
  | teamExit (t : Nat)
  /-- R196: An abandoned task's TASKFMT is delivered at a gang's next scalar boundary, or recorded in a slot. -/
  | deferredTaskfmt (t : Nat)
  /-- R192: The region scheduler starts a startable tile task on a free engine. -/
  | taskStart (r : Nat)
  /-- R193: An engine completes one step of a task and saves its progress. -/
  | taskStep (t k : Nat)
  /-- R287: A patrol scrub visits rows and corrects what it finds. -/
  | patrolScrub (stack corrected : Nat)
  /-- R366: After four hot ticks a region is reported as a hot spot to the scheduler. -/
  | hotSpot (r : Nat)
  /-- R182: A copy engine reads and writes one 64 KiB chunk and subtracts it from the tag. -/
  | copyChunk (r e : Nat)
  /-- R164: An OPENING row slot takes or shares a table entry and becomes HELD, or becomes LOST. -/
  | rowOpenComplete (t n : Nat)
  /-- R219: A template creates its next stamped item in a free slot and window. -/
  | itemCreate (g : Nat)
  /-- R229: A pre-emption is delivered at an instruction boundary: frame saved, SPC := PVEC. -/
  | preemptDelivery (g : Nat)
  /-- R229: When the handler budget reaches 0 before PDONE, the gang is force-saved. -/
  | pbleftExpiry (g : Nat)
  /-- R332: When every team of a pre-empted cluster is saved, the cluster becomes READY and its room is freed. -/
  | clusterSaved (c : Nat)
  /-- R306: After PARKT of stall, with waiting work helped, a stalled cluster begins SWAPPING. -/
  | swapBegin (c : Nat)
  /-- R307: The swap image is written, the cluster becomes ABSENT and its resources are freed. -/
  | swapSaveComplete (c : Nat)
  /-- R334: A cluster's restore completes: acquire, row holds re-opened, gangs resume. -/
  | restoreComplete (c : Nat)
  /-- R324: The scheduler places a READY cluster or queue head onto a region. -/
  | clusterPlace (p : Nat)
  /-- R322: The scheduler captures, checks and statuses a host-appended launch record. -/
  | hostRecordRead (asid q : Nat)
  /-- R399: A fault slot record is written to the host fault ring when there is room. -/
  | faultRecordPost (asid : Nat)
  /-- R353: Every 16 µs each island samples its sensor and charges are harvested. -/
  | tick (m : List Sample)
  /-- R328: Every EPOCH ticks every context's epoch consumption becomes 0. -/
  | epochStart (p : Nat)
  /-- R330: A slice clock reaching SLICE pre-empts the context if a preceding context is waiting. -/
  | sliceEnd (asid : Nat)
  /-- R326: A blocked head's age grows by 1 every 64 µs, and its candidate freezes at 16. -/
  | ageStep (asid q : Nat)
  /-- R360: A 0.5 µs frequency switch of an island completes. -/
  | frequencySwitch (r : Nat)
  /-- R360: An island's voltage reaches its target, allowing a switch up. -/
  | voltageSlewEnd (r : Nat)
  /-- R361: A region's lane datapaths finish moving to or from the drowse rail. -/
  | drowseRailMove (r : Nat)
  /-- R362: Every 1 ms the undervolt trim moves by 5 mV according to the correctable error count. -/
  | trimStep (r : Nat)
  /-- R363: Trimming resumes after a 1 s hold-off. -/
  | undervoltHoldoffEnd (r : Nat)
  /-- R287: A correctable error is corrected and counted for the island or stack. -/
  | correctableError (x : ErrSite)
  /-- R288: An uncorrectable error poisons data, or kills a team or destroys the context. -/
  | uncorrectableError (x : ErrSite)
  /-- R281: Refresh of a bank writes back, closes and re-activates its held rows. -/
  | refresh (stack pc : Nat) (bad : List (Nat × Nat))
  /-- R364: A junction at 105 °C gates all arithmetic and base-die logic clocks. -/
  | thermalStop
  /-- R364: Clocks resume when every sensor reads below 95 °C. -/
  | thermalResume
  /-- R195: Task that accumulates exact products into one or two residue tiles. -/
  | mxp (t k : Nat)
  /-- R195: Task that writes a ring of partial planes, one per K block. -/
  | mxb (t k : Nat)
  /-- R200: Task that adds scaled partial planes into an f32 plane in ascending block order. -/
  | scacc (t k : Nat)
  /-- R201: Task that zeroes tiles and clears their metadata. -/
  | accz (t k : Nat)
  /-- R202: Task that converts residue tiles to f32 or i64 tiles. -/
  | acccv (t k : Nat)
  /-- R203: Task that copies tiles and metadata bit for bit. -/
  | accmov (t k : Nat)
  /-- R368: Every 1 ms the device sends its report and applies its new rack grant. -/
  | swarmPeriod (demand measured : Nat)
  /-- R368: A swarm report flit from a member is received and recorded. -/
  | swarmReport (x : SwarmFlit)
  /-- R368: Three periods without a member's report limit the device to its floor. -/
  | swarmReportTimeout (member : Nat)
  /-- R385: A fabric read request packet is checked and served at the destination. -/
  | readRequest (x : Packet)
  /-- R385: A fabric write packet is checked and merged at the destination. -/
  | write (x : Packet)
  /-- R385: A fabric read completion returns data to the requester. -/
  | readCompletion (x : Packet)
  /-- R385: A fabric atomic packet is performed at the destination. -/
  | atomic (x : Packet)
  /-- R385: A fabric write acknowledgement reaches the writer. -/
  | writeAcknowledgement (x : Packet)
  /-- R391: A reduce contribution is buffered at the root for its element's round. -/
  | reduceContribution (x : Packet)
  /-- R392: A delivery packet writes a round's root value at a member. -/
  | reduceDelivery (x : Packet)
  /-- R385: A firmware message packet arrives over the fabric. -/
  | firmwareMessage (x : Packet)
  /-- R384: A fabric port trains at the highest common generation, or stays down. -/
  | portTraining (port : Nat) (far : Option Nat) (gen2ok : Bool)
  /-- R394: A host CXL.mem access is served in a window's context, or poisoned and dropped. -/
  | cxlMemAccess (x : CxlAccess)
  /-- R318: Host write of a queue's ring address, accepted only while EN is 0. -/
  | qbase (asid q : Nat) (v : Word64)
  /-- R318: Host write of a queue's configuration, with EN-only behaviour while live. -/
  | qcfg (asid q : Nat) (v : Word64)
  /-- R319: Host write that appends records to a host-fed queue, or sets TERR. -/
  | qtail (asid q : Nat) (v : Word64)
  /-- R320: Host W1C write that clears TERR or FERR, restarting a stopped queue. -/
  | qstat (asid q : Nat) (v : Word64)
  /-- R339: Host write of a grid identifier that kills every team of that grid. -/
  | kill (asid : Nat) (v : Word64)
  /-- R399: Host write that consumes fault ring entries, ignored if it moves back or passes FRTAIL. -/
  | frhead (asid : Nat) (v : Word64)
  /-- R397: Host write that delivers one fault reply, or is discarded. -/
  | reply (asid : Nat) (v : Word64)
  /-- R400: Operator write that issues a requested meter reading for an ASID. -/
  | mreq (p : Nat) (v : Word64)
  /-- R400: Operator write that consumes meter ring entries. -/
  | mrhead (p : Nat) (v : Word64)
  /-- R401: Write of a CXL.mem window base and EN, with its liveness checks. -/
  | hdmb (p n : Nat) (v : Word64)
  /-- R401: Write of a CXL.mem window length and ASID, ignored while live. -/
  | hdml (p n : Nat) (v : Word64)
  /-- R359: Operator write of a partition's point allowance, floor and cap. -/
  | pwrctl (p : Nat) (v : Word64)
  /-- R413: Write of the trace control, taking effect per gang with a SYNC on enabling. -/
  | trctl (asid : Nat) (v : Word64)
  /-- R414: Write that consumes trace records and retries stalled draining. -/
  | trhead (asid : Nat) (v : Word64)
  /-- R412: Read that returns and clears the dropped-packet count. -/
  | trlost (asid : Nat)
  /-- R414: Read of the trace ring tail that acquires the ring at device scope. -/
  | trtail (g : Nat)
  /-- R6: A write to a register that has no row of its own sets its RW fields. -/
  | registerWrite (x : PageReg) (v : Word64)
  /-- R418: After 4,096 cycles or 256 packets the gang emits a cadence SYNC. -/
  | traceSyncCadence (g : Nat)
  /-- R408: A function level reset destroys every context of the virtual function. -/
  | flr (f : Nat)
  /-- R402: A function entering TDISP ERROR stops its queues and destroys its contexts. -/
  | tdispError (f : Nat)
  /-- R410: PERST# causes a warm reset and the whole bring-up. -/
  | perst
  /-- R410: Power-on resets the device and runs bring-up. -/
  | coldReset
  /-- R410: An operator request issues final readings and then resets. -/
  | warmResetRequest
  /-- R395: Worker firmware creates a context bound to one context page. -/
  | contextCreate (x : CtxDesc)
  /-- R357: A context is destroyed on request and its accounts are closed. -/
  | contextDestroy (asid : Nat)
  /-- R406: A partition's worker firmware is replaced after pre-emption and verification. -/
  | workerFirmwareUpdate (p : Nat) (x : FwImage)
  /-- R406: Regions move between partitions when unused, closing the current tick. -/
  | regionMove (r p : Nat)
  /-- R407: A failed region is replaced by its die's spare under the same number. -/
  | spareRegionSwap (r : Nat) (lost : List Nat)
  /-- R403: SPDM request answered by a die's identity. -/
  | getVersion (die : Nat)
  /-- R403: SPDM capabilities request. -/
  | getCapabilities (die : Nat)
  /-- R403: SPDM algorithm negotiation request. -/
  | negotiateAlgorithms (die : Nat)
  /-- R403: SPDM certificate digests request. -/
  | getDigests (die : Nat)
  /-- R403: SPDM certificate chain request. -/
  | getCertificate (die : Nat)
  /-- R403: SPDM challenge request signed by the die. -/
  | challenge (die : Nat)
  /-- R403: SPDM request for the measurement indexes. -/
  | getMeasurements (x : MeasRequest)
  /-- R403: SPDM key exchange opening a session. -/
  | keyExchange (die : Nat)
  /-- R403: SPDM finish completing the session. -/
  | finish (die : Nat)
  /-- R402: A virtual function enters the TDISP state CONFIG_LOCKED, after which configuration writes and context-binding changes are refused. -/
  | tdispConfigLocked (f : Nat)
  /-- R402: A virtual function enters the TDISP state RUN, restricting its BAR and DMA to its selective IDE stream. -/
  | tdispRun (f : Nat)
  /-- R402: A virtual function returns to the TDISP state CONFIG_UNLOCKED, the only way out of ERROR. -/
  | tdispConfigUnlocked (f : Nat)
  /-- R411: A host PCIe configuration request is answered with Retry Status before bring-up step 6, and refused as a write in CONFIG_LOCKED or RUN. -/
  | configurationRequest (f : Nat) (write : Bool)
  /-- R388: A trained fabric port fails, and its traffic is rerouted over the other ports. -/
  | portFailure (port : Nat)
  /-- R390: A multicast-reduce group is set up through the physical function of each member, with its FPID, NC, members and window. -/
  | multicastReduceGroupSetup (x : GroupDesc)
  /-- R385: A fabric packet with TYPE 9 to 255 is dropped at ingress. -/
  | unknownPacketType (x : Packet)
  deriving DecidableEq, Repr

end Sys2Proof
end

