-- ==== Sys2Proof/Machine/Legal.lean ====
section
/-!
DEFINITION. What the encoding rules ask of a lane word (R80 to R86, R119, R147 to R149, R204): for each opcode the sources it reads and at which
width, its result, and the fields it uses. And what they ask of the codes in scalar words (R78, R79, R177, R178).
-/

namespace Sys2Proof

/-- The TY code (R80). -/
def Ty.code : Ty → Nat
  | .i8 => 0 | .i16 => 1 | .i32 => 2 | .i64 => 3 | .n8 => 4 | .n16 => 5 | .n32 => 6 | .n64 => 7
  | .f16 => 8 | .bf16 => 9 | .f32 => 10 | .f64 => 11 | .e4m3 => 12 | .e5m2 => 13 | .e2m3 => 14 | .e2m1 => 15

/-- The type of a TY code. -/
def Ty.ofCode : Nat → Ty
  | 0 => .i8 | 1 => .i16 | 2 => .i32 | 3 => .i64 | 4 => .n8 | 5 => .n16 | 6 => .n32 | 7 => .n64
  | 8 => .f16 | 9 => .bf16 | 10 => .f32 | 11 => .f64 | 12 => .e4m3 | 13 => .e5m2 | 14 => .e2m3 | _ => .e2m1

/-- The width of a type's value in bits (R42, R134). -/
def Ty.width : Ty → Nat
  | .i8 | .n8 | .e4m3 | .e5m2 => 8
  | .i16 | .n16 | .f16 | .bf16 => 16
  | .i32 | .n32 | .f32 => 32
  | .i64 | .n64 | .f64 => 64
  | .e2m3 => 6
  | .e2m1 => 4

def Ty.signed : Ty → Bool
  | .i8 | .i16 | .i32 | .i64 => true
  | _ => false

/-- f16, bf16, f32 or f64. -/
def Ty.binary (t : Ty) : Bool := 8 ≤ t.code && t.code ≤ 11

namespace Machine

/-- How a source field is read: not at all, at the type's width (`w` bits; a floating type reads IMM20 as F20), as a 32-bit integer, or as an address
of a lane memory instruction, 64-bit for segment G (R119, R148). -/
inductive Rd where
  | no
  | val (w : Nat) (flt : Bool)
  | int32
  | addr (g : Bool)
  deriving DecidableEq, Repr

/-- What a lane instruction produces: nothing, a lane result of `w` bits, or a predicate (R81, R120). -/
inductive Res where
  | no
  | val (w : Nat)
  | pred
  deriving DecidableEq, Repr

/-- How IMM20 is used beyond a source that names it: not at all, in full, or below a bound (R84). -/
inductive ImmUse where
  | no
  | all
  | below (n : Nat)
  deriving DecidableEq, Repr

/-- What an opcode asks of its word. -/
structure LSpec where
  a : Rd := .no
  b : Rd := .no
  c : Rd := .no
  res : Res := .no
  rm : Bool := false
  sm : Bool := false
  dm : Bool := false
  imm : ImmUse := .no
  /-- The guard must be PG = 0b0000. -/
  bare : Bool := false
  deriving DecidableEq, Repr

/-- The type's own read. -/
def rdTy (t : Ty) : Rd := .val t.width t.binary

/-- The row of an opcode for a word, none when its TY or FN is not accepted (R86). -/
def laneSpec (opc : Nat) (w : LaneOp) : Option LSpec :=
  let t := w.ty
  let n := t.code
  let f := w.fn.toNat
  let v := rdTy t
  let r : Res := .val t.width
  let int := n < 8
  let bin := t.binary
  let low := 8 ≤ n && n ≤ 10
  let wide := n < 12
  let mk := fun (ok : Bool) (x : LSpec) => if ok then some x else none
  let i2 := fun (sm : Bool) => mk (int && f = 0) { a := v, b := v, res := r, sm := sm }
  let i1 := fun (sm : Bool) => mk (int && f = 0) { a := v, res := r, sm := sm }
  let ish := fun (sm : Bool) => mk (int && f = 0) { a := v, b := .int32, res := r, sm := sm }
  let f2 := mk (bin && f = 0) { a := v, b := v, res := r, rm := true, dm := true }
  let f1 := mk (bin && f = 0) { a := v, res := r, rm := true, dm := true }
  let ctl := n = 0 && f = 0
  let seg := fun (l : List Nat) => wide && l.contains f
  let atomTy := n = 2 || n = 3 || n = 6 || n = 7 || n = 9 || n = 10
  match opc with
  | 0x00 | 0x01 | 0x02 => i2 true
  | 0x03 => i2 false
  | 0x04 => mk (int && f = 0) { a := v, b := v, c := v, res := r, sm := true }
  | 0x05 | 0x06 => i2 false
  | 0x07 | 0x08 => i1 true
  | 0x09 | 0x0A | 0x0B | 0x0C | 0x0D => i2 false
  | 0x0E => i1 false
  | 0x0F => ish true
  | 0x10 | 0x11 | 0x12 => ish false
  | 0x13 | 0x14 => i1 false
  | 0x15 => ish false
  | 0x16 => mk (int && f = 0) { a := v, b := v, c := .int32, res := r }
  | 0x17 => mk (int && f < 6) { a := v, b := v, res := .pred }
  | 0x18 => mk int { a := v, b := v, res := r }
  | 0x19 => mk ((n = 2 || n = 3 || n = 6 || n = 7) && f < 8) { a := v, b := v, res := r }
  | 0x1A => mk (int && f = 0) { a := v, b := v, c := v, res := r }
  | 0x1B => mk ((n = 2 || n = 6) && f = 0) { a := v, b := v, c := v, res := r, sm := true }
  | 0x30 | 0x31 | 0x32 => f2
  | 0x33 => mk (bin && f = 0) { a := v, b := v, c := v, res := r, rm := true, dm := true }
  | 0x34 | 0x35 => mk (bin && f < 2) { a := v, b := v, res := r, dm := true }
  | 0x36 | 0x37 => mk (bin && f = 0) { a := v, res := r }
  | 0x38 => f2
  | 0x39 => f1
  | 0x3A => mk (low && f < 8) { a := v, res := r, dm := true }
  | 0x3B => mk bin { a := v, b := v, res := .pred, dm := true }
  | 0x3C => mk (bin && f = 0) { a := v, res := .val 32 }
  | 0x3D => mk (bin && f = 0) { a := v, b := .int32, res := r, rm := true, dm := true }
  | 0x3E => f1
  | 0x3F => mk ((n = 8 || n = 9) && f = 0)
      { a := .val 32 true, b := .val 32 true, c := .val 32 true, res := .val 32, rm := true, dm := true }
  | 0x40 =>
    let src := Ty.ofCode f
    mk (f ≠ n) { a := rdTy src, res := r, rm := true, sm := true, dm := bin || src.binary }
  | 0x41 => mk (low && 2 ≤ f && f ≤ 6) { a := v, res := .val 32, rm := true, sm := true, dm := true }
  | 0x42 => mk (low && f ≤ 6) { a := .int32, b := .int32, res := r, rm := true, dm := true }
  | 0x43 => mk (low && f = 0) { a := v, res := r, dm := true }
  | 0x60 => mk (wide && f = 0) { a := v, res := r }
  | 0x61 => mk (wide && f = 0) { a := v, b := .int32, res := r }
  | 0x62 =>
    let k := match w.sb with
      | .imm | .k _ => true
      | _ => false
    mk (wide && f = 0 && k) { a := v, b := .int32, res := r }
  | 0x63 => mk (wide && f < 8 && (if int then f < 6 else f < 3 || 6 ≤ f)) { a := v, res := r, rm := bin, dm := bin }
  | 0x64 => mk (wide && (if int then f % 8 < 6 else f % 8 < 3 || 6 ≤ f % 8)) { a := v, res := r, rm := bin, dm := bin }
  | 0x65 => mk (n = 0 && f < 4) { a := .int32, res := .val 32 }
  | 0x66 =>
    if n ≠ 0 then none
    else if f = 0 then some { a := .int32, res := .pred }
    else if f = 1 then some { res := .val 32 }
    else if f = 2 then some { a := .int32 }
    else none
  | 0x80 => mk ctl { a := .int32, imm := .all }
  | 0x81 => mk ctl { imm := .all }
  | 0x82 => mk ctl { res := .val 32, imm := .all }
  | 0x83 => mk ctl { a := .int32, imm := .below 1 }
  | 0x84 => mk ctl { a := .int32 }
  | 0x85 | 0x86 | 0x87 | 0x88 => mk ctl { bare := true }
  | 0x89 => mk ctl {}
  | 0x8A => mk ctl { bare := true }
  | 0x8B => mk ctl { imm := .below 4, bare := true }
  | 0x8C => mk ctl { bare := true }
  | 0xA0 => mk (seg [0, 1, 2, 3]) { a := .addr (f = 0), res := r, imm := .all }
  | 0xA1 => mk (seg [0, 1, 2]) { a := .addr (f = 0), b := v, imm := .all }
  | 0xA2 => mk (seg [0]) { a := .addr true, res := r, imm := .all }
  | 0xA3 | 0xA4 => mk (seg [0]) { a := .addr true, b := v, imm := .all }
  | 0xA5 => mk (atomTy && (f % 8 < 3 || 6 ≤ f % 8 || int))
      { a := .addr (f < 8), b := v, c := if f % 8 = 7 then v else .no, res := r, imm := .all }
  | 0xA6 => mk (atomTy && (f % 8 < 3 || 6 ≤ f % 8 || int))
      { a := .addr (f < 8), b := v, c := if f % 8 = 7 then v else .no, imm := .all }
  | 0xA7 => mk (atomTy && f < 3 && !(f = 0 && (n = 6 || n = 7))) { a := .addr true, b := v, imm := .all }
  | 0xA8 => mk (wide && f = 0) { a := .addr false, res := r, imm := .all }
  | 0xA9 => mk (wide && f = 0) { a := .addr false, b := v, imm := .all }
  | 0xAA => mk ((n = 2 || n = 3 || bin) && f = 0)
      { a := .addr false, res := r, rm := true, sm := true, dm := bin, imm := .all }
  | 0xAB => mk (n = 3 && f = 0) { a := .addr false, b := v, c := .int32, imm := .all }
  | 0xAC => mk (seg [0, 3]) { a := .addr (f = 0), imm := .all }
  | 0xAD => mk (wide && f = 0) { a := .addr false, res := r, imm := .all }
  | 0xAE => mk (wide && f = 0) { a := .addr false, b := v, imm := .all }
  | 0xAF => mk (n = 0 && f < 6) {}
  | 0xD0 => mk ctl { imm := .below 64, bare := true }
  | 0xD1 => mk ctl { imm := .all }
  | _ => none

/-- Whether a source takes two registers or operands: a 64-bit value or a G address. -/
def Rd.pair : Rd → Bool
  | .val w _ => w = 64
  | .addr g => g
  | _ => false

/-- Whether a source field is legal for its read, but for the window size (R24, R25, R82, R148). -/
def srcOk (rd : Rd) (x : Src) : Bool :=
  if rd = .no then x = .v 0
  else
    match x with
    | .v i => !(rd.pair && i.toNat % 2 = 1)
    | .o i => !(rd.pair && i.toNat % 2 = 1)
    | .lt | .imm | .k _ => true
    | .sp _ => rd ≠ .addr true

/-- Whether a destination is legal for its result, but for the window size (R24, R25, R81, R120). -/
def dstOk (r : Res) (d : Dst) : Bool :=
  match r with
  | .no => d = .v 0
  | .pred => match d with
    | .v i => i.toNat < 8
    | _ => false
  | .val w =>
    let even := fun (n : Nat) => w ≠ 64 || n % 2 = 0
    match d with
    | .v i => even i.toNat
    | .o j => even j.toNat
    | .vo i j => even i.toNat && even j.toNat
    | .latch => true

/-- The encoding checks of a lane word that need no state (R80 to R86). -/
def laneOk (opc : Nat) (w : LaneOp) : Bool :=
  match laneSpec opc w with
  | none => false
  | some x =>
    let named := (x.a ≠ .no && w.sa = .imm) || (x.b ≠ .no && w.sb = .imm) || (x.c ≠ .no && w.sc = .imm)
    srcOk x.a w.sa && srcOk x.b w.sb && srcOk x.c w.sc && dstOk x.res w.dst &&
      (x.rm || w.rm = .dyn) && (x.sm || w.sm = .mode) && (x.dm || w.dm = .mode) &&
      (!x.bare || (!w.neg && w.pg = 0)) &&
      (match x.imm with
        | .all => true
        | .below n => w.imm.toNat < n
        | .no => named || w.imm = 0)

/-- Registers a source or destination names, for the check against the window size N (R24). -/
def Src.below (x : Src) (pair : Bool) (n : Nat) : Bool :=
  match x with
  | .v i => i.toNat + (if pair then 1 else 0) < n
  | _ => true

def Dst.below (x : Dst) (w n : Nat) : Bool :=
  match x with
  | .v i | .vo i _ => i.toNat + (if w = 64 then 1 else 0) < n
  | _ => true

/-- The window checks of a lane word for N registers per lane (R24, R82). -/
def laneFits (opc : Nat) (w : LaneOp) (n : Nat) : Bool :=
  match laneSpec opc w with
  | none => false
  | some x =>
    (x.a = .no || Src.below w.sa x.a.pair n) && (x.b = .no || Src.below w.sb x.b.pair n) &&
      (x.c = .no || Src.below w.sc x.c.pair n) &&
      (match x.res with
        | .val k => Dst.below w.dst k n
        | _ => true)

/-! ### Codes of scalar words -/

/-- A scope code (R78). -/
def scopeOk (s : BitVec 3) : Bool := s.toNat < 6
/-- A barrier code as far as the word alone decides (R78): a level of 1 to 4 and an index its level can have. -/
def bidOk (l : BitVec 3) (x : BitVec 4) : Bool :=
  l = 1 || (l = 2 && x.toNat < 8) || ((l = 3 || l = 4) && x.toNat < 4)
/-- The segments and register pair of BCOPY (R177). -/
def bcopyOk (a : SReg) (x y : BitVec 3) : Bool :=
  a.toNat % 2 = 0 && (x = 0 || x = 1 || x = 2 || x = 5) && (y = 0 || y = 1 || y = 2 || y = 3 || y = 5)
/-- The segment, operation and register pair of BRED (R178). -/
def bredOk (a : SReg) (x : BitVec 3) (o : BitVec 4) : Bool :=
  a.toNat % 2 = 0 && (x = 0 || x = 1 || x = 2) && o.toNat < 10

end Machine

end Sys2Proof
end

