-- ==== Sys2Proof/Machine/Num.lean ====
section
/-!
DEFINITION. Number formats (R44 to R60): exact values as an integer times a power of two, one rounding function for every binary format, and the
conversions of R53, R55, R56 and R59. Flags are the bits of MODE[23:16] (R34).
-/

namespace Sys2Proof.Machine

/-- MODE flags as bits of an 8-bit mask (R34). -/
abbrev Flags := BitVec 8

def fNV : Flags := 0x01
def fDZ : Flags := 0x02
def fOV : Flags := 0x04
def fUF : Flags := 0x08
def fNX : Flags := 0x10
def fOF : Flags := 0x20
def fISAT : Flags := 0x40
def fROWLOST : Flags := 0x80

/-- What the codes with an all-ones exponent mean (R44, R54): infinities and NaNs; infinities and quiet NaNs; only the NaN
code with an all-ones fraction; nothing special. -/
inductive Specials where
  | ieee | e5m2 | e4m3 | none
  deriving DecidableEq, Repr

/-- A binary floating format: exponent bits, fraction bits, special codes. Its bias is 2^(eb-1) - 1 in every format of R44 and R54. -/
structure Fmt where
  eb : Nat
  fb : Nat
  sp : Specials
  deriving DecidableEq, Repr

def Fmt.f64 : Fmt := ⟨11, 52, .ieee⟩
def Fmt.f32 : Fmt := ⟨8, 23, .ieee⟩
def Fmt.f16 : Fmt := ⟨5, 10, .ieee⟩
def Fmt.bf16 : Fmt := ⟨8, 7, .ieee⟩
def Fmt.e4m3 : Fmt := ⟨4, 3, .e4m3⟩
def Fmt.e5m2 : Fmt := ⟨5, 2, .e5m2⟩
def Fmt.e3m2 : Fmt := ⟨3, 2, .none⟩
def Fmt.e2m3 : Fmt := ⟨2, 3, .none⟩
def Fmt.e2m1 : Fmt := ⟨2, 1, .none⟩
/-- The immediate format F20 (R50). -/
def Fmt.f20 : Fmt := ⟨8, 11, .ieee⟩

def Fmt.width (f : Fmt) : Nat := 1 + f.eb + f.fb
def Fmt.bias (f : Fmt) : Nat := 2 ^ (f.eb - 1) - 1
/-- Exponent of the minimum normal. -/
def Fmt.emin (f : Fmt) : Int := 1 - f.bias

/-- The maximum finite value as an integer times a power of two. -/
def Fmt.maxFin (f : Fmt) : Nat × Int :=
  let top : Int := (2 ^ f.eb - 1 : Nat)
  match f.sp with
  | .ieee | .e5m2 => (2 ^ (f.fb + 1) - 1, top - 1 - f.bias - f.fb)
  | .e4m3 => (2 ^ (f.fb + 1) - 2, top - f.bias - f.fb)
  | .none => (2 ^ (f.fb + 1) - 1, top - f.bias - f.fb)

/-- A decoded value: `fin neg m e` is ±m × 2^e. -/
inductive FVal where
  | nan (signalling : Bool)
  | inf (neg : Bool)
  | fin (neg : Bool) (m : Nat) (e : Int)
  deriving DecidableEq, Repr

/-- A result code with the flags it raises. -/
structure FRes where
  bits : Nat
  flags : Flags
  deriving DecidableEq, Repr

def signBit (f : Fmt) (neg : Bool) : Nat := if neg then 2 ^ (f.width - 1) else 0

/-- The value of a code (R44, R54). -/
def Fmt.decode (f : Fmt) (x : Nat) : FVal :=
  let neg := bit x (f.width - 1)
  let ex := bits x (f.width - 2) f.fb
  let fr := x % 2 ^ f.fb
  let top := 2 ^ f.eb - 1
  let fin : FVal := if ex = 0 then .fin neg fr (f.emin - f.fb) else .fin neg (2 ^ f.fb + fr) ((ex : Int) - f.bias - f.fb)
  match f.sp with
  | .ieee => if ex = top then (if fr = 0 then .inf neg else .nan (!bit fr (f.fb - 1))) else fin
  | .e5m2 => if ex = top then (if fr = 0 then .inf neg else .nan false) else fin
  | .e4m3 => if ex = top ∧ fr = 2 ^ f.fb - 1 then .nan false else fin
  | .none => fin

/-- Whether the code is a subnormal (R46). -/
def Fmt.isSub (f : Fmt) (x : Nat) : Bool := bits x (f.width - 2) f.fb = 0 && x % 2 ^ f.fb ≠ 0

/-- The canonical NaN (R44, R54); 0 in a format without NaN (R55). -/
def Fmt.qnan (f : Fmt) : Nat :=
  match f.sp with
  | .ieee | .e5m2 => (2 ^ f.eb - 1) * 2 ^ f.fb + 2 ^ (f.fb - 1)
  | .e4m3 => 2 ^ (f.eb + f.fb) - 1
  | .none => 0

def Fmt.infCode (f : Fmt) (neg : Bool) : Nat := signBit f neg + (2 ^ f.eb - 1) * 2 ^ f.fb

/-- The code of the maximum finite value with a sign. -/
def Fmt.maxCode (f : Fmt) (neg : Bool) : Nat :=
  signBit f neg +
    match f.sp with
    | .ieee | .e5m2 => (2 ^ f.eb - 1) * 2 ^ f.fb - 1
    | .e4m3 => 2 ^ (f.eb + f.fb) - 2
    | .none => 2 ^ (f.eb + f.fb) - 1

/-- `m / 2^sh` rounded to an integer under `rm` for a value of sign `neg`, and whether it was inexact (R48, R49). -/
def roundShift (rm : Rm) (neg : Bool) (m sh : Nat) : Nat × Bool :=
  let m' := if sh > bitLen m + 2 then (if m = 0 then 0 else 1) else m
  let sh' := if sh > bitLen m + 2 then 3 else sh
  let hi := m' / 2 ^ sh'
  let lo := m' % 2 ^ sh'
  let up : Bool :=
    match rm with
    | .dyn | .rne => 2 * lo > 2 ^ sh' || (2 * lo = 2 ^ sh' && hi % 2 = 1)
    | .rtz => false
    | .rdn => neg && lo ≠ 0
    | .rup => !neg && lo ≠ 0
    | .rna => lo ≠ 0 && 2 * lo ≥ 2 ^ sh'
    | .rso => lo ≠ 0 && hi % 2 = 0
  (if up then hi + 1 else hi, lo ≠ 0)

/-- `m × 2^e` rounded to a multiple of 2^q: the multiple and whether it was inexact. -/
def roundAt (rm : Rm) (neg : Bool) (m : Nat) (e q : Int) : Nat × Bool :=
  if q ≤ e then (m * 2 ^ (e - q).toNat, false) else roundShift rm neg m (q - e).toNat

/-- Whether `a × 2^x < b × 2^y`. -/
def dyLt (a : Nat) (x : Int) (b : Nat) (y : Int) : Bool :=
  if a = 0 then b ≠ 0
  else if b = 0 then false
  else
    let la := (bitLen a : Int) + x
    let lb := (bitLen b : Int) + y
    if la < lb then true else if lb < la then false
    else if x ≤ y then a < b * 2 ^ (y - x).toNat else a * 2 ^ (x - y).toNat < b

/-- The code of ±m × 2^q where m has at most fb + 2 bits and fits the format. -/
def Fmt.encode (f : Fmt) (neg : Bool) (m : Nat) (q : Int) : Nat :=
  let (m, q) := if m = 2 ^ (f.fb + 1) then (m / 2, q + 1) else (m, q)
  if m < 2 ^ f.fb then signBit f neg + m
  else signBit f neg + (q + f.fb + f.bias).toNat * 2 ^ f.fb + (m - 2 ^ f.fb)

/-- A finite nonzero value rounded to the precision and exponent floor of a format: the integer, its exponent, whether it is inexact,
tiny (R47: after rounding with an unbounded exponent) and beyond the maximum finite value. -/
structure Rounded where
  m : Nat
  q : Int
  inexact : Bool
  tiny : Bool
  ovf : Bool
  deriving DecidableEq, Repr

def Fmt.roundRaw (f : Fmt) (rm : Rm) (neg : Bool) (m : Nat) (e : Int) : Rounded :=
  let qu : Int := e + bitLen m - (f.fb + 1)
  let q : Int := if qu < f.emin - f.fb then f.emin - f.fb else qu
  let (r, nx) := roundAt rm neg m e q
  let (u, _) := roundAt rm neg m e qu
  let tiny := m ≠ 0 && dyLt u qu 1 f.emin
  let (mx, xe) := f.maxFin
  { m := r, q := q, inexact := nx, tiny := tiny, ovf := dyLt mx xe r q }

/-- round(±m × 2^e, f, rm) for f64, f32, f16 and bf16, with the flags of R47 and the flush of R46. DESIGN CHOICE (notes/assumptions/99.md): a tiny
inexact result that rounds to zero or up to the least normal number raises UF and NX under flush, as under preserve. -/
def Fmt.round (f : Fmt) (rm : Rm) (flush neg : Bool) (m : Nat) (e : Int) : FRes :=
  if m = 0 then ⟨signBit f neg, 0⟩
  else
    let r := f.roundRaw rm neg m e
    if r.ovf then
      let toInf : Bool := match rm with
        | .dyn | .rne | .rna => true
        | .rtz | .rso => false
        | .rdn => neg
        | .rup => !neg
      ⟨if toInf then f.infCode neg else f.maxCode neg, fOV ||| fNX⟩
    else if flush && r.m ≠ 0 && r.m < 2 ^ f.fb then ⟨signBit f neg, fUF ||| fNX⟩
    else ⟨f.encode neg r.m r.q, (if r.inexact then fNX else 0) ||| (if r.tiny && r.inexact then fUF else 0)⟩

/-- A code read as an operand: a subnormal reads as a zero of its sign under flush (R46). -/
def Fmt.read (f : Fmt) (flush : Bool) (x : Nat) : FVal :=
  let y := x % 2 ^ f.width
  if flush && f.isSub y then .fin (bit y (f.width - 1)) 0 0 else f.decode y

/-- The NaN result of an operation on `vs`: canonical, with NV when one of them signals (R45). -/
def nanOf (f : Fmt) (vs : List FVal) : FRes :=
  ⟨f.qnan, if vs.any (fun v => v = .nan true) then fNV else 0⟩

def FVal.isNan : FVal → Bool
  | .nan _ => true
  | _ => false

def FVal.neg : FVal → Bool
  | .nan _ => false
  | .inf n => n
  | .fin n _ _ => n

def FVal.isZero : FVal → Bool
  | .fin _ m _ => m = 0
  | _ => false

/-- The signed integer of a finite value at exponent `q` ≤ its own. -/
def atExp (neg : Bool) (m : Nat) (e q : Int) : Int :=
  let x : Int := (m * 2 ^ (e - q).toNat : Nat)
  if neg then -x else x

/-- The exact sum of finite terms (sign, m, e), as an integer and an exponent. -/
def exactSum (ts : List (Bool × Nat × Int)) : Int × Int :=
  let q := (ts.map (·.2.2)).foldl (fun a x => if x < a then x else a) (((ts.head?).map (·.2.2)).getD 0)
  (ts.foldl (fun s t => s + atExp t.1 t.2.1 t.2.2 q) 0, q)

/-- The sum of finite terms rounded once; an exact zero takes the terms' common sign, or the sign of R48. -/
def Fmt.roundSum (f : Fmt) (rm : Rm) (flush : Bool) (ts : List (Bool × Nat × Int)) : FRes :=
  let (x, q) := exactSum ts
  if x = 0 then
    let allNeg := ts.all (·.1)
    let allPos := ts.all (fun t => !t.1)
    ⟨signBit f (if allNeg then true else if allPos then false else rm = .rdn), 0⟩
  else f.round rm flush (x < 0) x.natAbs q

/-- a + b (R129). -/
def Fmt.add (f : Fmt) (rm : Rm) (flush : Bool) (a b : FVal) : FRes :=
  match a, b with
  | .nan _, _ | _, .nan _ => nanOf f [a, b]
  | .inf x, .inf y => if x = y then ⟨f.infCode x, 0⟩ else ⟨f.qnan, fNV⟩
  | .inf x, _ => ⟨f.infCode x, 0⟩
  | _, .inf y => ⟨f.infCode y, 0⟩
  | .fin n m e, .fin n' m' e' => f.roundSum rm flush [(n, m, e), (n', m', e')]

def FVal.negate : FVal → FVal
  | .nan s => .nan s
  | .inf n => .inf (!n)
  | .fin n m e => .fin (!n) m e

/-- a × b (R129). -/
def Fmt.mul (f : Fmt) (rm : Rm) (flush : Bool) (a b : FVal) : FRes :=
  match a, b with
  | .nan _, _ | _, .nan _ => nanOf f [a, b]
  | .inf x, y => if y.isZero then ⟨f.qnan, fNV⟩ else ⟨f.infCode (x != y.neg), 0⟩
  | x, .inf y => if x.isZero then ⟨f.qnan, fNV⟩ else ⟨f.infCode (x.neg != y), 0⟩
  | .fin n m e, .fin n' m' e' => f.round rm flush (n != n') (m * m') (e + e')

/-- The infinite products of a list, by sign. -/
def infProducts (ps : List (FVal × FVal)) : List Bool :=
  ps.filterMap fun p => match p.1, p.2 with
    | .nan _, _ | _, .nan _ => none
    | .inf x, y => some (x != y.neg)
    | x, .inf y => some (x.neg != y)
    | _, _ => none

/-- Sum of products and a term, rounded once (FFMA, FDOT2: R129, R133). An ∞ × 0 product, and infinities of opposite sign, raise NV whatever the
other operands. -/
def Fmt.dot (f : Fmt) (rm : Rm) (flush : Bool) (ps : List (FVal × FVal)) (c : FVal) : FRes :=
  let all := c :: (ps.map (·.1) ++ ps.map (·.2))
  let bad := ps.any fun p => match p.1, p.2 with
    | .inf _, y => y.isZero
    | x, .inf _ => x.isZero
    | _, _ => false
  let infs : List Bool := (match c with | .inf n => [n] | _ => []) ++ infProducts ps
  if bad || (infs.contains true && infs.contains false) then ⟨f.qnan, fNV⟩
  else if all.any FVal.isNan then nanOf f all
  else
    match infs with
    | n :: _ => ⟨f.infCode n, 0⟩
    | [] =>
      let ct : List (Bool × Nat × Int) := match c with | .fin n m e => [(n, m, e)] | _ => []
      let pt := ps.filterMap fun p => match p.1, p.2 with
        | .fin n m e, .fin n' m' e' => some (n != n', m * m', e + e')
        | _, _ => none
      f.roundSum rm flush (pt ++ ct)

/-- Quotient digits with a last digit made odd when a remainder is left, so that one rounding of the result is the rounding of the exact quotient. -/
def divJam (a b k : Nat) : Nat :=
  let n := a * 2 ^ k
  2 * (n / b) + (if n % b = 0 then 0 else 1)

/-- a / b (R129). -/
def Fmt.div (f : Fmt) (rm : Rm) (flush : Bool) (a b : FVal) : FRes :=
  match a, b with
  | .nan _, _ | _, .nan _ => nanOf f [a, b]
  | .inf _, .inf _ => ⟨f.qnan, fNV⟩
  | .inf x, y => ⟨f.infCode (x != y.neg), 0⟩
  | x, .inf y => ⟨signBit f (x.neg != y), 0⟩
  | .fin n m e, .fin n' m' e' =>
    if m' = 0 then (if m = 0 then ⟨f.qnan, fNV⟩ else ⟨f.infCode (n != n'), fDZ⟩)
    else if m = 0 then ⟨signBit f (n != n'), 0⟩
    else
      let k := f.fb + 4 + bitLen m'
      f.round rm flush (n != n') (divJam m m' k) (e - e' - k - 1)

/-- The integer square root, digit by digit. -/
def isqrtFrom : (i r n : Nat) → Nat
  | 0, r, n => if (r + 1) * (r + 1) ≤ n then r + 1 else r
  | i + 1, r, n => let c := r + 2 ^ (i + 1); isqrtFrom i (if c * c ≤ n then c else r) n

def isqrt (n : Nat) : Nat := isqrtFrom (bitLen n / 2 + 1) 0 n

/-- √a (R129). -/
def Fmt.sqrt (f : Fmt) (rm : Rm) (flush : Bool) (a : FVal) : FRes :=
  match a with
  | .nan _ => nanOf f [a]
  | .inf n => if n then ⟨f.qnan, fNV⟩ else ⟨f.infCode false, 0⟩
  | .fin n m e =>
    if m = 0 then ⟨signBit f n, 0⟩
    else if n then ⟨f.qnan, fNV⟩
    else
      let (m, e) := if e % 2 = 0 then (m, e) else (2 * m, e - 1)
      let k := f.fb + 4
      let x := m * 2 ^ (2 * k)
      let r := isqrt x
      f.round rm flush false (2 * r + (if r * r = x then 0 else 1)) (e / 2 - k - 1)

/-- a × 2^b (R133); ∞ and NaN pass as IEEE scaleB defines. -/
def Fmt.scaleb (f : Fmt) (rm : Rm) (flush : Bool) (a : FVal) (b : Int) : FRes :=
  match a with
  | .nan _ => nanOf f [a]
  | .inf n => ⟨f.infCode n, 0⟩
  | .fin n m e => f.round rm flush n m (e + b)

/-- ±m × 2^e rounded to an integer (R49). -/
def roundInt (rm : Rm) (neg : Bool) (m : Nat) (e : Int) : Int × Bool :=
  let (r, nx) := roundAt rm neg m e 0
  (if neg then -(r : Int) else r, nx)

/-- a rounded to an integral value of its format (R133). -/
def Fmt.rint (f : Fmt) (rm : Rm) (flush : Bool) (a : FVal) : FRes :=
  match a with
  | .nan _ => nanOf f [a]
  | .inf n => ⟨f.infCode n, 0⟩
  | .fin n m e =>
    if m = 0 then ⟨signBit f n, 0⟩
    else if 0 ≤ e then f.round rm flush n m e
    else
      let (r, nx) := roundInt rm n m e
      ⟨(f.round rm flush n r.natAbs 0).bits, if nx then fNX else 0⟩

/-- Whether a < b for values that are not NaN, with −0 below +0 when `zeros` is set. -/
def fltB (zeros : Bool) (a b : FVal) : Bool :=
  match a, b with
  | .nan _, _ | _, .nan _ => false
  | .inf x, .inf y => x && !y
  | .inf x, _ => x
  | _, .inf y => !y
  | .fin n m e, .fin n' m' e' =>
    if m = 0 ∧ m' = 0 then zeros && n && !n'
    else if m = 0 then !n'
    else if m' = 0 then n
    else if n != n' then n
    else if n then dyLt m' e' m e else dyLt m e m' e'

/-- Equality of values that are not NaN; −0 equals +0. -/
def feq (a b : FVal) : Bool := !a.isNan && !b.isNan && !fltB false a b && !fltB false b a

/-- FMIN and FMAX (R130) on codes already read under DM: `prop` is the NaN-propagating flavour. -/
def Fmt.minmax (f : Fmt) (isMax prop flush : Bool) (x y : Nat) : FRes :=
  let a := f.read flush x
  let b := f.read flush y
  let code := fun (c : Nat) (v : FVal) => match v with
    | .fin n 0 _ => signBit f n
    | _ => c % 2 ^ f.width
  let fl : Flags := if a = .nan true ∨ b = .nan true then fNV else 0
  match a.isNan, b.isNan with
  | true, true => ⟨f.qnan, fl⟩
  | true, false => ⟨if prop then f.qnan else code y b, fl⟩
  | false, true => ⟨if prop then f.qnan else code x a, fl⟩
  | false, false =>
    let less := fltB true a b
    let more := fltB true b a
    ⟨if isMax then (if less then code y b else code x a) else (if more then code y b else code x a), fl⟩

/-- FCLASS's bit (R131), read from the bits as stored. -/
def Fmt.class_ (f : Fmt) (x : Nat) : Nat :=
  let y := x % 2 ^ f.width
  match f.decode y with
  | .nan s => if s then 8 else 9
  | .inf n => if n then 0 else 7
  | .fin n m _ =>
    if m = 0 then (if n then 3 else 4)
    else if f.isSub y then (if n then 2 else 5)
    else (if n then 1 else 6)

/-! ### Integers -/

/-- The bounds of a `w`-bit integer type (R52). -/
def intMin (signed : Bool) (w : Nat) : Int := if signed then -(2 ^ (w - 1) : Nat) else 0
def intMax (signed : Bool) (w : Nat) : Int := if signed then (2 ^ (w - 1) : Nat) - 1 else (2 ^ w : Nat) - 1

/-- An exact integer narrowed to `w` bits: wrapped, or saturated with ISAT when it changes (R124). -/
def narrow (signed : Bool) (w : Nat) (satm : Bool) (r : Int) : FRes :=
  if satm then
    let s := sat r (intMin signed w) (intMax signed w)
    ⟨wrapN w s, if s = r then 0 else fISAT⟩
  else ⟨wrapN w r, 0⟩

/-- A floating value converted to an integer type (R53). -/
def toInt (signed : Bool) (w : Nat) (rm : Rm) (satm : Bool) (a : FVal) : FRes :=
  match a with
  | .nan _ => ⟨0, fNV⟩
  | .inf n => ⟨wrapN w (if n then intMin signed w else intMax signed w), fNV⟩
  | .fin n m e =>
    let (r, nx) := roundInt rm n m e
    if intMin signed w ≤ r ∧ r ≤ intMax signed w then ⟨wrapN w r, if nx then fNX else 0⟩
    else if satm then ⟨wrapN w (sat r (intMin signed w) (intMax signed w)), fISAT⟩
    else ⟨wrapN w r, 0⟩

/-- An integer converted to a format (R134). -/
def Fmt.ofInt (f : Fmt) (rm : Rm) (flush : Bool) (x : Int) : FRes := f.round rm flush (x < 0) x.natAbs 0

/-! ### Narrow formats -/

/-- A value converted into a narrow format (R55); a signalling NaN raises NV (R45). -/
def Fmt.narrowTo (f : Fmt) (rm : Rm) (satm : Bool) (a : FVal) : FRes :=
  match a with
  | .nan sig => ⟨f.qnan, if sig || f.sp = .none then fNV else 0⟩
  | .inf n =>
    let fl : Flags := if f.sp = .e5m2 then 0 else fNV
    if satm then ⟨f.maxCode n, fl⟩
    else ⟨match f.sp with
      | .e4m3 => signBit f n + f.qnan
      | .ieee | .e5m2 => f.infCode n
      | .none => f.maxCode n, fl⟩
  | .fin n m e =>
    if m = 0 then ⟨signBit f n, 0⟩
    else
      let r := f.roundRaw rm n m e
      if r.ovf then
        ⟨if satm then f.maxCode n
          else match f.sp with
            | .e4m3 => signBit f n + f.qnan
            | .ieee | .e5m2 => f.infCode n
            | .none => f.maxCode n, fOV ||| fNX⟩
      else ⟨f.encode n r.m r.q, (if r.inexact then fNX else 0) ||| (if r.tiny && r.inexact then fUF else 0)⟩

/-- A value converted to another of f64, f32, f16 and bf16 (R134). -/
def Fmt.convert (f : Fmt) (rm : Rm) (flush : Bool) (a : FVal) : FRes :=
  match a with
  | .nan _ => nanOf f [a]
  | .inf n => ⟨f.infCode n, 0⟩
  | .fin n m e => f.round rm flush n m e

/-- A value converted to a BX8 significand: clamped to −127 … 127 with ISAT (R56); NaN and ∞ as R53. DESIGN CHOICE (notes/assumptions/100.md): a value
that is clamped raises ISAT alone, without NX. -/
def toBx8 (rm : Rm) (a : FVal) : FRes :=
  match a with
  | .nan _ => ⟨0, fNV⟩
  | .inf n => ⟨wrapN 8 (if n then -127 else 127), fNV⟩
  | .fin n m e =>
    let (r, nx) := roundInt rm n m e
    let s := sat r (-127) 127
    if s = r then ⟨wrapN 8 r, if nx then fNX else 0⟩ else ⟨wrapN 8 s, fISAT⟩

/-! ### Matrix formats -/

/-- The matrix format codes of R61 that name an element format. -/
inductive MFmt where
  | i8 | i4 | e4m3 | e3m2 | e2m3 | e2m1 | bx8 | lut4
  deriving DecidableEq, Repr

def MFmt.ofCode : Nat → Option MFmt
  | 0 => some .i8 | 1 => some .i4 | 2 => some .e4m3 | 3 => some .e3m2
  | 4 => some .e2m3 | 5 => some .e2m1 | 6 => some .bx8 | 7 => some .lut4
  | _ => none

/-- The unit exponent u of R61. -/
def MFmt.unit : MFmt → Int
  | .i8 | .i4 | .bx8 => 0
  | .e4m3 | .lut4 => -9
  | .e3m2 => -4
  | .e2m3 => -3
  | .e2m1 => -1

/-- Whether the codes are 4 bits (R43). -/
def MFmt.four : MFmt → Bool
  | .i4 | .e2m1 | .lut4 => true
  | _ => false

def MFmt.flt : MFmt → Option Fmt
  | .e4m3 => some .e4m3 | .e3m2 => some .e3m2 | .e2m3 => some .e2m3 | .e2m1 => some .e2m1
  | _ => none

/-- An element expanded to an exact integer at its unit (R61): `none` is a NaN or reserved code; the flag tells a reserved code, which raises
NV, from a NaN (R197). -/
def MFmt.expand (m : MFmt) (lut : List (BitVec 16)) (reserved : BitVec 16) (x : Nat) : Option Int × Bool :=
  match m with
  | .i8 => (some (sext 8 x), false)
  | .i4 => (some (sext 4 x), false)
  | .bx8 => if x % 256 = 0x80 then (none, true) else (some (sext 8 x), false)
  | .lut4 =>
    if bit reserved.toNat (x % 16) then (none, true)
    else match Fmt.f16.decode ((lut[x % 16]?).getD 0).toNat with
      | .fin n v e => (some (atExp n v (e + 9) (-16) / 65536), false)
      | _ => (none, true)
  | .e4m3 | .e3m2 | .e2m3 | .e2m1 =>
    match m.flt with
    | some f =>
      match f.decode (x % 2 ^ f.width) with
      | .fin n v e => (some (let r := atExp n v (e - m.unit) (-16); r / 65536), false)
      | _ => (none, false)
    | none => (none, true)

/-- emax(T) of R59. -/
def MFmt.emax : MFmt → Int
  | .e4m3 => 8 | .e3m2 => 4 | .bx8 => 6 | _ => 2

/-- An f16 entry of a code table is usable when its value × 2^9 is an integer from −262,143 to 262,143 (R60). -/
def lutUsable (x : BitVec 16) : Bool :=
  match Fmt.f16.decode x.toNat with
  | .fin _ m e =>
    let e' := e + 9
    if 0 ≤ e' then m * 2 ^ e'.toNat ≤ 262143
    else m % 2 ^ (-e').toNat = 0
  | _ => false

end Sys2Proof.Machine
end

