-- ==== Sys2Proof/Machine/Mem.lean ====
section
/-!
DEFINITION. Byte memories in one canonical form: addresses strictly rising and no zero byte listed. An unlisted address reads 0:
device memory is written with zeros at bring-up (R411 step 3) and every granted store and tile starts at zero (R14).
What host memory reads before anything has written it is notes/assumptions/4.md.
-/

namespace Sys2Proof

/-- The byte at `a`. -/
def Mem.get (m : Mem) (a : Nat) : Byte :=
  match m with
  | [] => 0
  | (i, b) :: r => if i = a then b else Mem.get r a

/-- The cells that list `bs` from address `a`: its nonzero bytes. -/
def Mem.cells (a : Nat) : List Byte → Mem
  | [] => []
  | b :: r => if b = 0 then Mem.cells (a + 1) r else (a, b) :: Mem.cells (a + 1) r

/-- The memory with `bs` stored from address `a`. -/
def Mem.write (m : Mem) (a : Nat) (bs : List Byte) : Mem :=
  m.filter (fun e => e.1 < a) ++ Mem.cells a bs ++ m.filter (fun e => a + bs.length ≤ e.1)

/-- `n` bytes from address `a`. -/
def Mem.read (m : Mem) (a : Nat) : Nat → List Byte
  | 0 => []
  | n + 1 => Mem.get m a :: Mem.read m (a + 1) n

/-- Whether every listed address is above `lo`, addresses rise strictly and no byte is zero. -/
def Mem.wfFrom (lo : Nat) : Mem → Bool
  | [] => true
  | (i, b) :: r => lo ≤ i && b ≠ 0 && Mem.wfFrom (i + 1) r

/-- The canonical form. -/
def Mem.wf (m : Mem) : Bool := Mem.wfFrom 0 m

/-- A memory with `n` bytes from `a` set to zero. -/
def Mem.zero (m : Mem) (a n : Nat) : Mem :=
  m.filter (fun e => e.1 < a) ++ m.filter (fun e => a + n ≤ e.1)

namespace Machine

/-- The marks left after a store of `n` bytes at `a`: an 8-byte granule wholly written is no longer poisoned (R288). The lanes of a word are judged one
by one (DESIGN CHOICE, notes/assumptions/104.md). -/
def clearPoison (bad : List Nat) (a n : Nat) : List Nat :=
  bad.filter fun x => !(a ≤ x / 8 * 8 && x / 8 * 8 + 8 ≤ a + n)

/-- The marks left after a write of `n` bytes of registers at `a`: a register wholly written is no longer poisoned (R288). -/
def clearRegPoison (bad : List Nat) (a n : Nat) : List Nat :=
  bad.filter fun x => !(a ≤ x / 4 * 4 && x / 4 * 4 + 4 ≤ a + n)

/-- The marks with `n` bytes from `a` poisoned. -/
def addPoison (bad : List Nat) (a n : Nat) : List Nat :=
  bad.filter (fun x => !(a ≤ x && x < a + n)) ++ (List.range n).map (a + ·)

/-- The marks without those of `n` bytes from `a`. -/
def delPoison (bad : List Nat) (a n : Nat) : List Nat := bad.filter fun x => !(a ≤ x && x < a + n)

/-- Whether one of `n` bytes from `a` is poisoned. -/
def poisoned (bad : List Nat) (a n : Nat) : Bool := bad.any fun x => a ≤ x && x < a + n

end Machine

end Sys2Proof
end

