-- ==== Sys2Proof/Config.lean ====
section
/-!
DEFINITION. What one SX4 fixes for its life, and the free values: constants the spec leaves open. Each is opaque: nothing in
Lean can evaluate it, so a claim holds whatever it is.
-/

namespace Sys2Proof.Config

/-- A fresh value each time the spec leaves a result open; the model applies it to a counter of the state
(notes/assumptions/7.md). -/
opaque freeValue : Nat → BitVec 64

/-- What byte `place` of a line decrypts to under key slot `reader`, where the line holds `bytes` written under key slot `writer`
(notes/assumptions/69.md). -/
opaque foreignByte : (writer reader line : Nat) → (bytes : List Byte) → (place : Nat) → Byte

/-- The set of an L2 slice, and of a victim cache, that a line lies in (R272, R274; notes/assumptions/89.md). -/
opaque sliceSet : Nat → Nat
opaque victimSet : Nat → Nat

/-- The LOG2 that the device uses for a ring whose LOG2 field was written outside its range (R396, R400; notes/assumptions/73.md). -/
opaque ringLog : (written : Nat) → Nat

/-- The certificate chain of a die (R403). -/
opaque certificate : (die : Nat) → List Byte

/-- The serial number in a certificate. -/
opaque serialIn : List Byte → BitVec 64

/-- The device serial number: that of die 0's certificate (R370, R403). -/
def devsn : BitVec 64 := serialIn (certificate 0)

/-- The Ed25519 signature (64 bytes) of a body under the meter key that a certificate certifies (R371, R403). -/
opaque ed25519Sign : (certificate body : List Byte) → List Byte

/-- The ML-DSA-65 signature (3,309 bytes) of a body under the meter key that a certificate certifies (R371, R403). -/
opaque mldsa65Sign : (certificate body : List Byte) → List Byte

/-- The measurement of the queen ROM (R403). -/
opaque queenRom : Nat

/-- What a die answers to an SPDM request, given what stands measured under the index asked for and the die's certificate chain: the contents are SPDM
1.3's and are not in the spec (R403). -/
opaque spdmAnswer : (die request session : Nat) → (measured : List Nat) → (certificate : List Byte) → List Byte

/-- Correctable errors counted at or above this threshold lower the trim, where firmware sets no other (R362). -/
def trimThreshold : Nat := 4

end Sys2Proof.Config
end

