-- ==== Sys2Proof/Machine/State.lean ====
section
/-!
DEFINITION. The state of one SX4 device, as plain data, and the state right after reset (R410).

Owners created at run time (contexts, grids, clusters, teams, gangs) stand in tables by an identifier the model gives
them; the state of an owner that has ended is gone from the table (R14).
-/

namespace Sys2Proof.Machine

/-- Why the machine stops with a fault. -/
inductive Fault where
  /-- Raised by the meaning of a scalar or lane word when no live gang is issuing. `step` never runs a word without its gang, so
  the fault is reached only by applying `exec` to a state no step hands it. Safe: nothing is claimed to run. -/
  | noIssuer
  deriving DecidableEq, Repr

/-- Why an instruction has no meaning. -/
inductive Refusal where
  /-- Raised by an arm of `exec` for an instruction the model does not cover. Safe: nothing is claimed to run. -/
  | notModelled (mnemonic : String)
  deriving DecidableEq, Repr

/-! ### Lanes, cells and gangs -/

/-- A segment register: its BASE and LIM words (R29, R30). -/
structure Seg where
  base : Word64
  lim : Word64
  deriving DecidableEq, Repr

/-- MODE: the sticky flags [23:16] as `flags[7:0]`, and the control fields (R34). -/
structure Mode where
  flags : BitVec 8
  den : Bool
  satd : Bool
  rmd : BitVec 3
  deriving DecidableEq, Repr

/-- The state of one lane outside its main registers, which lie in the core's store (R14, R24, R288). -/
structure Lane where
  o : Tbl Word32
  latch : Word64
  /-- p7–p0; bit 0 reads 1 (R27). -/
  p : BitVec 8
  exited : Bool
  latchBad : Bool
  oBad : BitVec 8
  deriving DecidableEq, Repr

/-- What a waiting word waits for, as far as R305 tells waits apart. -/
inductive Wait where
  | none
  | bar (bid : Nat)
  | tags (mask : Nat)
  | barg
  | other
  deriving DecidableEq, Repr

/-- What a cell is doing (R18, R145, R146). -/
inductive CellRun where
  | idle
  | run
  | regang
  | lend
  | barg (n : Nat)
  deriving DecidableEq, Repr

/-- The state of one cell (R14, R17, R151). Cells with one `group` number form one issue group while they run. `pending` stands
while the cell replays a word for the lanes it names; `unpaid` says that the pass in hand is not charged (R162), and `wait` what the word at LPC
waits for. -/
structure Cell where
  lpc : Nat
  mask : BitVec 4
  stack : List (BitVec 4)
  pending : Option (BitVec 4)
  unpaid : Bool
  run : CellRun
  group : Nat
  wait : Wait
  deriving DecidableEq, Repr

/-- A lane-queue entry (R21, R207): block address, the copy of s32–s47, the MODE control fields, and E. -/
structure QEntry where
  idx : Nat
  k : List Word64
  den : Bool
  satd : Bool
  rmd : BitVec 3
  enq : Nat
  deriving DecidableEq, Repr

/-- The request of a waiting RNGACQ: its fault slot, 1,024 while it waits for one, and its range (R310). -/
structure RngWait where
  slot : Nat
  base : Nat
  len : Nat
  deriving DecidableEq, Repr

/-- The lane frame a trap or a pre-emption saves (R224, R229). `bar` is the barrier the BAR at SPC has arrived at, and `rng` the request of the RNGACQ
there; `exiting` tells that the stream had executed EXIT, so that a handler's stream can run (R420). -/
structure LaneFrame where
  lanes : Tbl Lane
  cells : Tbl Cell
  queue : List QEntry
  block : Option QEntry
  bar : Option Nat
  rng : Option RngWait
  spc : Word64
  exiting : Bool
  deriving DecidableEq, Repr

/-- A write-combining buffer: its 128-byte line of physical memory, the bytes written, and whether STNT filled it (R155). -/
structure WcBuf where
  line : Nat
  nt : Bool
  bytes : Tbl Byte
  deriving DecidableEq, Repr

/-- A recorded STT store (R221). -/
structure Stt where
  data : Word64
  addr : Word64
  stride : Word64
  deriving DecidableEq, Repr

/-- Whether the gang's streams run (R222, R230, R304). -/
inductive GangRun where
  | run
  | parked (slot : Nat)
  | replied (slot : Nat) (status : Nat)
  | suspended (spc : Word64)
  | forced
  | template (count next : Nat)
  deriving DecidableEq, Repr

/-- Trace counters of a gang (R416 to R418). -/
structure TraceCtr where
  stamp : Nat
  sync : Nat
  packets : Nat
  due : Option Nat
  deriving DecidableEq, Repr

/-- The registers that describe a trap (R225, R226). -/
structure TrapRegs where
  cause : Word64
  tspc : Word64
  tlpc : Nat
  tmask : BitVec 32
  taddr : Word64
  clanes : BitVec 32
  /-- The fault kind and the access of the record FLTPARK makes (R301). -/
  fkind : Nat
  acc : Nat
  deriving DecidableEq, Repr

/-- A gang (R14). -/
structure Gang where
  team : Nat
  /-- %gang -/
  idx : Nat
  slot : Nat
  /-- Window base B, in rows of 128 bytes of the core's store (R24). -/
  wbase : Nat
  spc : Word64
  s : Tbl Word64
  mode : Mode
  /-- PRIV: true is S (R32). -/
  priv : Bool
  segs : Tbl Seg
  queue : List QEntry
  block : Option QEntry
  lanes : Tbl Lane
  cells : Tbl Cell
  drowse : Bool
  run : GangRun
  wait : Wait
  /-- Barriers at which the gang has an outstanding arrival, with the phase of the arrival (R211). -/
  armed : Tbl Nat
  bar : Option Nat
  trap : TrapRegs
  tfstat : Word64
  sscr : Tbl Word64
  frame : Option LaneFrame
  /-- The fault slots this trap frame holds (R239, R240). -/
  held : List Nat
  pspc : Word64
  pcause : Word64
  pbleft : Nat
  pframe : Option LaneFrame
  /-- A pre-emption request not yet delivered, with its PCAUSE (R229). -/
  preq : Option Word64
  /-- EXIT has executed (R37). -/
  exiting : Bool
  wcs : List WcBuf
  wcl : Tbl (List WcBuf)
  stamp : Option Nat
  stts : List Stt
  /-- Recorded stores a new item has still to make (R221). -/
  sttLeft : List Stt
  item : Nat
  ntpl : Nat
  tplOf : Option Nat
  /-- Pages of 16 registers still shared with the template (R219). -/
  shared : List Nat
  dbctl : BitVec 2
  skipS : Bool
  skipL : Bool
  /-- 0 not stepping, 1 one instruction to run, 2 BREAK due (R421). -/
  stepping : Nat
  /-- The step was asked of a PREEMPT handler (R421). -/
  stepIn : Bool
  tr : TraceCtr
  /-- What the RNGACQ at SPC waits for (R310). -/
  rng : Option RngWait
  deriving DecidableEq, Repr

/-! ### Teams, clusters and grids -/

/-- A completion tag (R175), with the G destinations of the work that has left its COUNT, as virtual ranges (R213, R250). -/
structure Tag where
  count : Nat
  done : Bool
  err : Bool
  dests : List (Nat × Nat)
  deriving DecidableEq, Repr

inductive RowState where
  | free | opening | held | lost
  deriving DecidableEq, Repr

/-- A row slot h0–h7 (R167); `row` numbers its 1 KiB block of device memory, `mask` the mask of its ROWPIN, `saved` that the
team holding it is absent (R168), `pinner` the gang whose ROWPIN it opens for (R169). -/
structure RowSlot where
  st : RowState
  pers : Bool
  why : Nat
  row : Nat
  mask : BitVec 8
  saved : Bool
  savedOpen : BitVec 8
  pinner : Nat
  deriving DecidableEq, Repr

/-- A hardware barrier (R210). -/
structure Barrier where
  exp : Nat
  arr : Nat
  phase : Nat
  deriving DecidableEq, Repr

/-- A code-table buffer (R60, R199); 256 stands for no version. -/
structure CodeTable where
  version : Nat
  entries : List (BitVec 16)
  reserved : BitVec 16
  deriving DecidableEq, Repr

/-- A tile task: the captured record and its progress (R89, R190, R192, R193). -/
structure Task where
  rcd : List Byte
  enq : Nat
  gang : Nat
  /-- %gang of the enqueuing gang, which fault records name after it has retired (R301). -/
  gidx : Nat
  soff : Nat
  ctv : Nat
  rmd : BitVec 3
  prog : Nat
  engine : Option Nat
  wait0 : Bool
  wait1 : Bool
  /-- Tensor records captured at the first step (R94). -/
  tensA : Option (List Byte)
  tensB : Option (List Byte)
  flags : BitVec 8
  fault : Option Nat
  deriving DecidableEq, Repr

/-- A copy command (R177 to R182). `op` none is BCOPY; G addresses are virtual addresses, others offsets of their segment. `landing` stands while the
chunk in hand has been written and a peer has yet to acknowledge it, and tells whether the chunk met poison (R182, R250). -/
structure Copy where
  op : Option (BitVec 4)
  seq : Nat
  gang : Nat
  /-- %gang of the issuing gang (R301). -/
  gidx : Nat
  tag : Nat
  dseg : Nat
  sseg : Nat
  dst : Nat
  src : Nat
  count : Nat
  prog : Nat
  engine : Option Nat
  fault : Option Nat
  landing : Option Bool
  deriving DecidableEq, Repr

/-- A copy of some bytes, with the places of its poisoned bytes: a line in L1 or in a near slice, or a part of an image (R269, R272, R288). -/
structure LineCopy where
  bytes : List Byte
  bad : List Nat
  deriving DecidableEq, Repr

/-- A line held in the home role or in a victim cache: whether it is dirty, and the ASID that filled it (R272, R274, R404). -/
structure SliceLine where
  dirty : Bool
  asid : Nat
  deriving DecidableEq, Repr

/-- A near copy with the ASID that filled it (R272, R404). -/
structure NearCopy where
  asid : Nat
  copy : LineCopy
  deriving DecidableEq, Repr

/-- What a team's image keeps of the core while the team is absent (R308, R333), and its length in bytes. -/
structure Image where
  /-- Register windows by gang identifier. -/
  windows : Tbl LineCopy
  scratch : LineCopy
  tiles : List Byte
  metas : List (BitVec 32)
  bytes : Nat
  deriving DecidableEq, Repr

/-- A team (R14, R15). -/
structure Team where
  grid : Nat
  cluster : Nat
  /-- %team -/
  idx : Nat
  core : Nat
  /-- Core gang slots and window bases granted at admission (R219). -/
  slots : List Nat
  wbases : List Nat
  sbase : Nat
  tagBase : Nat
  tileBase : Nat
  tags : Tbl Tag
  rows : Tbl RowSlot
  tb : Tbl Barrier
  ctCur : CodeTable
  ctOld : CodeTable
  tasks : List Task
  copies : List Copy
  nextEnq : Nat
  nextCopy : Nat
  /-- Frozen scratchpad lines, each with the template that froze it (R220). -/
  frozen : List (Nat × Nat)
  /-- Deferred TASKFMT reports: enqueuing gang, its %gang and the record's offset (R196). -/
  deferred : List (Nat × Nat × Nat)
  retired : Bool
  /-- The team has been killed, and a chunk or a step in hand is still to end (R38, R337). -/
  dying : Bool
  /-- The order of the team's placement among those of its core (R336). -/
  placed : Nat
  image : Option Image
  deriving DecidableEq, Repr

inductive ClusterState where
  | resident | stalled | swapping | absent | ready | restoring | saving
  deriving DecidableEq, Repr

/-- A cluster (R307). -/
structure Cluster where
  grid : Nat
  idx : Nat
  region : Nat
  teams : List Nat
  st : ClusterState
  /-- The cohort whose kb barriers count the cluster (R210). -/
  cohort : Nat
  /-- How long the cluster has been stalled, in ns (R306). -/
  stallNs : Nat
  /-- Order in which the cluster became READY (R309). -/
  readyAt : Nat
  /-- The region a migration is taking the cluster to (R335). -/
  target : Option Nat
  /-- The cluster's image was written by a swap (R306, R316). -/
  swapped : Bool
  /-- The PCAUSE of a request that came while the cluster was restoring (R341). -/
  asked : Option Word64
  cb : Tbl Barrier
  deriving DecidableEq, Repr

/-- The fields of a launch record (R92). -/
structure LaunchRec where
  entry : Nat
  lcbase : Nat
  gangs : Nat
  teams : Nat
  cx : Nat
  cy : Nat
  cz : Nat
  regs : Nat
  tags : Nat
  rows : Nat
  tiles : Nat
  tdepth : Nat
  scratch : Nat
  ntb : Nat
  ncb : Nat
  nkb : Nat
  nxb : Nat
  cor : Bool
  waitmask : BitVec 256
  setmask : BitVec 256
  kbase : Nat
  klen : Nat
  deriving DecidableEq, Repr

/-- A grid (R323, R338). -/
structure Grid where
  asid : Nat
  gid : Nat
  rcd : LaunchRec
  queue : Nat
  qslot : Nat
  /-- The region of the launching gang, none for a host-fed queue (R254). -/
  launcher : Option Nat
  /-- Writes of the launcher that must have been acknowledged before a gang is created (R254), by request. -/
  owes : List Nat
  placed : Nat
  /-- Time of admission, 0 before it (R321). -/
  tadm : Nat
  ended : Nat
  admitted : Bool
  killed : Bool
  xb : Tbl Barrier
  /-- kb barriers by 4 × cohort + index (R210). -/
  kb : Tbl Barrier
  deriving DecidableEq, Repr

/-! ### Contexts and partitions -/

inductive SlotState where
  | free | waiting | replied
  deriving DecidableEq, Repr

/-- Who waits on a fault slot (R302). -/
inductive SlotOwner where
  | gang (g : Nat)
  | copy (t seq : Nat)
  | task (t enq : Nat)
  | range (g : Nat)
  | notice
  /-- Nobody waits any more: a gang of team `t` that has retired, or that has left its RNGACQ, held the slot. -/
  | gone (t : Nat)
  deriving DecidableEq, Repr

/-- What a fault record holds beside its slot and SEQ (R301). -/
structure FaultInfo where
  origin : Nat
  cause : Nat
  fkind : Nat
  acc : Nat
  va : Nat
  lanes : Nat
  cluster : Nat
  gang : Nat
  team : Nat
  /-- TSPC of the trap that killed a team (R224). -/
  tspc : Word64
  deriving DecidableEq, Repr

/-- A fault slot (R301), with the TSPC of R224. -/
structure FaultSlot where
  st : SlotState
  seq : Nat
  rcd : List Byte
  tspc : Word64
  owner : SlotOwner
  status : Nat
  deriving DecidableEq, Repr

/-- A launch queue (R318 to R320). `read` is the next slot the scheduler reads; `status` holds the slot statuses 0 to 7 written
for slots not yet passed by QHEAD. -/
structure Queue where
  base : Nat
  en : Bool
  prod : Bool
  prio : Nat
  log2s : Nat
  head : BitVec 32
  tail : BitVec 32
  ferr : Bool
  terr : Bool
  read : BitVec 32
  /-- The tails that have been appended and not yet read, each with the time from which the 16 µs of R322 count. -/
  appended : List (BitVec 32 × Nat)
  status : Tbl Nat
  blocked : Bool
  age : Nat
  /-- ns the head has been blocked since its last age step (R326). -/
  blockNs : Nat
  /-- The head cluster whose age runs: grid and cluster index. -/
  aged : Option (Nat × Nat)
  frozen : Option (Option Nat)
  deriving DecidableEq, Repr

/-- A live binding (R172): its range, scope and object descriptor. -/
structure Binding where
  base : Nat
  len : Nat
  scope : Nat
  /-- Kind and instance of the object: barrier, tag, queue or key word, with the owner that names it. -/
  kind : Nat
  owner : Nat
  name : Nat
  deriving DecidableEq, Repr

/-- A live shadowed range and its twin (R185). -/
structure Shadow where
  base : Nat
  len : Nat
  twin : Nat
  gen : BitVec 8
  deriving DecidableEq, Repr

inductive CtxState where
  | eligible | preempting | dry
  deriving DecidableEq, Repr

/-- What a context's readings accumulate over the interval (R370). -/
structure Interval where
  start : Nat
  cmin : Nat
  cmax : Nat
  sumx : Nat
  sumd : Nat
  opseen : BitVec 16
  tstop : Nat
  stopped : Bool
  undervolt : Bool
  deriving DecidableEq, Repr

/-- A context (R14, R291, R396). `doomed` is WHY it is being destroyed, while engine work of it has still to end (R408). -/
structure Ctx where
  doomed : Option Nat
  part : Nat
  fn : Nat
  page : Nat
  l1 : Nat
  parkt : Nat
  key : Nat
  cw : Nat
  gseg : Seg
  kseg : Seg
  ectr : Nat
  ecsat : Bool
  depth : Nat
  refill : Nat
  bal : Int
  empty : Bool
  events : BitVec 256
  tvec : Word64
  pvec : Word64
  pbudget : Nat
  queues : Tbl Queue
  nextGid : BitVec 32
  slots : Tbl FaultSlot
  /-- Fault slots whose records are not yet posted (R399). -/
  unposted : List Nat
  /-- Notices, and faults of engine work, that wait for a free slot (R300, R311). -/
  waiting : List (SlotOwner × FaultInfo)
  disc : Nat
  epoch : Nat
  account : Nat
  static : Nat
  model : Nat
  /-- Residuals by island (R354). -/
  resid : Tbl Nat
  /-- Modelled eu of this tick, and of the last one closed, by island (R335, R353). -/
  dtick : Tbl Nat
  lastd : Tbl Nat
  iv : Interval
  readAt : Nat
  /-- Host requests for a reading not yet answered (R372). -/
  requested : Nat
  st : CtxState
  /-- Slice clock in ns; none while no cluster is resident (R330). -/
  slice : Option Nat
  binds : List Binding
  /-- Bindings removed (R253). -/
  unbound : List Binding
  shadows : List Shadow
  frbase : Word64
  frlog : Nat
  fren : Bool
  frhead : BitVec 32
  frtail : BitVec 32
  trbase : Word64
  trlog : Nat
  tren : Bool
  trts : Bool
  trhead : BitVec 32
  trtail : BitVec 32
  trlost : Nat
  trlossSince : Nat
  /-- Draining waits on a fault of the ring's address (R414). -/
  trwait : Bool
  dbp : Tbl Word64
  /-- Residency of this tick by region, in units of 1 / 1,441,440 of a core-cycle of the 1.50 GHz reference (R355). -/
  resident : Tbl Nat
  deriving DecidableEq, Repr

/-- What a context page still reports after its context is gone (R398). -/
structure PageStat where
  fn : Nat
  page : Nat
  asid : Nat
  why : Nat
  disc : Nat
  deriving DecidableEq, Repr

/-- A CXL.mem window (R401). -/
structure HdmWin where
  en : Bool
  base : Nat
  len : Nat
  asid : Nat
  deriving DecidableEq, Repr

/-- A reading waiting for the meter ring (R372, R400). -/
structure Reading where
  asid : Nat
  kind : Nat
  body : List Byte
  deriving DecidableEq, Repr

/-- A partition (R12, R359, R400). -/
structure Partition where
  tenant : BitVec 32
  pool : List Nat
  poolTotal : Nat
  epochLen : Nat
  epochPos : Nat
  sliceLen : Nat
  readint : Nat
  opfast : Nat
  opslow : Nat
  floor : Nat
  cap : Nat
  fpid : BitVec 12
  fpidCtx : Nat
  /-- Devices of the fabric partition (R387). -/
  fmembers : List Nat
  overhead : Nat
  resid : Tbl Nat
  mrbase : Word64
  mrlog : Nat
  mren : Bool
  mrhead : BitVec 32
  mrtail : BitVec 32
  mwait : List Reading
  wins : Tbl HdmWin
  below : Nat
  budget : Nat
  /-- The operating point of its regions as the operator configured it (R14), and the threshold that firmware sets for the trim (R362). -/
  point : Nat
  trimThr : Nat
  fwver : Nat
  /-- The contents of the worker image that runs (R403). -/
  fwdigest : Nat
  /-- A worker image to be verified once the partition holds no room (R406). -/
  updating : Option FwImage
  /-- A region to be replaced once the partition holds no room, with the dirty home lines that cannot be read (R407). -/
  failing : Option (Nat × List Nat)
  deriving DecidableEq, Repr

/-! ### Regions and the device -/

/-- A region and its island (R14, R358 to R363). `uv` is the rail in µV, `trim` and `ceiling` are in mV, `cycles` is in hundredths
of a cycle, and the times at which a switch, a drowse move, a trim step and a hold-off are due are in ns since device reset. -/
structure Region where
  part : Option Nat
  req : Nat
  /-- The point cap enforcement imposes (R359, R369). -/
  imposed : Nat
  /-- The point whose table frequency the island runs at. -/
  freq : Nat
  uv : Nat
  switchTo : Option Nat
  switchEnd : Nat
  slewing : Bool
  trim : Nat
  ceiling : Nat
  errs : Nat
  trimAt : Nat
  holdoff : Bool
  holdEnd : Nat
  raising : Bool
  drowse : Bool
  drowseMove : Option Bool
  drowseEnd : Nat
  cycles : Nat
  rotTask : Nat
  rotCopy : Nat
  offline : Bool
  /-- Consecutive ticks at which the region read hot, and whether a report of it is due (R366). -/
  hot : Nat
  hotDue : Bool
  deriving DecidableEq, Repr

/-- A cached leaf translation (R295): virtual base, size exponent and entry. -/
structure TlbEntry where
  asid : Nat
  vbase : Nat
  bits : Nat
  pte : Word64
  deriving DecidableEq, Repr

/-- A slot that names a row-hold entry: the segments it holds open, and those written since its opening or since they were last written back
(R164, R167). -/
structure RowRef where
  team : Nat
  slot : Nat
  opens : BitVec 8
  dirty : BitVec 8
  deriving DecidableEq, Repr

/-- An entry of a base die's row-hold table, with the slots that name it (R278). -/
structure RowEntry where
  row : Nat
  asid : Nat
  slots : List RowRef
  deriving DecidableEq, Repr

/-- OPEN and DIRTY of an entry: the unions over its slots (R278). -/
def RowEntry.opens (e : RowEntry) : BitVec 8 := e.slots.foldl (fun m x => m ||| x.opens) 0
def RowEntry.dirty (e : RowEntry) : BitVec 8 := e.slots.foldl (fun m x => m ||| x.dirty) 0

/-- The far end of a fabric port: the generation of the partner, if one is there, and whether training at gen 2 succeeds with it (R384). -/
structure FarEnd where
  far : Option Nat
  gen2ok : Bool
  deriving DecidableEq, Repr

/-- The bytes a context holds in a core's trace buffer (R414), with the lengths of the packets still to begin. -/
structure TraceBuf where
  bytes : List Byte
  /-- Lengths of the packets in the buffer; the first may be the rest of a packet begun in an earlier record. -/
  lens : List Nat
  begun : Bool
  /-- Packets dropped since the last LOSS (R415). -/
  lost : Nat
  /-- Island cycle count at which the last packet entered, in hundredths (R426). -/
  lastAt : Nat
  /-- The last traced gang of the context on the core has retired since the buffer was last drained whole (R426). -/
  flush : Bool
  deriving DecidableEq, Repr

/-- A multicast-reduce group with the contributions its root holds, by element offset (R390, R391). -/
structure Group where
  desc : GroupDesc
  parts : Tbl (List (BitVec 32 × BitVec 8 × BitVec 64))
  deriving DecidableEq, Repr

/-- Who made a fabric request: the scalar stream, a lane, a code fetch, a copy or a task. -/
inductive Asker where
  | scalar (g : Nat)
  | lane (g l : Nat)
  | fetch (g : Nat)
  | laneFetch (g c : Nat)
  | copy (t seq : Nat)
  | task (t enq : Nat)
  | sched (asid q : Nat)
  deriving DecidableEq, Repr

/-- A fabric request (R388): its tag, type, team, physical address, length and time of sending, and its answer once one has come:
the bytes, and whether they are poisoned. -/
structure Request where
  tag : Nat
  ptype : BitVec 8
  who : Asker
  team : Nat
  asid : Nat
  addr : Nat
  n : Nat
  /-- The key of a contribution's packet, by which its acknowledgement is known (R388, R391). -/
  key : Nat
  sent : Nat
  /-- Handlers that the asking gang was in: a handler's own accesses are others than those of the word it broke off. -/
  depth : Nat
  /-- The bytes from `addr` on, and which bytes of their line are poisoned. -/
  answer : Option (List Byte × BitVec 128)
  deriving DecidableEq, Repr

/-- An amount charged to a context for a word, step or chunk that has still to end: it lands with it (R346). -/
structure Owed where
  who : Asker
  asid : Nat
  island : Nat
  eu : Nat
  deriving DecidableEq, Repr

/-- The translation of an access that is on its way: it completes against that page whatever becomes of the entry (R297). -/
structure Pin where
  who : Asker
  va : Nat
  pa : Nat
  /-- As for a request. -/
  depth : Nat
  deriving DecidableEq, Repr

/-- Modelled energy that stands outside the contexts' counters (R346, R347). -/
structure Energy where
  /-- eu of the tick by overhead account (0 the device's, p + 1 that of partition p), then by island. -/
  ovhd : Tbl (Tbl Nat)
  owed : List Owed
  deriving DecidableEq, Repr

/-- The swarm budget protocol (R368). -/
structure Swarm where
  self : Nat
  members : List Nat
  crack : Nat
  period : Nat
  reports : Tbl (Nat × Nat)
  missing : Tbl Nat
  grant : Nat
  floorOnly : Bool
  /-- The power that the stack and port islands drew in the last period, in W (R369). -/
  measured : Nat
  deriving DecidableEq, Repr

inductive Tdisp where
  | unlocked | locked | run | error
  deriving DecidableEq, Repr

/-- What leaves the device. -/
inductive Msg where
  | msix (fn vec : Nat)
  | packet (x : Packet)
  | value (v : Word64)
  | cxl (data : Option (List Byte))
  | spdm (die request : Nat) (answer : List Byte)
  | retry (fn : Nat)
  | accepted (fn : Nat)
  | refusedWrite (fn : Nat)
  | firmware (x : Packet)
  deriving DecidableEq, Repr

/-- A partition as the operator configured it; bring-up creates it (R411 step 5). -/
structure PartPlan where
  id : Nat
  regions : List Nat
  tenant : BitVec 32
  pool : List Nat
  fpid : BitVec 12
  /-- The context that serves what comes under the FPID (R387). -/
  fpidCtx : Nat
  /-- Devices of the fabric partition (R387). -/
  fmembers : List Nat
  /-- The operating point of its regions (R14). -/
  point : Nat
  worker : FwImage
  deriving DecidableEq, Repr

/-- Which agent acts next (notes/assumptions/1.md). -/
inductive Choice where
  /-- The scalar stream of gang `g` takes its next word. -/
  | scalar (g : Nat)
  /-- The issue group of cell `c` of gang `g` issues its next word. -/
  | lane (g c : Nat)
  /-- A step of the device, or an act of the host, the operator or the fabric. -/
  | event (i : Instr)
  /-- Time passes. -/
  | elapse (ns : Nat)
  /-- A copy of a line leaves L1, a near slice, a home slice or a victim cache (R269, R272, R274). -/
  | evictL1 (core line : Nat)
  | evictNear (region line : Nat)
  | evictHome (line : Nat)
  | evictVictim (line : Nat)
  /-- A translation is replaced (R295). -/
  | evictTlb (core vbase : Nat)
  /-- The host, or the operator, reads a register (R396, R400, R411). -/
  | read (x : PageReg)
  /-- The host's accesses come in the selective IDE stream of function `f`, or in none (0) from now on (R402). -/
  | stream (f : Nat)
  /-- The hottest junction sensor of the package reads `t` °C from now on (R364). -/
  | hottest (t : Int)
  /-- The operator raises a fused minimum: of worker images, or of queen patches (R405). -/
  | raise (worker : Bool) (v : Nat)
  deriving DecidableEq, Repr

/-- The device. -/
structure State where
  /-- Bring-up step in progress, 1 to 7; 8 when bring-up is complete (R411). -/
  boot : Nat
  bootFailed : Option Nat
  bootCount : Nat
  now : Nat
  /-- Time at which the tick in progress closes, the ns of thermal stop in it, and by island the modelled eu and the static energy of the tick that are
  already billed (R353, R355, R357, R373). -/
  tickEnd : Nat
  tickStop : Nat
  billed : Tbl (Nat × Nat)
  mem : Mem
  memBad : List Nat
  store : Mem
  storeBad : List Nat
  acc : Mem
  metas : Tbl (BitVec 32)
  l1 : Tbl (Tbl LineCopy)
  near : Tbl (Tbl NearCopy)
  /-- Home copies by line (R272), and victim lines (R274). -/
  home : Tbl SliceLine
  victim : Tbl SliceLine
  rowTab : List RowEntry
  tlb : Tbl (List TlbEntry)
  walk : Tbl (List TlbEntry)
  /-- Trace buffer contents by core, then ASID (R414). -/
  trace : Tbl (Tbl TraceBuf)
  regions : Tbl Region
  parts : Tbl Partition
  ctxs : Tbl Ctx
  pages : List PageStat
  grids : Tbl Grid
  clusters : Tbl Cluster
  teams : Tbl Team
  gangs : Tbl Gang
  plan : List PartPlan
  ports : Tbl Nat
  /-- What is at the far ends of the ports: data from outside, with which bring-up step 7 trains them (R384, R411). -/
  farEnds : Tbl FarEnd
  requests : List Request
  pins : List Pin
  violations : Nat
  late : Nat
  groups : Tbl Group
  swarm : Swarm
  stopped : Bool
  seq : Nat
  overhead : Nat
  ovresid : Tbl Nat
  energy : Energy
  /-- The partition of the last context that was destroyed under an ASID (R346). -/
  lastPart : Tbl Nat
  calib : List (Nat × Int)
  uvlog : List (Nat × Nat × Nat × ErrSite)
  errRate : Tbl Nat
  /-- Key slots zeroised and not loaded again, and the key slot under which each 128-byte line of device memory was written last (R404). -/
  zeroised : List Nat
  keyed : Tbl Nat
  /-- The fused minimum versions of worker images and of queen patches, and the patch (R405). -/
  minver : Nat
  minPatch : Nat
  patch : FwImage
  /-- Bring-up steps that this device's hardware fails (R411). -/
  broken : List Nat
  /-- Rows of each stack that patrol scrub has visited since reset (R287). -/
  scrub : Tbl Nat
  /-- Rows that a patrol scrub met held, with the corrections it makes when the row is refreshed (R287). -/
  scrubHeld : Tbl Nat
  /-- What the hottest junction sensor of the package reads, in °C, and what waits for the end of a thermal stop (R364). -/
  hottest : Int
  flow : List Choice
  /-- The selective IDE stream of the host's accesses: the function's number, 0 for none (R402). -/
  ide : Nat
  tdisp : Tbl Tdisp
  sessions : Tbl Nat
  /-- The spare-region map: the regions whose number the spare of their die has taken (R403, R407). -/
  spares : List Nat
  outbox : List Msg
  uid : Nat
  readySeq : Nat
  agenda : List Choice
  turn : Nat
  /-- The gang whose word is executing, and the cells of the issuing group. -/
  cur : Nat
  cells : List Nat
  /-- Counter from which the free values are drawn. -/
  free : Nat
  deriving DecidableEq, Repr

/-- A region right after reset: no partition, op2, no trim (R14, R358, R362; notes/assumptions/6.md). -/
def Region.reset : Region where
  part := none
  req := 2
  imposed := 0
  freq := 2
  uv := 800000
  switchTo := none
  switchEnd := 0
  slewing := false
  trim := 0
  ceiling := 50
  errs := 0
  trimAt := 1000000
  holdoff := false
  holdEnd := 0
  raising := false
  drowse := false
  drowseMove := none
  drowseEnd := 0
  cycles := 0
  rotTask := 0
  rotCopy := 0
  offline := false
  hot := 0
  hotDue := false

/-- An image that verifies, at version 0, with the defaults. -/
def FwImage.default : FwImage :=
  { ed25519 := true, mldsa65 := true, version := 0, digest := 0, epoch := none, slice := none, trimThr := none, readint := none }

/-- The partitions the operator configured before the first power-on (notes/assumptions/3.md). -/
def PartPlan.default : List PartPlan :=
  [{ id := 0, regions := List.range 48, tenant := 0, pool := [], fpid := 0, fpidCtx := 0, fmembers := [], point := 2,
     worker := FwImage.default }]

/-- The state after a reset at boot counter `boots`, with the partitions of `plan` to be created (R410). -/
def State.resetWith (boots : Nat) (plan : List PartPlan) : State where
  boot := 1
  bootFailed := none
  bootCount := boots
  now := 0
  tickEnd := 16000
  tickStop := 0
  billed := []
  mem := []
  memBad := []
  store := []
  storeBad := []
  acc := []
  metas := []
  l1 := []
  near := []
  home := []
  victim := []
  rowTab := []
  tlb := []
  walk := []
  trace := []
  regions := (List.range 48).map fun r => (r, Region.reset)
  parts := []
  ctxs := []
  pages := []
  grids := []
  clusters := []
  teams := []
  gangs := []
  plan := plan
  ports := []
  farEnds := []
  requests := []
  pins := []
  violations := 0
  late := 0
  groups := []
  swarm := { self := 0, members := [], crack := 0, period := 0, reports := [], missing := [], grant := 3000, floorOnly := false, measured := 0 }
  stopped := false
  seq := boots * 2 ^ 32 + 1
  overhead := 0
  ovresid := []
  energy := { ovhd := [], owed := [] }
  lastPart := []
  calib := []
  uvlog := []
  errRate := []
  zeroised := []
  keyed := []
  minver := 0
  minPatch := 0
  patch := FwImage.default
  broken := []
  scrub := []
  scrubHeld := []
  hottest := 0
  flow := []
  ide := 0
  tdisp := []
  sessions := []
  spares := []
  outbox := []
  uid := 1
  readySeq := 0
  agenda := []
  turn := 0
  cur := 0
  cells := []
  free := 0

/-- The device right after the first power-on (R410). -/
def State.reset : State := State.resetWith 1 PartPlan.default

end Sys2Proof.Machine
end

