-- ==== Sys2Proof/Machine/Own.lean ====
section
/-!
DEFINITION. Owners: the values an owner holds at its creation (R14), how an owner is found and changed, energy charges (R345 to R352) and
the placement arithmetic of cores, stacks and dies (R271).
-/

namespace Sys2Proof.Machine

/-! ### Values at creation -/

/-- A lane at creation (R14). -/
def Lane.blank : Lane := { o := [], latch := 0, p := 1, exited := false, latchBad := false, oBad := 0 }

/-- A cell with no block running. -/
def Cell.blank : Cell :=
  { lpc := 0, mask := 15, stack := [], pending := none, unpaid := false, run := .idle, group := 0, wait := .none }

/-- MODE at gang creation (R34): flags clear, RMD 0b001. -/
def Mode.blank : Mode := { flags := 0, den := false, satd := false, rmd := 1 }

def TrapRegs.blank : TrapRegs := { cause := 0, tspc := 0, tlpc := 0, tmask := 0, taddr := 0, clanes := 0, fkind := 0, acc := 0 }

/-- A gang at creation (R14), before its placement is filled in. -/
def Gang.blank : Gang where
  team := 0
  idx := 0
  slot := 0
  wbase := 0
  spc := 0
  s := []
  mode := Mode.blank
  priv := false
  segs := []
  queue := []
  block := none
  lanes := (List.range 32).map fun l => (l, Lane.blank)
  cells := (List.range 8).map fun c => (c, Cell.blank)
  drowse := false
  run := .run
  wait := .none
  armed := []
  bar := none
  trap := TrapRegs.blank
  tfstat := 0
  sscr := []
  frame := none
  held := []
  pspc := 0
  pcause := 0
  pbleft := 0
  pframe := none
  preq := none
  exiting := false
  wcs := []
  wcl := []
  stamp := none
  stts := []
  sttLeft := []
  item := 0
  ntpl := 0
  tplOf := none
  shared := []
  dbctl := 0
  skipS := false
  skipL := false
  stepping := 0
  stepIn := false
  tr := { stamp := 0, sync := 0, packets := 0, due := none }
  rng := none

def Tag.blank : Tag := { count := 0, done := false, err := false, dests := [] }

/-- A FREE row slot (R167). -/
def RowSlot.blank : RowSlot :=
  { st := .free, pers := false, why := 0, row := 0, mask := 0, saved := false, savedOpen := 0, pinner := 0 }

def Barrier.blank : Barrier := { exp := 0, arr := 0, phase := 0 }

/-- Code-table version 0: every entry reserved (R199). -/
def CodeTable.blank : CodeTable := { version := 0, entries := [], reserved := 0xFFFF }

def LaunchRec.blank : LaunchRec where
  entry := 0
  lcbase := 0
  gangs := 1
  teams := 1
  cx := 1
  cy := 1
  cz := 1
  regs := 1
  tags := 0
  rows := 0
  tiles := 0
  tdepth := 0
  scratch := 0
  ntb := 0
  ncb := 0
  nkb := 0
  nxb := 0
  cor := false
  waitmask := 0
  setmask := 0
  kbase := 0
  klen := 0

def Team.blank : Team where
  grid := 0
  cluster := 0
  idx := 0
  core := 0
  slots := []
  wbases := []
  sbase := 0
  tagBase := 0
  tileBase := 0
  tags := []
  rows := []
  tb := []
  ctCur := CodeTable.blank
  ctOld := { CodeTable.blank with version := 256 }
  tasks := []
  copies := []
  nextEnq := 0
  nextCopy := 0
  frozen := []
  deferred := []
  retired := false
  dying := false
  placed := 0
  image := none

def Cluster.blank : Cluster where
  grid := 0
  idx := 0
  region := 0
  teams := []
  st := .resident
  cohort := 0
  stallNs := 0
  readyAt := 0
  target := none
  swapped := false
  asked := none
  cb := []

def Grid.blank : Grid where
  asid := 0
  gid := 0
  rcd := LaunchRec.blank
  queue := 0
  qslot := 0
  launcher := none
  owes := []
  placed := 0
  tadm := 0
  ended := 0
  admitted := false
  killed := false
  xb := []
  kb := []

/-- A launch queue at context creation (R318 to R320). -/
def Queue.blank : Queue where
  base := 0
  en := false
  prod := false
  prio := 0
  log2s := 2
  head := 0
  tail := 0
  ferr := false
  terr := false
  read := 0
  appended := []
  status := []
  blocked := false
  age := 0
  blockNs := 0
  aged := none
  frozen := none

/-- An interval of readings that starts at `t` (R370). -/
def Interval.from (t : Nat) : Interval where
  start := t
  cmin := 65535
  cmax := 0
  sumx := 0
  sumd := 0
  opseen := 0
  tstop := 0
  stopped := false
  undervolt := false

/-- A context at creation, before its descriptor is filled in (R14). -/
def Ctx.blank : Ctx where
  doomed := none
  part := 0
  fn := 0
  page := 0
  l1 := 0
  parkt := 200
  key := 0
  cw := 1
  gseg := { base := 0, lim := 0 }
  kseg := { base := 0, lim := 0 }
  ectr := 0
  ecsat := false
  depth := 0
  refill := 0
  bal := 0
  empty := false
  events := 0
  tvec := 0
  pvec := 0
  pbudget := 20000
  queues := (List.range 8).map fun q => (q, Queue.blank)
  nextGid := 1
  slots := []
  unposted := []
  waiting := []
  disc := 0
  epoch := 0
  account := 0
  static := 0
  model := 0
  resid := []
  dtick := []
  lastd := []
  iv := Interval.from 0
  readAt := 0
  requested := 0
  st := .eligible
  slice := none
  binds := []
  unbound := []
  shadows := []
  frbase := 0
  frlog := 0
  fren := false
  frhead := 0
  frtail := 0
  trbase := 0
  trlog := 0
  tren := false
  trts := false
  trhead := 0
  trtail := 0
  trlost := 0
  trlossSince := 0
  trwait := false
  dbp := []
  resident := []

/-- A partition at creation (R328, R330, R359, R372, R400). Until the first division of power its budget is the 3,000 W of a device. -/
def Partition.blank : Partition where
  tenant := 0
  pool := []
  poolTotal := 0
  epochLen := 1024
  epochPos := 0
  sliceLen := 2048000
  readint := 62500
  opfast := 2
  opslow := 15
  floor := 0
  cap := 0
  fpid := 0
  fpidCtx := 0
  fmembers := []
  overhead := 0
  resid := []
  mrbase := 0
  mrlog := 0
  mren := false
  mrhead := 0
  mrtail := 0
  mwait := []
  wins := []
  below := 0
  budget := 3000
  point := 2
  trimThr := Config.trimThreshold
  fwver := 0
  fwdigest := 0
  updating := none
  failing := none

/-- LOG2 of a ring whose field holds `v`: `v` itself from `lo` to `hi`; for another value the device uses an unstated one of that range
(notes/assumptions/73.md). -/
def ringLog (lo hi v : Nat) : Nat := if lo ≤ v && v ≤ hi then v else lo + Config.ringLog v % (hi + 1 - lo)

/-- Entries of a context's fault ring and of a partition's meter ring (R396, R400). -/
def Ctx.frSize (c : Ctx) : Nat := 2 ^ ringLog 4 15 c.frlog
def Partition.mrSize (x : Partition) : Nat := 2 ^ ringLog 2 12 x.mrlog

/-! ### Finding and changing owners -/

def State.gang (s : State) (u : Nat) : Gang := Tbl.atD s.gangs u Gang.blank
def State.team (s : State) (t : Nat) : Team := Tbl.atD s.teams t Team.blank
def State.cluster (s : State) (c : Nat) : Cluster := Tbl.atD s.clusters c Cluster.blank
def State.grid (s : State) (n : Nat) : Grid := Tbl.atD s.grids n Grid.blank
def State.ctx (s : State) (a : Nat) : Ctx := Tbl.atD s.ctxs a Ctx.blank
def State.part (s : State) (p : Nat) : Partition := Tbl.atD s.parts p Partition.blank
def State.region (s : State) (r : Nat) : Region := Tbl.atD s.regions r Region.reset

def State.setGang (s : State) (u : Nat) (g : Gang) : State := { s with gangs := Tbl.put s.gangs u g }
def State.modGang (s : State) (u : Nat) (f : Gang → Gang) : State := { s with gangs := Tbl.upd s.gangs u f }
def State.modTeam (s : State) (t : Nat) (f : Team → Team) : State := { s with teams := Tbl.upd s.teams t f }
def State.modCluster (s : State) (c : Nat) (f : Cluster → Cluster) : State :=
  { s with clusters := Tbl.upd s.clusters c f }
def State.modGrid (s : State) (n : Nat) (f : Grid → Grid) : State := { s with grids := Tbl.upd s.grids n f }
def State.modCtx (s : State) (a : Nat) (f : Ctx → Ctx) : State := { s with ctxs := Tbl.upd s.ctxs a f }
def State.modPart (s : State) (p : Nat) (f : Partition → Partition) : State :=
  { s with parts := Tbl.upd s.parts p f }
def State.modRegion (s : State) (r : Nat) (f : Region → Region) : State :=
  { s with regions := Tbl.upd s.regions r f }

def State.clusterOfTeam (s : State) (t : Nat) : Cluster := s.cluster (s.team t).cluster
def State.gridOfTeam (s : State) (t : Nat) : Grid := s.grid (s.team t).grid
def State.asidOfTeam (s : State) (t : Nat) : Nat := (s.gridOfTeam t).asid
/-- The launch record of a gang's grid. -/
def State.recOf (s : State) (g : Gang) : LaunchRec := (s.gridOfTeam g.team).rcd
/-- The ASID of a gang's context (R291). -/
def State.asidOf (s : State) (g : Gang) : Nat := s.asidOfTeam g.team
def State.ctxOf (s : State) (g : Gang) : Ctx := s.ctx (s.asidOf g)
def State.coreOf (s : State) (g : Gang) : Nat := (s.team g.team).core

/-- The region of a core: eight cores to a region (R1). -/
def regionOfCore (core : Nat) : Nat := core / 8
def State.regOf (s : State) (g : Gang) : Nat := regionOfCore (s.coreOf g)

/-- Whether a gang is a template: it holds a window and no slot (R218, R219). -/
def Gang.isTpl (g : Gang) : Bool :=
  match g.run with
  | .template _ _ => true
  | _ => false

/-- The gangs of a team, templates among them, by identifier. -/
def State.gangsOf (s : State) (t : Nat) : List Nat := Tbl.keysOf s.gangs fun g => g.team = t
/-- The live gangs of a team: those that are not templates. -/
def State.liveOf (s : State) (t : Nat) : List Nat := Tbl.keysOf s.gangs fun g => g.team = t && !g.isTpl
/-- The clusters of a grid. -/
def State.clustersOf (s : State) (n : Nat) : List Nat := Tbl.keysOf s.clusters fun c => c.grid = n
def State.teamsOf (s : State) (n : Nat) : List Nat := Tbl.keysOf s.teams fun t => t.grid = n
/-- The grids of a context. -/
def State.gridsOf (s : State) (a : Nat) : List Nat := Tbl.keysOf s.grids fun n => n.asid = a

/-- Whether a cluster's gangs hold their cores and may run (R307). -/
def Cluster.onCore (c : Cluster) : Bool :=
  match c.st with
  | .resident | .stalled | .swapping | .saving => true
  | .absent | .ready | .restoring => false

/-- Whether a team holds rows of its core's store (R355). -/
def State.teamOnCore (s : State) (t : Nat) : Bool := (s.team t).image.isNone

/-- Whether a team's grant is taken: its cluster is neither absent nor waiting to return. -/
def State.holdsRoom (s : State) (t : Team) : Bool :=
  match (s.cluster t.cluster).st with
  | .absent | .ready => false
  | _ => true

/-- Store rows of a core, and those L1 never gives up (R16, R267). -/
def coreRows : Nat := 8192
def l1Rows : Nat := 512

/-- Rows of a core's store granted as windows and scratchpads (R16, R267). -/
def State.grantedRows (s : State) (core : Nat) : Nat :=
  ((s.teams.filter fun e => e.2.core = core && s.holdsRoom e.2).map fun e =>
    (s.grid e.2.grid).rcd.scratch / 128 + e.2.wbases.length * (s.grid e.2.grid).rcd.regs).foldl (· + ·) 0

/-- Lines that a core's L1 can hold: one to each row it is left (R16, R269). -/
def State.l1Lines (s : State) (core : Nat) : Nat := coreRows - s.grantedRows core

/-- The regions of a partition, in rising order. -/
def State.regionsOf (s : State) (p : Nat) : List Nat :=
  Tbl.keysOf s.regions fun r => r.part = some p && !r.offline
/-- The cores of a partition: eight per region, in rising region number (R282). -/
def State.coresOf (s : State) (p : Nat) : List Nat :=
  (s.regionsOf p).flatMap fun r => (List.range 8).map (8 * r + ·)

/-! ### Places of physical memory (R271) -/

def lineOf (pa : Nat) : Nat := pa / 128

/-- The stack of a device address: the exclusive or of the 3-bit groups of its block number. -/
def stackOf (pa : Nat) : Nat :=
  (List.range 10).foldl (fun x i => Nat.xor x (bits (bits pa 38 10) (3 * i + 2) (3 * i))) 0
def localBlock (pa : Nat) : Nat := bits (bits pa 38 10) 28 3
/-- Pseudo-channel of a device address. -/
def pchanOf (pa : Nat) : Nat := localBlock pa % 64
/-- Eighth-row segment of a device address. -/
def rowSegOf (pa : Nat) : Nat := bits pa 9 7
/-- The region whose slice is the home slice. -/
def homeOf (pa : Nat) : Nat := 6 * stackOf pa + bits pa 38 7 % 6
/-- The row of a device address, named by its 1 KiB block. -/
def rowOf (pa : Nat) : Nat := pa / 1024

/-- Device memory (R271). -/
def isDev (pa : Nat) : Bool := pa < 2 ^ 39
/-- Host memory (R386). -/
def isHost (pa : Nat) : Bool := 2 ^ 48 ≤ pa && pa < 2 ^ 49
/-- Peer device memory (R386). -/
def isPeer (pa : Nat) : Bool := 2 ^ 51 ≤ pa && pa < 2 ^ 51 + 4095 * 2 ^ 39
def peerOf (pa : Nat) : Nat := (pa - 2 ^ 51) / 2 ^ 39

/-! ### Charges -/

/-- Frequencies of op0 to op15 in units of 10 MHz (R358). -/
def pointFreq : List Nat := [180, 165, 150, 140, 130, 120, 110, 100, 90, 80, 70, 60, 50, 45, 40, 30]

/-- Table voltages of op0 to op15 in mV (R358). -/
def pointMv : List Nat := [900, 850, 800, 775, 750, 725, 700, 675, 650, 625, 600, 575, 550, 540, 530, 500]

def freqOf (p : Nat) : Nat := (pointFreq[p]?).getD 30
def mvOf (p : Nat) : Nat := (pointMv[p]?).getD 500

/-- The weights of R345, in eu. -/
def wScalar : Nat := 4
def wCell : Nat := 5
def wFloat : Nat := 8
def wDouble : Nat := 20
def wRoot : Nat := 16
def wConv : Nat := 6
def wLaneMem : Nat := 6
def wStore : Nat := 24
def wNear : Nat := 96
def wHome : Nat := 150
def wVictim : Nat := 320
def wHbm : Nat := 1280
def wActivate : Nat := 300
def wGather : Nat := 40
def wFlit : Nat := 2600
def wCopy : Nat := 16
def wCopyFault : Nat := 200
def wSave : Nat := 40

/-- Correction islands are numbered 0 to 47 for the regions, 48 to 55 for the stacks and 56 to 59 for the ports of a die (R352). -/
def stackIsland (stack : Nat) : Nat := 48 + stack
def portIsland (region : Nat) : Nat := 56 + region / 12

/-- COUNT and ECSAT after a charge (R349). -/
def Ctx.charge (c : Ctx) (island n : Nat) : Ctx :=
  { c with
    ectr := if c.ectr + n < 2 ^ 48 - 1 then c.ectr + n else 2 ^ 48 - 1
    ecsat := c.ecsat || (n ≠ 0 && 2 ^ 48 - 1 ≤ c.ectr + n)
    dtick := Tbl.put c.dtick island (Tbl.atD c.dtick island 0 + n) }

/-- The overhead account of a partition, or of the device. -/
def overAccount (part : Option Nat) : Nat := match part with
  | some p => p + 1
  | none => 0

/-- An overhead charge of a region's partition, or of the device (R347). -/
def State.chargeOver (s : State) (part : Option Nat) (island n : Nat) : State :=
  let k := overAccount part
  let t := Tbl.atD s.energy.ovhd k []
  { s with energy := { s.energy with ovhd := Tbl.put s.energy.ovhd k (Tbl.put t island (Tbl.atD t island 0 + n)) } }

/-- Modelled eu of the tick of an overhead account in an island. -/
def State.overTick (s : State) (part : Option Nat) (island : Nat) : Nat := Tbl.atD (Tbl.atD s.energy.ovhd (overAccount part) []) island 0

/-- charge(ctx, n) for an event modelled in `island`. What is charged to a context that is gone goes to its partition's overhead, and to the device's
where there was none (R346, R347). -/
def State.charge (s : State) (asid island n : Nat) : State :=
  if n = 0 then s
  else match Tbl.at? s.ctxs asid with
    | some c => { s with ctxs := Tbl.put s.ctxs asid (c.charge island n) }
    | none => s.chargeOver (Tbl.at? s.lastPart asid) island n

/-! When charges land (R346) -/

/-- What a context is charged in `t` beyond what it was in `s`, by island. -/
def Ctx.spent (c d : Ctx) : Tbl Nat :=
  d.dtick.filterMap fun e =>
    let n := e.2 - Tbl.atD c.dtick e.1 0
    if n = 0 then none else some (e.1, n)

/-- The charges made since `s` for a context are owed by `who`, whose word, step or chunk has not ended. -/
def State.defer (s t : State) (who : Asker) (asid : Nat) : State :=
  match Tbl.at? s.ctxs asid, Tbl.at? t.ctxs asid with
  | some c, some d =>
    if c.dtick = d.dtick then t
    else { t with
      ctxs := Tbl.put t.ctxs asid { d with ectr := c.ectr, ecsat := c.ecsat, dtick := c.dtick }
      energy := { t.energy with owed := t.energy.owed ++ (c.spent d).map fun e => { who := who, asid := asid, island := e.1, eu := e.2 } } }
  | _, _ => t

/-- Handlers that a gang is in (R224, R229). -/
def Gang.depth (g : Gang) : Nat := b2n g.frame.isSome + b2n g.pframe.isSome

/-- Handlers that an asker's gang is in. -/
def State.depthOf (s : State) (who : Asker) : Nat :=
  match who with
  | .scalar u | .lane u _ | .fetch u | .laneFetch u _ => (s.gang u).depth
  | .copy _ _ | .task _ _ | .sched _ _ => 0

/-- The words, chunks and steps of the askers `p` have ended: what they owe lands, and their translations are kept no longer (R297, R346). -/
def State.finish (s : State) (p : Asker → Bool) : State :=
  let due := s.energy.owed.filter fun x => p x.who
  due.foldl (fun (s : State) x => s.charge x.asid x.island x.eu)
    { s with
      energy := { s.energy with owed := s.energy.owed.filter fun x => !p x.who }
      pins := s.pins.filter fun x => !(p x.who && x.depth = s.depthOf x.who) }

/-- Whether a read or an atomic that an asker has made where it is now is on its way, or its answer unused. -/
def State.asking (s : State) (p : Asker → Bool) : Bool :=
  s.requests.any fun r => p r.who && (r.ptype = 0 || r.ptype = 3) && r.depth = s.depthOf r.who

/-- Whether what `who` does has ended. A word that a trap or a pre-emption breaks off while nothing of it is on its way has ended there; a chunk or a
step ends in its own run, or with its work (notes/assumptions/93.md). -/
def State.ended (s : State) (who : Asker) : Bool :=
  let cell := fun (u c : Nat) => match Tbl.at? s.gangs u with
    | some g => (Tbl.atD g.cells c Cell.blank).wait = .none && !s.asking fun w => match w with
      | .lane v l => v = u && l / 4 = c
      | .laneFetch v d => v = u && d = c
      | _ => false
    | none => true
  match who with
  | .scalar u | .fetch u =>
    match Tbl.at? s.gangs u with
    | some g => g.wait = .none && !s.asking fun w => w = .scalar u || w = .fetch u
    | none => true
  | .lane u l => cell u (l / 4)
  | .laneFetch u c => cell u c
  | .copy t q => !(s.team t).copies.any fun k => k.seq = q
  | .task t q => !(s.team t).tasks.any fun k => k.enq = q
  | .sched _ _ => true

/-- What has ended by now lands (R346). -/
def State.landCharges (s : State) : State := if s.energy.owed.isEmpty && s.pins.isEmpty then s else s.finish s.ended

/-- Translations kept for an access of `who` that waits. -/
def State.pin (s : State) (who : Asker) (l : List (Nat × Nat)) : State :=
  let d := s.depthOf who
  { s with
    pins := s.pins.filter (fun x => !(x.who = who && x.depth = d && l.any fun e => e.1 = x.va)) ++
      l.map fun e => { who := who, va := e.1, pa := e.2, depth := d } }

/-- A charge to the gang's context in its region island. -/
def State.chargeGang (s : State) (u n : Nat) : State :=
  let g := s.gang u
  s.charge (s.asidOf g) (s.regOf g) n

/-- A fresh free value (notes/assumptions/7.md). -/
def State.fresh (s : State) : Word64 × State := (Config.freeValue s.free, { s with free := s.free + 1 })

/-! ### Scalar registers -/

/-- s[r]; s0 reads 0 (R27). -/
def Gang.sreg (g : Gang) (r : SReg) : Word64 := if r = 0 then 0 else Tbl.atD g.s r.toNat 0

/-- s[r] := v; a write to s0 is discarded (R27). -/
def Gang.setS (g : Gang) (r : SReg) (v : Word64) : Gang :=
  if r = 0 then g else { g with s := Tbl.put g.s r.toNat v }

/-! ### Segments (R28 to R31) -/

/-- Segment codes (R78): 0 G, 1 S, 2 D, 3 K, 4 H, 5 M. -/
def Gang.seg (g : Gang) (n : Nat) : Seg := Tbl.atD g.segs n { base := 0, lim := 0 }
def Seg.baseN (x : Seg) : Nat := x.base.toNat % 2 ^ 57
def Seg.limit (x : Seg) : Nat := x.lim.toNat % 2 ^ 57
def Seg.wc (x : Seg) : Bool := bit x.lim.toNat 59
def Seg.ros (x : Seg) : Bool := bit x.lim.toNat 58

/-- The segments of a gang at creation (R28, R92, R429). -/
def State.createSegs (s : State) (t : Nat) : Tbl Seg :=
  let tm := s.team t
  let gr := s.gridOfTeam t
  let c := s.ctx gr.asid
  let r := gr.rcd
  let k : Seg :=
    if r.kbase = 0 then { base := c.kseg.base, lim := c.kseg.lim ||| 0x0400000000000000 }
    else { base := BitVec.ofNat 64 r.kbase, lim := BitVec.ofNat 64 (2 ^ 58 + r.klen) }
  [(0, { c.gseg with lim := c.gseg.lim &&& 0xFBFFFFFFFFFFFFFF }),
   (1, { base := BitVec.ofNat 64 (tm.sbase * 128), lim := BitVec.ofNat 64 r.scratch }),
   (2, { base := 0, lim := BitVec.ofNat 64 (r.teams * r.scratch) }),
   (3, k),
   (4, { base := 0, lim := BitVec.ofNat 64 (r.rows * 1024) }),
   (5, { base := 0, lim := BitVec.ofNat 64 ((s.coresOf c.part).length * 2 ^ 22) })]

end Sys2Proof.Machine
end

