-- ==== Sys2Proof/Machine/Store.lean ====
section
/-!
DEFINITION. The core's store: register windows (R24), template pages (R219), scratchpads (R267, R268), frozen lines (R220), accumulator tiles
(R63, R66) and the comb map (R158, R282 to R285).
-/

namespace Sys2Proof.Machine

/-- First byte of a core's store in `State.store`. -/
def coreBase (core : Nat) : Nat := core * 2 ^ 20

/-! ### Registers -/

/-- The gang whose window holds page `p` of gang `g`: its own, or its template's while the page is shared (R219). -/
def State.pageOwner (s : State) : (fuel : Nat) → (g : Gang) → (p : Nat) → Gang
  | 0, g, _ => g
  | n + 1, g, p =>
    if g.shared.contains p then
      match g.tplOf with
      | some t => s.pageOwner n (s.gang t) p
      | none => g
    else g

/-- Where register vK of lane `l` of a gang lies (R24). -/
def State.regAddr (s : State) (g : Gang) (k l : Nat) : Nat :=
  let h := s.pageOwner 4 g (k / 16)
  coreBase (s.coreOf g) + (h.wbase + k) * 128 + 4 * l

/-- vK of lane `l`, and whether it is poisoned. -/
def State.readReg (s : State) (g : Gang) (k l : Nat) : Nat × Bool :=
  let a := s.regAddr g k l
  (natOf (Mem.read s.store a 4), poisoned s.storeBad a 4)

/-- Bytes written in the store as registers. -/
def State.putRegBytes (s : State) (a : Nat) (bs : List Byte) : State :=
  { s with store := Mem.write s.store a bs, storeBad := clearRegPoison s.storeBad a bs.length }

/-- Bytes written in the store as scratchpad. -/
def State.putStore (s : State) (a : Nat) (bs : List Byte) : State :=
  { s with store := Mem.write s.store a bs, storeBad := clearPoison s.storeBad a bs.length }

/-- The register copy fault of page `p`: the whole page is copied into the item's window, at 200 eu (R219). -/
def State.copyPage (s : State) (u p : Nat) : State :=
  let g := s.gang u
  if g.shared.contains p then
    let n := (s.recOf g).regs
    let h := s.pageOwner 4 g p
    let base := coreBase (s.coreOf g)
    let rows := (List.range 16).filter fun i => 16 * p + i < n
    let s := rows.foldl (fun (s : State) i =>
      let src := base + (h.wbase + 16 * p + i) * 128
      let dst := base + (g.wbase + 16 * p + i) * 128
      let bad := (s.storeBad.filter fun x => src ≤ x && x < src + 128).map fun x => x - src + dst
      { s with
        store := Mem.write s.store dst (Mem.read s.store src 128)
        storeBad := delPoison s.storeBad dst 128 ++ bad }) s
    let s := s.chargeGang u wCopyFault
    s.modGang u fun g => { g with shared := g.shared.filter (· ≠ p) }
  else s

/-- vK of lane `l` of gang `u` written (R24, R219). -/
def State.writeReg (s : State) (u k l v : Nat) : State :=
  let s := s.copyPage u (k / 16)
  let g := s.gang u
  s.putRegBytes (coreBase (s.coreOf g) + (g.wbase + k) * 128 + 4 * l) (bytesOf 4 v)

/-- `n` bytes of the gang's own register window from offset `w` (R31, R113). -/
def State.readWindow (s : State) (g : Gang) (w n : Nat) : List Byte × Bool :=
  let h := s.pageOwner 4 g (w / 2048)
  let a := coreBase (s.coreOf g) + h.wbase * 128 + w
  (Mem.read s.store a n, poisoned s.storeBad a n)

/-- Bytes written through the window, with the copy fault of a shared page (R113, R219). -/
def State.writeWindow (s : State) (u w : Nat) (bs : List Byte) : State :=
  let s := s.copyPage u (w / 2048)
  let g := s.gang u
  s.putRegBytes (coreBase (s.coreOf g) + g.wbase * 128 + w) bs

/-! ### Scratchpads and frozen lines -/

/-- Byte `o` of a team's scratchpad in `State.store` (R268). -/
def State.scratchAddr (s : State) (t o : Nat) : Nat := coreBase (s.team t).core + (s.team t).sbase * 128 + o

def State.readScratch (s : State) (t o n : Nat) : List Byte × Bool :=
  let a := s.scratchAddr t o
  (Mem.read s.store a n, poisoned s.storeBad a n)

/-- The templates a gang descends from, nearest first. -/
def State.ancestors (s : State) : (fuel : Nat) → (g : Gang) → List Nat
  | 0, _ => []
  | n + 1, g =>
    match g.tplOf with
    | some t => t :: s.ancestors n (s.gang t)
    | none => []

/-- Whether `n` bytes of a scratchpad touch a line frozen by a template the gang descends from (R220). -/
def State.frozenHit (s : State) (g : Gang) (t o n : Nat) : Bool :=
  let anc := s.ancestors 4 g
  (s.team t).frozen.any fun x => o / 128 ≤ x.1 && x.1 ≤ (o + n - 1) / 128 && n ≠ 0 && anc.contains x.2

/-- Whether the gang runs the prologue of a template (R220). -/
def State.inPrologue (s : State) (g : Gang) : Bool :=
  let d := (s.recOf g).tdepth
  g.ntpl < d && !g.isTpl && (g.tplOf.isNone || g.stamp.isSome)

/-- Lines of a scratchpad marked frozen when a prologue writes them (R220). -/
def State.markFrozen (s : State) (u t o n : Nat) : State :=
  if n ≠ 0 && s.inPrologue (s.gang u) then
    s.modTeam t fun x =>
      let lines := (List.range ((o + n - 1) / 128 - o / 128 + 1)).map (o / 128 + ·)
      { x with frozen := lines.foldl (fun f l => if f.contains (l, u) then f else (l, u) :: f) x.frozen }
  else s

/-- Bytes written to a scratchpad by gang `u`. -/
def State.writeScratch (s : State) (u t o : Nat) (bs : List Byte) : State :=
  (s.putStore (s.scratchAddr t o) bs).markFrozen u t o bs.length

/-- The team of a cluster whose scratchpad a D offset names, and the offset in it (R429). -/
def State.dTeam (s : State) (g : Gang) (o : Nat) : Option (Nat × Nat) :=
  let n := (s.recOf g).scratch
  if n = 0 then none
  else
    match ((s.clusterOfTeam g.team).teams.filter fun t => (s.team t).idx = o / n).head? with
    | some t => some (t, o % n)
    | none => none

/-! ### Accumulator tiles -/

def accAddr (core tile slot : Nat) : Nat := core * 2 ^ 19 + tile * 8192 + slot * 8

/-- Slot `i` of core tile `tile`. -/
def State.accSlot (s : State) (core tile i : Nat) : Nat := natOf (Mem.read s.acc (accAddr core tile i) 8)
def State.setAcc (s : State) (core tile i v : Nat) : State :=
  { s with acc := Mem.write s.acc (accAddr core tile i) (bytesOf 8 v) }

/-- The metadata word of a tile (R66). -/
def State.tileMeta (s : State) (core tile : Nat) : Nat := (Tbl.atD s.metas (core * 64 + tile) 0).toNat
def State.setMeta (s : State) (core tile v : Nat) : State :=
  { s with metas := if v = 0 then Tbl.del s.metas (core * 64 + tile) else Tbl.put s.metas (core * 64 + tile) (BitVec.ofNat 32 v) }

def metaMode (m : Nat) : Nat := m % 8
def metaUnit (m : Nat) : Int := sext 8 (m / 2 ^ 24)
/-- A metadata word from TMODE, FMTA, FMTB, BLK and UNIT (R66). -/
def mkMeta (mode fa fb blk : Nat) (unit : Int) : Nat :=
  mode + fa % 16 * 2 ^ 8 + fb % 16 * 2 ^ 12 + blk % 256 * 2 ^ 16 + wrapN 8 unit * 2 ^ 24

/-! ### The comb map -/

/-- The team of a context that was granted row `q` of a core's store, as scratchpad or window (R158). -/
def State.rowOwned (s : State) (asid core q : Nat) : Bool :=
  s.teams.any fun e =>
    let t := e.2
    let r := (s.grid t.grid).rcd
    t.core = core && t.image.isNone && (s.grid t.grid).asid = asid &&
      ((t.sbase ≤ q && q < t.sbase + r.scratch / 128) || t.wbases.any fun w => w ≤ q && q < w + r.regs)

def State.tileOwned (s : State) (asid core tile : Nat) : Bool :=
  s.teams.any fun e =>
    let t := e.2
    t.core = core && t.image.isNone && (s.grid t.grid).asid = asid &&
      t.tileBase ≤ tile && tile < t.tileBase + (s.grid t.grid).rcd.tiles

/-- The live gang of a context in slot `n` of a core. -/
def State.gangInSlot (s : State) (asid core n : Nat) : Option Nat :=
  (Tbl.keysOf s.gangs fun g =>
    !g.isTpl && g.slot = n && (s.team g.team).core = core && (s.team g.team).image.isNone && s.asidOf g = asid).head?

/-- Gang directory word (R284). No template holds a slot, so TMPL reads 0 (notes/assumptions/20.md). -/
def State.gangDir (s : State) (asid core n : Nat) : Nat :=
  match s.gangInSlot asid core n with
  | none => 0
  | some u =>
    let g := s.gang u
    2 ^ 63 + g.idx % 16 * 2 ^ 58 + (s.team g.team).idx % 8 * 2 ^ 55 + (s.clusterOfTeam g.team).idx % 2 ^ 32 * 2 ^ 21 +
      ((s.recOf g).regs - 1) % 256 * 2 ^ 13 + g.wbase % 2 ^ 13

/-- Team directory word (R285). -/
def State.teamDir (s : State) (asid core n : Nat) : Nat :=
  match s.gangInSlot asid core n with
  | none => 0
  | some u =>
    let g := s.gang u
    let r := s.recOf g
    r.tiles % 128 * 2 ^ 34 + (s.team g.team).tileBase % 64 * 2 ^ 28 + r.scratch / 128 % 2 ^ 14 * 2 ^ 14 +
      (s.team g.team).sbase % 2 ^ 13

/-- The core an M offset names, and the offset in its window (R282). -/
def State.mPlace (s : State) (asid o : Nat) : Option (Nat × Nat) :=
  match (s.coresOf (s.ctx asid).part)[o / 2 ^ 22]? with
  | some c => some (c, o % 2 ^ 22)
  | none => none

/-- `n` aligned bytes through the comb map, and whether one is poisoned (R158, R282 to R285). -/
def State.mRead (s : State) (asid o n : Nat) : List Byte × Bool :=
  let zero : List Byte × Bool := (bytesOf n 0, false)
  match s.mPlace asid o with
  | none => zero
  | some (core, w) =>
    let word := fun (v i : Nat) => ((bytesOf n (v / 2 ^ (8 * i)), false) : List Byte × Bool)
    if w < 0x100000 then
      if s.rowOwned asid core (w / 128) then
        (Mem.read s.store (coreBase core + w) n, poisoned s.storeBad (coreBase core + w) n)
      else zero
    else if w < 0x200000 then
      let tile := (w - 0x100000) / 0x4000
      let i := w % 0x4000
      if !s.tileOwned asid core tile then zero
      else if i < 8192 then (Mem.read s.acc (accAddr core tile 0 + i) n, false)
      else if i < 8200 then word (s.tileMeta core tile) (i - 8192)
      else zero
    else if w < 0x280000 then
      match s.gangInSlot asid core ((w - 0x200000) / 0x8000) with
      | none => zero
      | some u => if w % 0x8000 / 128 < (s.recOf (s.gang u)).regs then s.readWindow (s.gang u) (w % 0x8000) n else zero
    else if w < 0x280080 then word (s.gangDir asid core ((w - 0x280000) / 8)) (w % 8)
    else if w < 0x280100 then word (s.teamDir asid core ((w - 0x280080) / 8)) (w % 8)
    else zero

/-- Whether an M offset lies in a read-only place (R158, R282, R283). -/
def State.mReadOnly (s : State) (asid o : Nat) : Bool :=
  match s.mPlace asid o with
  | none => true
  | some (core, w) =>
    if w < 0x100000 then false
    else if w < 0x200000 then true
    else if w < 0x280000 then
      match s.gangInSlot asid core ((w - 0x200000) / 0x8000) with
      | none => false
      | some u => !(w % 0x8000 / 128 < (s.recOf (s.gang u)).regs)
    else true

/-- Bytes written through the comb map; bytes the context does not own are discarded (R158, R283). -/
def State.mWrite (s : State) (asid o : Nat) (bs : List Byte) : State :=
  match s.mPlace asid o with
  | none => s
  | some (core, w) =>
    if w < 0x100000 then
      if s.rowOwned asid core (w / 128) then s.putStore (coreBase core + w) bs else s
    else if 0x200000 ≤ w && w < 0x280000 then
      match s.gangInSlot asid core ((w - 0x200000) / 0x8000) with
      | none => s
      | some u => if w % 0x8000 / 128 < (s.recOf (s.gang u)).regs then s.writeWindow u (w % 0x8000) bs else s
    else s

/-- The scratchpad place an M offset names, if it names one: a team of the context and an offset (R220). -/
def State.mScratch (s : State) (asid o : Nat) : Option (Nat × Nat) :=
  match s.mPlace asid o with
  | none => none
  | some (core, w) =>
    if w < 0x100000 then
      let q := w / 128
      match (Tbl.keysOf s.teams fun t =>
          t.core = core && t.image.isNone && (s.grid t.grid).asid = asid &&
            t.sbase ≤ q && q < t.sbase + (s.grid t.grid).rcd.scratch / 128).head? with
      | some t => some (t, w - (s.team t).sbase * 128)
      | none => none
    else none

end Sys2Proof.Machine
end

