-- ==== Sys2Proof/Machine/Cache.lean ====
section
/-!
DEFINITION. Physical accesses through L1, the near slice, the home slice, the victim cache and row holds (R269 to R280), with the line events they
are charged (R162). `seen` lists the levels of lines already charged in a pass (R275): a line's home level is 4 × line, its L1 level
4 × line + 2, its near level 4 × line + 3; a held 64-byte block is 4 × block + 1.

Device memory has one authoritative copy, `mem`. L1 and near copies hold bytes of their own and may be older (R247); the home and victim
tables say only where a line is and whether it is dirty.
-/

namespace Sys2Proof.Machine

/-- `n` fresh free bytes. -/
def State.freshBytes (s : State) (n : Nat) : List Byte × State :=
  let (l, s) := (List.range (ceilDiv n 8)).foldl (fun (x : List Byte × State) _ =>
    let (v, s) := x.2.fresh
    (x.1 ++ bytesOf 8 v.toNat, s)) ([], s)
  (l.take n, s)

/-- The row-hold entry that holds the segment of `pa`, if any (R163). -/
def State.heldAt (s : State) (pa : Nat) : Option RowEntry :=
  s.rowTab.find? fun e => e.row = rowOf pa && bit e.opens.toNat (rowSegOf pa)

/-- The same for an ASID: a row hold serves the one that filled it (R404). -/
def State.heldFor (s : State) (asid pa : Nat) : Option RowEntry := (s.heldAt pa).filter fun e => e.asid = asid

/-- A row-hold entry changed. -/
def State.modRow (s : State) (row : Nat) (f : RowEntry → RowEntry) : State :=
  { s with rowTab := s.rowTab.map fun e => if e.row = row then f e else e }

/-- A segment of a held row written, and written back: every slot that names the row reports it (R167). -/
def State.dirtyRow (s : State) (row seg : Nat) : State :=
  s.modRow row fun e => { e with slots := e.slots.map fun x => { x with dirty := x.dirty ||| BitVec.ofNat 8 (2 ^ seg) } }
def RowEntry.clean (e : RowEntry) (seg : Nat) : RowEntry :=
  { e with slots := e.slots.map fun x => { x with dirty := x.dirty &&& ~~~ BitVec.ofNat 8 (2 ^ seg) } }
def State.cleanRow (s : State) (row seg : Nat) : State := s.modRow row fun e => e.clean seg

/-- A charge made once per `key` of a pass. -/
def State.chargeOnce (s : State) (seen : List Nat) (key asid island n : Nat) : State × List Nat :=
  if seen.contains key then (s, seen) else (s.charge asid island n, key :: seen)

/-! ### Keys (R291, R404) -/

/-- A line of device memory as a reader of another key slot than the writer's decrypts it (notes/assumptions/69.md). -/
def State.foreignLine (s : State) (key line : Nat) : List Byte :=
  (List.range 128).map fun i => Config.foreignByte (Tbl.atD s.keyed line 0) key line (Mem.read s.mem (128 * line) 128) i

/-- Whether a line was written last under a key slot other than a context's. -/
def State.foreign (s : State) (asid line : Nat) : Bool :=
  match Tbl.at? s.ctxs asid, Tbl.at? s.keyed line with
  | some c, some k => k ≠ c.key
  | _, _ => false

/-- Memory as a context reads it: lines of the device that were written under another key slot do not decrypt. -/
def State.memOf (s : State) (asid : Nat) : Mem :=
  ((s.keyed.map (·.1)).filter fun l => s.foreign asid l && isDev (128 * l)).foldl
    (fun m l => Mem.write m (128 * l) (s.foreignLine (s.ctx asid).key l)) s.mem

/-- The lines of some bytes of device memory hold data under the key slot of a context; what else was in the first and in the last of them under
another slot does not decrypt any more (R404). -/
def State.keyLines (s : State) (asid pa n : Nat) : State :=
  match Tbl.at? s.ctxs asid with
  | some c =>
    if isDev pa && n ≠ 0 then
      let lo := lineOf pa
      let hi := lineOf (pa + n - 1)
      { s with
        mem := ([lo, hi].filter fun l => s.foreign asid l && isDev (128 * l)).foldl (fun m l => Mem.write m (128 * l) (s.foreignLine c.key l)) s.mem
        keyed := Tbl.fill s.keyed lo (hi + 1 - lo) c.key }
    else s
  | none => s

/-- The authoritative bytes changed; a wholly written 8-byte granule loses its poison (R288). -/
def State.putMem (s : State) (pa : Nat) (bs : List Byte) : State :=
  { s with mem := Mem.write s.mem pa bs, memBad := clearPoison s.memBad pa bs.length }

/-- Bytes of memory written for a context. -/
def State.putFor (s : State) (asid pa : Nat) (bs : List Byte) : State := (s.keyLines asid pa bs.length).putMem pa bs

/-! ### Dropping copies -/

/-- The L1 copies of a core that satisfy `p` dropped. -/
def State.dropL1 (s : State) (core : Nat) (p : Nat → Bool) : State :=
  { s with l1 := Tbl.upd s.l1 core fun t => t.filter fun e => !p e.1 }

/-- The near copies of a region that satisfy `p` dropped. -/
def State.dropNear (s : State) (region : Nat) (p : Nat → Bool) : State :=
  { s with near := Tbl.upd s.near region fun t => t.filter fun e => !p e.1 }

/-! ### Evictions (R269, R272, R274) -/

def State.evictL1 (s : State) (core line : Nat) : State := s.dropL1 core (· = line)
def State.evictNear (s : State) (region line : Nat) : State := s.dropNear region (· = line)

/-- A line written to DRAM for `who`: one segment activate and two HBM4 transfers (R276, R345; notes/assumptions/21.md). -/
def State.payWriteBack (s : State) (who line : Nat) : State := s.charge who (stackIsland (stackOf (128 * line))) (wActivate + 2 * wHbm)

/-- A victim line goes: a dirty one is written to DRAM (R274). -/
def State.evictVictim (s : State) (who line : Nat) : State :=
  let s := match Tbl.at? s.victim line with
    | some d => if d.dirty then s.payWriteBack who line else s
    | none => s
  { s with victim := Tbl.del s.victim line }

/-- One of the lines `l`, by a free value: which line gives way in a full set is not visible but in timing (R269, R272, R274). -/
def State.pick (s : State) (l : List Nat) : Nat × State :=
  let (v, s) := s.fresh
  ((l[v.toNat % l.length]?).getD 0, s)

/-- The lines of a victim cache in the set of a line: 16,384 sets of 16 ways (R274). -/
def State.victimSet (s : State) (line : Nat) : List Nat :=
  (Tbl.keys s.victim).filter fun x =>
    stackOf (128 * x) = stackOf (128 * line) && Config.victimSet x % 16384 = Config.victimSet line % 16384

/-- Room for a line in its victim cache. No set is full while fewer than 16 lines are held at all. -/
def State.roomAtVictim (s : State) (who line : Nat) : State :=
  if s.victim.length < 16 then s
  else
    let l := s.victimSet line
    if l.length < 16 then s
    else
      let (x, s) := s.pick l
      s.evictVictim who x

/-- A home copy, clean or dirty, moves to the victim cache (R274). -/
def State.evictHome (s : State) (who line : Nat) : State :=
  match Tbl.at? s.home line with
  | some d =>
    let s := ({ s with home := Tbl.del s.home line } : State).roomAtVictim who line
    { s with victim := Tbl.put s.victim line d }
  | none => s

/-- Whether two lines lie in one set of a slice: 4,096 sets (R272). -/
def sameSet (a b : Nat) : Bool := Config.sliceSet a % 4096 = Config.sliceSet b % 4096

/-- The home copies, and the near copies, that the slice of region `h` holds in the set of a line. -/
def State.homeSet (s : State) (h line : Nat) : List Nat := (Tbl.keys s.home).filter fun x => homeOf (128 * x) = h && sameSet x line
def State.nearSet (s : State) (h line : Nat) : List Nat := (Tbl.keys (Tbl.atD s.near h [])).filter fun x => sameSet x line

/-- Room for a line among the 16 ways of its set in the slice of region `h`. No set is full while fewer than 16 lines are held at all. -/
def State.roomAtSlice (s : State) (who h line : Nat) : State :=
  if s.home.length + (Tbl.atD s.near h []).length < 16 then s
  else
    let hs := s.homeSet h line
    let ns := s.nearSet h line
    if hs.length + ns.length < 16 then s
    else
      let (x, s) := s.pick (hs ++ ns)
      if hs.contains x then s.evictHome who x else s.evictNear h x

/-- Room for a near copy: at most 4 ways of a set hold near copies (R272). -/
def State.roomForNear (s : State) (who h line : Nat) : State :=
  if (Tbl.atD s.near h []).length < 4 then s.roomAtSlice who h line
  else
    let ns := s.nearSet h line
    if ns.length < 4 then s.roomAtSlice who h line
    else
      let (x, s) := s.pick ns
      s.evictNear h x

/-- Lines a core's L1 gives up until it holds at most `n` (R269): in the rows taken by an admission, or for a line that comes. -/
def State.shrinkL1 (s : State) (core n : Nat) : State :=
  (List.range ((Tbl.atD s.l1 core []).length - n)).foldl (fun (s : State) _ =>
    let (x, s) := s.pick (Tbl.keys (Tbl.atD s.l1 core []))
    s.evictL1 core x) s

/-! ### The home slice and what lies below -/

/-- What the home slice and the victim cache hold of a line for another ASID serves nobody else: it goes, written back when dirty (R404). -/
def State.shedForeign (s : State) (asid line : Nat) : State :=
  let other := fun (x : Option SliceLine) => x.any fun d => d.asid ≠ asid
  let dirty := fun (x : Option SliceLine) => x.any fun d => d.asid ≠ asid && d.dirty
  let h := Tbl.at? s.home line
  let v := Tbl.at? s.victim line
  let s := if dirty h || dirty v then s.payWriteBack asid line else s
  { s with
    home := if other h then Tbl.del s.home line else s.home
    victim := if other v then Tbl.del s.victim line else s.victim }

/-- A segment that another ASID holds, written back when it is dirty: the access of `asid` passes it by to DRAM (R404; DEDUCED,
notes/assumptions/120.md). -/
def State.passHold (s : State) (asid pa : Nat) : State :=
  match s.heldAt pa with
  | some e =>
    if e.asid ≠ asid && bit e.dirty.toNat (rowSegOf pa) then
      let t := s.charge asid (stackIsland (stackOf pa)) (2 * wHbm)
      { t with rowTab := t.rowTab.map fun x => if x.row = e.row && x.asid ≠ asid then x.clean (rowSegOf pa) else x }
    else s
  | none => s

/-- The serialising point reached for the line of `pa`, with its charges: a held segment, a home copy, a line moved back from the victim cache, or a
fill from DRAM; a line in the hold of another ASID is served from DRAM and is cached nowhere (R163, R273, R274, R276, R404). -/
def State.touchHome (s : State) (asid pa : Nat) (write : Bool) (seen : List Nat) : State × List Nat :=
  let line := lineOf pa
  let (s, seen) := s.chargeOnce seen (4 * line) asid (homeOf pa) wHome
  match s.heldAt pa with
  | some e =>
    if e.asid = asid then
      let (s, seen) := s.chargeOnce seen (4 * (pa / 64) + 1) asid (stackIsland (stackOf pa)) wHbm
      (if write then s.dirtyRow e.row (rowSegOf pa) else s, seen)
    else (s.passHold asid pa).chargeOnce seen (2 ^ 101 + line) asid (stackIsland (stackOf pa)) (wActivate + 2 * wHbm)
  | none =>
    let s := s.shedForeign asid line
    match Tbl.at? s.home line with
    | some d => ({ s with home := Tbl.put s.home line { d with dirty := d.dirty || write } }, seen)
    | none =>
      match Tbl.at? s.victim line with
      | some d =>
        let (s, seen) := s.chargeOnce seen (2 ^ 100 + line) asid (stackIsland (stackOf pa)) wVictim
        let s := ({ s with victim := Tbl.del s.victim line } : State).roomAtSlice asid (homeOf pa) line
        ({ s with home := Tbl.put s.home line { d with dirty := d.dirty || write } }, seen)
      | none =>
        let (s, seen) := s.chargeOnce seen (2 ^ 101 + line) asid (stackIsland (stackOf pa)) (wActivate + 2 * wHbm)
        let s := s.roomAtSlice asid (homeOf pa) line
        ({ s with home := Tbl.put s.home line { dirty := write, asid := asid } }, seen)

/-! ### Copies in L1 and in near slices -/

def State.l1Copy (s : State) (core line : Nat) : Option LineCopy := Tbl.at? (Tbl.atD s.l1 core []) line
/-- The near copy of a line that serves an ASID: the one it filled (R404). -/
def State.nearCopy (s : State) (region asid line : Nat) : Option LineCopy :=
  match Tbl.at? (Tbl.atD s.near region []) line with
  | some c => if c.asid = asid then some c.copy else none
  | none => none
/-- A copy put into L1, which takes no line when no row is left to it (R269). -/
def State.putL1 (s : State) (core line : Nat) (c : LineCopy) : State :=
  { s with l1 := Tbl.put s.l1 core (Tbl.put (Tbl.atD s.l1 core []) line c) }
def State.putNear (s : State) (region line : Nat) (c : NearCopy) : State :=
  { s with near := Tbl.put s.near region (Tbl.put (Tbl.atD s.near region []) line c) }

/-- A line allocated in L1, where a line gives way when its rows are full (R269). -/
def State.fillL1 (s : State) (core line : Nat) (c : LineCopy) : State :=
  let cap := s.l1Lines core
  if cap = 0 then s
  else
    let s := if (s.l1Copy core line).isSome then s else s.shrinkL1 core (cap - 1)
    s.putL1 core line c

/-- A line allocated in a near slice. -/
def State.fillNear (s : State) (region asid line : Nat) (c : LineCopy) : State :=
  let s := (s.dropNear region (· = line)).roomForNear asid region line
  s.putNear region line { asid := asid, copy := c }

/-- A fresh copy of a line of memory, as a context reads it. -/
def State.copyLine (s : State) (asid line : Nat) : LineCopy :=
  { bytes := Mem.read (s.memOf asid) (128 * line) 128, bad := (s.memBad.filter fun x => x / 128 = line).map (· % 128) }

/-- `n` bytes of a copy from offset `o`, and whether one of them is poisoned. -/
def LineCopy.part (c : LineCopy) (o n : Nat) : List Byte × Bool := ((c.bytes.drop o).take n, poisoned c.bad o n)

/-- A copy with bytes stored into it. -/
def LineCopy.store (c : LineCopy) (o : Nat) (bs : List Byte) : LineCopy :=
  { bytes := c.bytes.take o ++ bs ++ c.bytes.drop (o + bs.length), bad := clearPoison c.bad o bs.length }

/-- `n` bytes of memory as a context reads them at the point that orders them, and whether one is poisoned. -/
def State.memBytes (s : State) (asid pa n : Nat) : List Byte × Bool := (Mem.read (s.memOf asid) pa n, poisoned s.memBad pa n)

/-- A load of `n` bytes at `pa` by `core` that may allocate (R269, R273). Lines of host memory are kept nowhere (R394). -/
def State.coreRead (s : State) (core asid pa n : Nat) (seen : List Nat) : State × List Nat × List Byte × Bool :=
  let line := lineOf pa
  let o := pa % 128
  let r := regionOfCore core
  let (s, seen) := s.chargeOnce seen (4 * line + 2) asid r wStore
  if !isDev pa then (s, seen, s.memBytes asid pa n)
  else
    match s.l1Copy core line with
    | some c => (s, seen, c.part o n)
    | none =>
      match (if homeOf pa = r then none else s.nearCopy r asid line) with
      | some c =>
        let (s, seen) := s.chargeOnce seen (4 * line + 3) asid r wNear
        (s.fillL1 core line c, seen, c.part o n)
      | none =>
        let c := s.copyLine asid line
        let (s, seen) := s.touchHome asid pa false seen
        let s := if homeOf pa = r then s else s.fillNear r asid line c
        (s.fillL1 core line c, seen, c.part o n)

/-- A load at the serialising point, past every copy (R154, R159, R171). -/
def State.homeRead (s : State) (asid pa n : Nat) (seen : List Nat) : State × List Nat × List Byte × Bool :=
  let got := s.memBytes asid pa n
  if !isDev pa then (s, seen, got)
  else
    let (s, seen) := s.touchHome asid pa false seen
    (s, seen, got)

/-- The copies of the writer's own core and region brought up to date (R269, R272, R247 item 2). -/
def State.updateCopies (s : State) (core asid pa : Nat) (bs : List Byte) : State :=
  let line := lineOf pa
  let r := regionOfCore core
  let s := match s.l1Copy core line with
    | some c => s.putL1 core line (c.store (pa % 128) bs)
    | none => s
  match s.nearCopy r asid line with
  | some c => s.putNear r line { asid := asid, copy := c.store (pa % 128) bs }
  | none => s

/-- An ordinary store: through L1 and the near slice to the home slice (R269, R273). -/
def State.coreWrite (s : State) (core asid pa : Nat) (bs : List Byte) (seen : List Nat) : State × List Nat :=
  let line := lineOf pa
  let r := regionOfCore core
  let (s, seen) := s.chargeOnce seen (4 * line + 2) asid r wStore
  if !isDev pa then (s.putMem pa bs, seen)
  else
    let (s, seen) := match s.nearCopy r asid line with
      | some _ => s.chargeOnce seen (4 * line + 3) asid r wNear
      | none => (s, seen)
    let (s, seen) := s.touchHome asid pa true seen
    ((s.updateCopies core asid pa bs).putFor asid pa bs, seen)

/-- An update at the serialising point (R159, R171). -/
def State.homeWrite (s : State) (core asid pa : Nat) (bs : List Byte) (seen : List Nat) : State × List Nat :=
  if !isDev pa then (s.putMem pa bs, seen)
  else
    let (s, seen) := s.touchHome asid pa true seen
    ((s.updateCopies core asid pa bs).putFor asid pa bs, seen)

/-- An STNT buffer's bytes drained: merged at the home slice when the line is there, else to memory without allocation (R155). The L1 access and
the home slice are charged either way (R162). -/
def State.ntWrite (s : State) (core asid pa : Nat) (bs : List Byte) (seen : List Nat) : State × List Nat :=
  if !isDev pa then s.coreWrite core asid pa bs seen
  else
    let line := lineOf pa
    let s := if (s.heldAt pa).isSome then s.passHold asid pa else s.shedForeign asid line
    if (Tbl.at? s.home line).isSome || (s.heldFor asid pa).isSome then s.coreWrite core asid pa bs seen
    else
      let st := stackIsland (stackOf pa)
      let (s, seen) := s.chargeOnce seen (4 * line + 2) asid (regionOfCore core) wStore
      let (s, seen) := s.chargeOnce seen (4 * line) asid (homeOf pa) wHome
      let (s, seen) :=
        match Tbl.at? s.victim line with
        | some d =>
          let (s, seen) := s.chargeOnce seen (2 ^ 100 + line) asid st wVictim
          ({ s with victim := Tbl.put s.victim line { d with dirty := true } }, seen)
        | none =>
          let (s, seen) := s.chargeOnce seen (2 ^ 101 + line) asid st wActivate
          s.chargeOnce seen (4 * (pa / 64) + 1) asid st wHbm
      ((s.updateCopies core asid pa bs).putFor asid pa bs, seen)

/-! ### Acquires, write-backs and gathers (R154, R174, R187, R270, R277) -/

/-- An acquire at a scope by a gang on `core`, over the lines that satisfy `p`: nothing lies between a gang and its point at team scope; L1
does from cluster scope outward, and the near slice from cohort scope outward (R244, R249, R270). -/
def State.acquire (s : State) (core scope : Nat) (p : Nat → Bool) : State :=
  if scope = 0 then s
  else
    let s := s.dropL1 core p
    if scope = 1 then s else s.dropNear (regionOfCore core) p

/-- Whether a home copy, or a victim line, is dirty. -/
def State.homeDirty (s : State) (line : Nat) : Bool := (Tbl.at? s.home line).any (·.dirty)
def State.victimDirty (s : State) (line : Nat) : Bool := (Tbl.at? s.victim line).any (·.dirty)

/-- Every dirty copy of a line written to DRAM and marked clean (R174), charged to `asid`. -/
def State.flushLine (s : State) (asid line : Nat) : State :=
  let pa := 128 * line
  let pay := fun (s : State) =>
    (s.charge asid (homeOf pa) wHome).charge asid (stackIsland (stackOf pa)) (2 * wHbm)
  match s.heldAt pa with
  | some e =>
    if bit e.dirty.toNat (rowSegOf pa) then
      (pay s).cleanRow e.row (rowSegOf pa)
    else s
  | none =>
    let clean := fun (d : SliceLine) => { d with dirty := false }
    if s.homeDirty line || s.victimDirty line then
      { pay s with home := Tbl.upd s.home line clean, victim := Tbl.upd s.victim line clean }
    else s

/-- A home slice, and the victim cache, give up a line (R163, R164). -/
def State.giveUp (s : State) (line : Nat) : State :=
  { s with home := Tbl.del s.home line, victim := Tbl.del s.victim line }

/-- The distinct members of a list by a key. -/
def distinctBy (f : Nat → Nat) (l : List Nat) : List Nat := dedup (l.map f)

/-- The charges of one LDPK or STPK packet of `n`-byte elements at device addresses `pas`: home-slice events for lines present there, and for
the others, stack by stack, sub-requests, victim events, activates and the packed bytes (R154, R162, R277). -/
def State.gatherCharge (s : State) (asid n : Nat) (pas : List Nat) (write : Bool) : State :=
  let s := (distinctBy lineOf pas).foldl (fun (s : State) line =>
    if (s.heldAt (128 * line)).isSome then s.passHold asid (128 * line) else s.shedForeign asid line) s
  let atHome := fun pa => (s.heldAt pa).isNone && (Tbl.at? s.home (lineOf pa)).isSome
  let lines := distinctBy lineOf (pas.filter atHome)
  let s1 := lines.foldl (fun (t : State) line =>
    let t := t.charge asid (homeOf (128 * line)) wHome
    if write then { t with home := Tbl.upd t.home line fun d => { d with dirty := true } } else t) s
  let rest := dedup (pas.filter fun pa => !atHome pa)
  (List.range 8).foldl (fun (t : State) st =>
    let mine := rest.filter fun pa => stackOf pa = st
    if mine = [] then t
    else
      let isl := stackIsland st
      let segs := distinctBy lineOf mine
      let t := t.charge asid isl (wGather * segs.length)
      let held := fun line => (s.heldFor asid (128 * line)).isSome
      let vic := segs.filter fun line => !held line && (Tbl.at? s.victim line).isSome
      let dram := segs.filter fun line => !held line && (Tbl.at? s.victim line).isNone
      let t := t.charge asid isl (wVictim * vic.length + wActivate * dram.length)
      let t := if write then
          let t := { t with victim := vic.foldl (fun v line => Tbl.upd v line fun d => { d with dirty := true }) t.victim }
          (segs.filter held).foldl (fun (t : State) line => t.dirtyRow (rowOf (128 * line)) (rowSegOf (128 * line))) t
        else t
      let packed := (mine.filter fun pa => !vic.contains (lineOf pa)).length * n
      t.charge asid isl (wHbm * ceilDiv packed 64)) s1

end Sys2Proof.Machine
end

