-- ==== Sys2Proof/Machine/Xlate.lean ====
section
/-!
DEFINITION. Translation: page-table entries, the walk, fault kinds and the two translation caches (R290 to R297, R386).
-/

namespace Sys2Proof.Machine

/-- What an access does, as far as a leaf's permissions tell accesses apart (R294). -/
inductive Acc where
  | load | store | atomic | redmc | fetch | rowpin | probe
  deriving DecidableEq, Repr

/-- Fields of a page-table entry (R292). -/
def pteV (e : Nat) : Bool := bit e 0
def pteLeaf (e : Nat) : Bool := bit e 1
def pteW (e : Nat) : Bool := bit e 2
def pteX (e : Nat) : Bool := bit e 4
def pteAddr (e : Nat) : Nat := e % 2 ^ 52 / 2 ^ 14 * 2 ^ 14
def ptePool (e : Nat) : Bool := bit e 58
def pteHost (e : Nat) : Bool := bit e 59
def pteKind (e : Nat) : Nat := bits e 62 60

/-- Whether an entry read at `level` is malformed: FKIND 6 (R293, R386). -/
def pteMalformed (level e : Nat) : Bool :=
  if !pteV e then
    let k := pteKind e
    (k ≠ 0 && k ≠ 4) || (k = 4 && ptePool e) || (ptePool e && level < 4)
  else if bit e 63 || bits e 57 52 ≠ 0 || bits e 13 5 ≠ 0 || bit e 3 || 4 ≤ pteKind e then true
  else if pteLeaf e then
    let size := if level = 2 then 36 else if level = 3 then 26 else 16
    let a := pteAddr e
    level = 1 || a % 2 ^ size ≠ 0 ||
      (pteKind e = 0 && 2 ^ 39 ≤ a) ||
      (pteKind e = 2 && !isHost a) ||
      (pteKind e = 3 && !(isPeer a && peerOf a < 2304)) ||
      (pteKind e = 1 && !(2 ^ 51 + 4095 * 2 ^ 39 ≤ a && a < 2 ^ 51 + 4096 * 2 ^ 39))
  else level = 4 || pteKind e ≠ 0 || pteHost e || ptePool e || pteX e || pteW e || 2 ^ 39 ≤ pteAddr e

/-- Where a walk ends: a leaf with its size exponent, an entry with V = 0, or a malformed entry. `addr` is the entry's address
and `level` its level. -/
inductive WalkEnd where
  | leaf (addr level e size : Nat)
  | unmapped (addr level e : Nat)
  | malformed
  deriving DecidableEq, Repr

/-- The walk from a table through the remaining levels, each with its index bits and leaf size (R290); the entry addresses read come with it. -/
def walkFrom (m : Mem) (va : Nat) : List (Nat × Nat × Nat) → (level table : Nat) → List Nat × WalkEnd
  | [], _, _ => ([], .malformed)
  | (hi, lo, size) :: rest, level, table =>
    let a := table + 8 * bits va hi lo
    let e := natOf (Mem.read m a 8)
    if pteMalformed level e then ([a], .malformed)
    else if !pteV e then ([a], .unmapped a level e)
    else if pteLeaf e then ([a], .leaf a level e size)
    else
      let (l, w) := walkFrom m va rest (level + 1) (pteAddr e)
      (a :: l, w)

/-- The four levels of R290. -/
def walkLevels : List (Nat × Nat × Nat) := [(56, 46, 46), (45, 36, 36), (35, 26, 26), (25, 16, 16)]

/-- The walk of a virtual address of a context from its level-1 table (R290), whose address is malformed at or above 2^39 (R293). -/
def State.walkOf (s : State) (asid va : Nat) : List Nat × WalkEnd :=
  if 2 ^ 39 ≤ (s.ctx asid).l1 then ([], .malformed) else walkFrom (s.memOf asid) va walkLevels 1 (s.ctx asid).l1

/-- The fault kind of an access to a leaf that is not malformed, none when the leaf accepts it (R293, R294). -/
def leafFault (e : Nat) (acc : Acc) : Option Nat :=
  let k := pteKind e
  let writes := match acc with
    | .store | .atomic | .redmc => true
    | _ => false
  if pteHost e then some 2
  else if acc = .probe then none
  else if acc = .rowpin then (if k = 0 then (if pteW e then none else some 3) else some 5)
  else if writes && !pteW e then some 3
  else if acc = .fetch && !pteX e then some 4
  else if (k = 1) != (acc = .redmc) then some 5
  else none

/-- A translation: the physical address with its entry and size, or a fault kind. -/
inductive Xl where
  | ok (pa e size : Nat)
  | bad (fkind : Nat)
  deriving DecidableEq, Repr

/-- The cause a fault kind raises (R293): 3 OWN, 2 XLAT. -/
def fkCause (fk : Nat) : Nat := if fk = 2 then 3 else 2

/-- A peer address that names this device is its own memory (R386). -/
def State.ownPeer (s : State) (pa : Nat) : Nat :=
  if isPeer pa && peerOf pa = s.swarm.self then (pa - 2 ^ 51) % 2 ^ 39 else pa

/-- The result of a walk for an access (R293). -/
def State.walkXl (s : State) (w : WalkEnd) (va : Nat) (acc : Acc) : Xl :=
  match w with
  | .malformed => .bad 6
  | .unmapped _ _ e => if pteKind e = 0 && ptePool e then .bad 1 else .bad 0
  | .leaf _ _ e size =>
    match leafFault e acc with
    | some k => .bad k
    | none => .ok (s.ownPeer (pteAddr e + va % 2 ^ size)) e size

/-- A TLB: a core's, or a region's walk-ahead TLB (R295). -/
inductive TlbOf where
  | core (n : Nat)
  | region (n : Nat)
  deriving DecidableEq, Repr

def State.tlbEntries (s : State) (t : TlbOf) : List TlbEntry :=
  match t with
  | .core n => Tbl.atD s.tlb n []
  | .region n => Tbl.atD s.walk n []

def State.setTlb (s : State) (t : TlbOf) (l : List TlbEntry) : State :=
  match t with
  | .core n => { s with tlb := Tbl.put s.tlb n l }
  | .region n => { s with walk := Tbl.put s.walk n l }

def TlbEntry.covers (e : TlbEntry) (asid va : Nat) : Bool := e.asid = asid && e.vbase = va / 2 ^ e.bits

/-- The lines of table entries a walk read, each charged once as a home-slice event (R296). -/
def State.chargeWalk (s : State) (asid : Nat) (entries : List Nat) : State :=
  (dedup (entries.map lineOf)).foldl (fun s line => s.charge asid (homeOf (128 * line)) wHome) s

/-- A virtual address translated for an access, through a TLB, filling it from a walk that maps without fault (R293 to R296). -/
def State.translate (s : State) (t : TlbOf) (asid va : Nat) (acc : Acc) : State × Xl :=
  if 2 ^ 57 ≤ va then (s, .bad 7)
  else
    match (s.tlbEntries t).find? fun e => e.covers asid va with
    | some e =>
      match leafFault e.pte.toNat acc with
      | some k => (s, .bad k)
      | none => (s, .ok (s.ownPeer (pteAddr e.pte.toNat + va % 2 ^ e.bits)) e.pte.toNat e.bits)
    | none =>
      let (reads, w) := s.walkOf asid va
      let s := s.chargeWalk asid reads
      let x := s.walkXl w va acc
      match x with
      | .ok _ e size =>
        let entry : TlbEntry := { asid := asid, vbase := va / 2 ^ size, bits := size, pte := BitVec.ofNat 64 e }
        let cap := match t with
          | .core _ => 4096
          | .region _ => 1024
        (s.setTlb t ((entry :: s.tlbEntries t).take cap), x)
      | .bad _ => (s, x)

/-- A translation for an access of `who`: one on its way keeps the page it has (R297). -/
def State.translateFor (s : State) (who : Asker) (t : TlbOf) (asid va : Nat) (acc : Acc) : State × Xl :=
  match s.pins.find? fun x => x.who = who && x.va = va && x.depth = s.depthOf who with
  | some x => (s, .ok x.pa 0 0)
  | none => s.translate t asid va acc

/-- A walk that reads entries at their home slices and leaves nothing cached. An address at or above 2^57 is one that walks to no entry: MAPF answers 1
there, as R238 names no status for it (DESIGN CHOICE, notes/assumptions/121.md). -/
def State.peek (s : State) (asid va : Nat) : WalkEnd :=
  if 2 ^ 57 ≤ va then .malformed else (s.walkOf asid va).2

/-- The charge of such a walk (R296). -/
def State.chargePeek (s : State) (asid va : Nat) : State := if 2 ^ 57 ≤ va then s else s.chargeWalk asid (s.walkOf asid va).1

/-- A walk that the device makes for itself: overhead of the context's partition (R347). -/
def State.overWalk (s : State) (asid va : Nat) : State :=
  if 2 ^ 57 ≤ va then s
  else (dedup ((s.walkOf asid va).1.map lineOf)).foldl (fun (s : State) line =>
    s.chargeOver (some (s.ctx asid).part) (homeOf (128 * line)) wHome) s

/-- A line that the device reads or writes for itself at its serialising point: the events of the line where it lies, as overhead of the context's
partition (R345, R347). Nothing is allocated. -/
def State.overLine (s : State) (asid pa : Nat) : State :=
  let p := some (s.ctx asid).part
  let line := lineOf pa
  let stack := stackIsland (stackOf pa)
  if !isDev pa then s
  else
    let s := s.chargeOver p (homeOf pa) wHome
    if (s.heldAt pa).isSome then s.chargeOver p stack wHbm
    else if (Tbl.at? s.home line).isSome then s
    else if (Tbl.at? s.victim line).isSome then s.chargeOver p stack wVictim
    else s.chargeOver p stack (wActivate + 2 * wHbm)

/-- The charges of the walks of some pages. -/
def State.chargePeeks (s : State) (asid : Nat) (vas : List Nat) : State := vas.foldl (fun (s : State) va => s.chargePeek asid va) s

/-- Where a virtual address lies now, for the ranges an acquire covers; none where nothing maps it. -/
def State.peekPa (s : State) (asid va : Nat) : Option Nat :=
  match s.peek asid va with
  | .leaf _ _ e size => some (s.ownPeer (pteAddr e + va % 2 ^ size))
  | _ => none

/-- The pages of 64 KiB that a range touches. -/
def pagesOf (base len : Nat) : List Nat :=
  if len = 0 then [] else (List.range ((base + len - 1) / 65536 - base / 65536 + 1)).map fun i => (base / 65536 + i) * 65536

/-- Whether a physical line lies in one of the virtual ranges of a context. -/
def State.lineIn (s : State) (asid : Nat) (ranges : List (Nat × Nat)) (line : Nat) : Bool :=
  ranges.any fun r => (pagesOf r.1 r.2).any fun p =>
    match s.peekPa asid p with
    | none => false
    | some pa =>
      let lo := if p < r.1 then r.1 - p else 0
      let hi := if r.1 + r.2 < p + 65536 then r.1 + r.2 - p else 65536
      (pa + lo) / 128 ≤ line && 128 * line < pa + hi

/-- Translations dropped from every TLB of a partition (R241). -/
def State.dropTlb (s : State) (part : Nat) (p : TlbEntry → Bool) : State :=
  let cores := s.coresOf part
  let regs := s.regionsOf part
  { s with
    tlb := Tbl.each s.tlb fun c l => if cores.contains c then l.filter fun e => !p e else l
    walk := Tbl.each s.walk fun r l => if regs.contains r then l.filter fun e => !p e else l }

/-- A page-table entry of a context written in one step at its home slice. -/
def State.writePte (s : State) (asid addr e : Nat) : State := s.putFor asid addr (bytesOf 8 e)

/-- The pool's first page popped (R298). -/
def State.popPool (s : State) (part : Nat) : Option (Nat × State) :=
  match (s.part part).pool with
  | [] => none
  | p :: rest => some (p, s.modPart part fun x => { x with pool := rest })

/-- A page returned to the pool (R299). -/
def State.pushPool (s : State) (part page : Nat) : State := s.modPart part fun x => { x with pool := x.pool ++ [page] }

/-- A 64 KiB page filled with zeros for a context at device scope: no copy of it is left (R298). -/
def State.zeroPage (s : State) (asid page : Nat) : State :=
  let inPage := fun line => page / 128 ≤ line && line < page / 128 + 512
  { s.keyLines asid page 65536 with
    mem := Mem.zero s.mem page 65536
    memBad := delPoison s.memBad page 65536
    home := s.home.filter fun e => !inPage e.1
    victim := s.victim.filter fun e => !inPage e.1
    l1 := Tbl.each s.l1 fun _ t => t.filter fun e => !inPage e.1
    near := Tbl.each s.near fun _ t => t.filter fun e => !inPage e.1 }

/-- What MAPF does to the page of a virtual address, with its status (R238, R298). -/
def State.mapFirst (s : State) (asid va : Nat) : Nat × State :=
  match s.peek asid va with
  | .leaf _ _ _ _ => (3, s)
  | .malformed => (1, s)
  | .unmapped addr level e =>
    if level = 4 && pteKind e = 0 && ptePool e then
      match s.popPool (s.ctx asid).part with
      | none => (2, s)
      | some (page, s) =>
        let s := s.zeroPage asid page
        (0, s.writePte asid addr (page + 2 ^ 58 + 7))
    else (1, s)

end Sys2Proof.Machine
end

