-- ==== Sys2Proof/Machine/Access.lean ====
section
/-!
DEFINITION. Write-combining buffers (R155, R156, R260), fabric requests (R385 to R389), and loads and stores at a translated address.
-/

namespace Sys2Proof.Machine

/-! ### Fabric requests -/

/-- LEN: the data flits of a packet (R385). -/
def packetLen (x : Packet) : Nat := ceilDiv x.data.length 64

/-- The 64 bytes of a packet's header (R385). -/
def packetHeader (x : Packet) : List Byte :=
  bytesOf 1 x.ptype.toNat ++ bytesOf 2 (x.part.toNat + x.cw.toNat * 2 ^ 12) ++ bytesOf 2 x.src.toNat ++ bytesOf 2 x.dst.toNat ++
    bytesOf 1 (packetLen x) ++ bytesOf 8 (x.addr % 2 ^ 39) ++ bytesOf 8 x.value.toNat ++ bytesOf 8 x.cval.toNat ++ bytesOf 4 x.key.toNat ++
    bytesOf 1 x.op.toNat ++ bytesOf 3 0 ++ bytesOf 16 x.mask.toNat ++ bytesOf 8 0

/-- The flits of a packet as they travel: the header, then the data, filled up with zeros (R385). -/
def packetWire (x : Packet) : List Byte := packetHeader x ++ x.data ++ List.replicate (64 * packetLen x - x.data.length) 0

/-- A packet read from its header and data; poison travels beside them (notes/assumptions/40.md). -/
def packetOfWire (b : List Byte) (bad : BitVec 128) : Packet where
  ptype := BitVec.ofNat 8 (byteAt b 0)
  part := BitVec.ofNat 12 (numAt b 1 2)
  cw := BitVec.ofNat 4 (numAt b 1 2 / 2 ^ 12)
  src := BitVec.ofNat 12 (numAt b 3 2)
  dst := BitVec.ofNat 12 (numAt b 5 2)
  addr := numAt b 8 8 % 2 ^ 39
  value := BitVec.ofNat 64 (numAt b 16 8)
  cval := BitVec.ofNat 64 (numAt b 24 8)
  key := BitVec.ofNat 32 (numAt b 32 4)
  op := BitVec.ofNat 8 (byteAt b 36)
  mask := BitVec.ofNat 128 (numAt b 40 16)
  data := (b.drop 64).take (64 * byteAt b 7)
  bad := bad

/-- Whether an asker is the scheduler. -/
def Asker.isSched (w : Asker) : Bool :=
  match w with
  | .sched _ _ => true
  | _ => false

/-- A packet of a context leaves by the fabric: checked at egress (R387), charged per flit (R389), as overhead of the partition where the scheduler sends
it (R347). A packet without an FPID, or to a device that is no member of its fabric partition, is dropped and counted; with no port up it goes nowhere
(R384). -/
def State.sendPacket (s : State) (asid region : Nat) (x : Packet) (bySched : Bool := false) : State :=
  let p := s.part (s.ctx asid).part
  if p.fpid = 0 || !p.fmembers.contains x.dst.toNat then { s with violations := s.violations + 1 }
  else if s.ports.isEmpty then s
  else
    let n := wFlit * ((packetWire x).length / 64)
    let s := if bySched then s.chargeOver (some (s.ctx asid).part) (portIsland region) n else s.charge asid (portIsland region) n
    { s with outbox := s.outbox ++
        [.packet { x with part := p.fpid, cw := BitVec.ofNat 4 (s.ctx asid).cw, src := BitVec.ofNat 12 s.swarm.self }] }

/-- The bits of a line's mask that stand for `n` bytes from an address (R385). -/
def lineMask (pa n : Nat) : BitVec 128 := BitVec.ofNat 128 ((2 ^ n - 1) * 2 ^ (pa % 128))

/-- Whether a mask of poisoned bytes of a line names one of `n` bytes from an address. -/
def badAt (bad : BitVec 128) (pa n : Nat) : Bool := bad &&& lineMask pa n ≠ 0

/-- The poisoned bytes of a line among `n` from an address, as a packet names them (R288; notes/assumptions/40.md). -/
def State.badMask (s : State) (pa n : Nat) : BitVec 128 :=
  BitVec.ofNat 128 (maskOf ((List.range 128).filter fun i => pa % 128 ≤ i && i < pa % 128 + n && s.memBad.contains (pa / 128 * 128 + i)))

/-- A request sent, and recorded until its answer or its time-out (R388). The mask of a read names the bytes it asks
for (notes/assumptions/40.md). -/
def State.request (s : State) (who : Asker) (team asid region : Nat) (x : Packet) (pa n : Nat) : State :=
  let tag := s.uid
  let s := s.sendPacket asid region { x with key := BitVec.ofNat 32 tag, mask := if x.ptype = 0 then lineMask pa n else x.mask } who.isSched
  { s with
    uid := s.uid + 1
    requests := s.requests ++
      [{ tag := tag, ptype := x.ptype, who := who, team := team, asid := asid, addr := pa, n := n, key := tag, sent := s.now,
         depth := s.depthOf who, answer := none }] }

/-- A packet to the device that owns a peer address (R386). -/
def peerPacket (ptype pa : Nat) : Packet :=
  { ptype := BitVec.ofNat 8 ptype, part := 0, cw := 0, src := 0, dst := BitVec.ofNat 12 (peerOf pa),
    addr := (pa - 2 ^ 51) % 2 ^ 39, value := 0, cval := 0, key := 0, op := 0, mask := 0, data := [], bad := 0 }

/-- The request of `who` for `n` bytes at an address, answered or not, made where its gang is now. Posted writes and contributions are not looked up. -/
def State.findReq (s : State) (who : Asker) (pa n : Nat) : Option Request :=
  s.requests.find? fun r => r.who = who && r.addr = pa && r.n = n && (r.ptype = 0 || r.ptype = 3) && r.depth = s.depthOf who

/-- A request forgotten: its answer has been used, or its asker is gone. -/
def State.dropReq (s : State) (tag : Nat) : State := { s with requests := s.requests.filter fun r => r.tag ≠ tag }

/-- Whether `who` has a write or a contribution not yet acknowledged (R259, R388). -/
def State.writesOut (s : State) (p : Asker → Bool) : Bool :=
  s.requests.any fun r => p r.who && (r.ptype = 1 || r.ptype = 5)

/-- The outcome of a read that may leave the device: still waiting, or the bytes and whether one is poisoned. -/
inductive Got where
  | wait (s : State)
  | bytes (s : State) (seen : List Nat) (bs : List Byte) (bad : Bool)

/-- A read of a peer's memory: the request is sent once and its answer is used once. -/
def State.peerRead (s : State) (who : Asker) (team asid region pa n : Nat) (seen : List Nat) : Got :=
  match s.findReq who pa n with
  | some r =>
    match r.answer with
    | some (bs, bad) => .bytes (s.dropReq r.tag) seen (bs.take n) (badAt bad pa n)
    | none => .wait s
  | none => .wait (s.request who team asid region (peerPacket 0 pa) pa n)

/-- A packet that carries bytes of one line from an address: inline when they are 8 or less, else as a whole line (R385). -/
def packetCarry (x : Packet) (pa : Nat) (bs : List Byte) : Packet :=
  if bs.length ≤ 8 then { x with value := BitVec.ofNat 64 (natOf bs), mask := lineMask pa bs.length }
  else
    { x with
      data := bytesOf (pa % 128) 0 ++ bs ++ bytesOf (128 - pa % 128 - bs.length) 0
      mask := lineMask pa bs.length }

/-- The bytes a packet carries from an address on. -/
def packetCarried (x : Packet) (pa n : Nat) : List Byte :=
  if x.data.isEmpty then bytesOf n x.value.toNat else (x.data.drop (pa % 128)).take n

/-- A posted write of at most 128 bytes of one line to a peer's memory. -/
def State.peerWrite (s : State) (who : Asker) (team asid region pa : Nat) (bs : List Byte) : State :=
  s.request who team asid region (packetCarry (peerPacket 1 pa) pa bs) pa bs.length

/-- A write that leaves a line of a peer's memory poisoned (R183, R288). -/
def State.peerPoison (s : State) (who : Asker) (team asid region pa n : Nat) : State :=
  s.request who team asid region { packetCarry (peerPacket 1 pa) pa (bytesOf n 0) with bad := lineMask pa n } pa n

/-! ### Reads and writes at physical addresses -/

/-- The L1 access of a line that L1 does not keep: of host memory, or of a peer's (R162, R269, R394). -/
def State.chargeL1 (s : State) (seen : List Nat) (core asid pa : Nat) : State × List Nat :=
  s.chargeOnce seen (4 * lineOf pa + 2) asid (regionOfCore core) wStore

/-- A load at a physical address: past the copies when `home` is set. -/
def State.readPa (s : State) (who : Asker) (team core asid pa n : Nat) (home : Bool) (seen : List Nat) : Got :=
  if isPeer pa then
    match s.peerRead who team asid (regionOfCore core) pa n seen with
    | .wait s => .wait s
    | .bytes s seen bs bad =>
      let (s, seen) := if home then (s, seen) else s.chargeL1 seen core asid pa
      .bytes s seen bs bad
  else
    let (s, seen, bs, bad) := if home then s.homeRead asid pa n seen else s.coreRead core asid pa n seen
    .bytes s seen bs bad

/-- A store at a physical address. -/
def State.writePa (s : State) (who : Asker) (team core asid pa : Nat) (bs : List Byte) (seen : List Nat) : State × List Nat :=
  if isPeer pa then
    let (s, seen) := s.chargeL1 seen core asid pa
    (s.peerWrite who team asid (regionOfCore core) pa bs, seen)
  else s.coreWrite core asid pa bs seen

/-! ### Write combining -/

/-- The 8-byte granules of a buffer in rising order, each as a run of bytes when whole, else byte by byte. -/
def WcBuf.pieces (b : WcBuf) : List (Nat × List Byte) :=
  (List.range 16).flatMap fun i =>
    let have_ := (List.range 8).filter fun j => (Tbl.at? b.bytes (8 * i + j)).isSome
    if have_.length = 8 then [(8 * i, (List.range 8).map fun j => Tbl.atD b.bytes (8 * i + j) 0)]
    else have_.map fun j => (8 * i + j, [Tbl.atD b.bytes (8 * i + j) 0])

/-- The packet of a buffer of a peer's line: 8 or less bytes that lie together go inline, others as a line write under their byte mask (R385). -/
def WcBuf.packet (b : WcBuf) : Packet :=
  let at_ := (List.range 128).filter fun i => (Tbl.at? b.bytes i).isSome
  let o := (at_.head?).getD 0
  let x := peerPacket 1 (128 * b.line + o)
  if at_.length ≤ 8 && at_ = (List.range at_.length).map (o + ·) then packetCarry x (128 * b.line + o) (at_.map fun i => Tbl.atD b.bytes i 0)
  else { x with data := (List.range 128).map fun i => Tbl.atD b.bytes i 0, mask := BitVec.ofNat 128 (maskOf at_) }

/-- Whether a read of `w` must see a write of `who`: both are of one scalar stream, or of one gang's cells. -/
def Asker.sees (w who : Asker) : Bool :=
  match w, who with
  | .scalar u, .scalar v | .lane u _, .lane v _ => u = v
  | _, _ => false

/-- A buffer of a peer's line drained: one write (R155, R385), of the bytes from the first written to the last. The owner's reads of the line that wait
are made anew, after it (R114, R152). -/
def State.drainToPeer (s : State) (who : Asker) (team core asid : Nat) (b : WcBuf) : State :=
  let at_ := (List.range 128).filter fun i => (Tbl.at? b.bytes i).isSome
  let o := (at_.head?).getD 0
  let s := (s.chargeL1 [] core asid (128 * b.line)).1
  let s : State := { s with requests := s.requests.filter fun r => !(r.ptype = 0 && r.who.sees who && lineOf r.addr = b.line) }
  s.request who team asid (regionOfCore core) b.packet (128 * b.line + o) ((at_.getLast?).getD 0 + 1 - o)

/-- A buffer drained: its written bytes are merged at the home slice, or leave as an STNT's do (R155). -/
def State.drainBuf (s : State) (who : Asker) (team core asid : Nat) (b : WcBuf) : State :=
  if isPeer (128 * b.line) then s.drainToPeer who team core asid b
  else
    (b.pieces.foldl (fun (x : State × List Nat) p =>
      let pa := 128 * b.line + p.1
      if b.nt then x.1.ntWrite core asid pa p.2 x.2 else x.1.writePa who team core asid pa p.2 x.2) (s, [])).1

/-- Bytes entered in a buffer from offset `o`. -/
def putBytes (t : Tbl Byte) (o : Nat) (bs : List Byte) : Tbl Byte :=
  ((List.range bs.length).zip bs).foldl (fun t e => Tbl.put t (o + e.1) e.2) t

/-- A store entered in a list of at most `cap` buffers: the list, and the buffers that drain (R155). DESIGN CHOICE (notes/assumptions/105.md): a buffer
that holds stores of STNT and of a WC segment drains as the latter. -/
def wcPut (bufs : List WcBuf) (cap line o : Nat) (nt : Bool) (bs : List Byte) : List WcBuf × List WcBuf :=
  let add := fun (t : Tbl Byte) => putBytes t o bs
  match bufs.find? fun b => b.line = line with
  | some b =>
    let b' := { b with bytes := add b.bytes, nt := b.nt && nt }
    if b'.bytes.length = 128 then (bufs.filter (fun x => x.line ≠ line), [b'])
    else (bufs.map fun x => if x.line = line then b' else x, [])
  | none =>
    let new : WcBuf := { line := line, nt := nt, bytes := add [] }
    if bufs.length < cap then (bufs ++ [new], [])
    else (bufs.drop 1 ++ [new], bufs.take 1)

/-- The bytes of a load with the agent's own buffered stores laid over them (R155). -/
def wcOverlay (bufs : List WcBuf) (pa : Nat) (bs : List Byte) : List Byte :=
  match bufs.find? fun b => b.line = lineOf pa with
  | some b => ((List.range bs.length).zip bs).map fun e => (Tbl.at? b.bytes (pa % 128 + e.1)).getD e.2
  | none => bs

/-- Whether an agent's own buffered stores cover the 8-byte granule of an address (R114, R288). -/
def wcCovers (bufs : List WcBuf) (pa : Nat) : Bool :=
  bufs.any fun b => b.line = lineOf pa && (List.range 8).all fun i => (Tbl.at? b.bytes (pa % 128 / 8 * 8 + i)).isSome

/-- What a load of at most 8 aligned bytes returns over the agent's own buffered stores, and whether it is poisoned: a granule that they write whole is
not (R155, R288). -/
def wcLoad (bufs : List WcBuf) (pa : Nat) (bs : List Byte) (bad : Bool) : List Byte × Bool :=
  (wcOverlay bufs pa bs, bad && !wcCovers bufs pa)

/-- The scalar stream's buffers drained (R155). -/
def State.drainScalar (s : State) (u : Nat) : State :=
  let g := s.gang u
  let s := s.modGang u fun g => { g with wcs := [] }
  g.wcs.foldl (fun s b => s.drainBuf (.scalar u) g.team (s.coreOf g) (s.asidOf g) b) s

/-- A cell's buffers drained. -/
def State.drainCell (s : State) (u c : Nat) : State :=
  let g := s.gang u
  let s := s.modGang u fun g => { g with wcl := Tbl.put g.wcl c [] }
  (Tbl.atD g.wcl c []).foldl (fun s b => s.drainBuf (.lane u (4 * c)) g.team (s.coreOf g) (s.asidOf g) b) s

/-- A cell's buffer of one line drained, so that the cell's accesses to the line keep their order (R152, R245). -/
def State.drainLine (s : State) (u c line : Nat) : State :=
  let g := s.gang u
  let mine := Tbl.atD g.wcl c []
  let s := s.modGang u fun g => { g with wcl := Tbl.put g.wcl c (mine.filter fun b => b.line ≠ line) }
  (mine.filter fun b => b.line = line).foldl (fun s b => s.drainBuf (.lane u (4 * c)) g.team (s.coreOf g) (s.asidOf g) b) s

def State.drainCells (s : State) (u : Nat) : State := (List.range 8).foldl (fun s c => s.drainCell u c) s

/-- Every buffer of a gang drained (R155, R262). -/
def State.drainGang (s : State) (u : Nat) : State := (s.drainScalar u).drainCells u

/-- Whether a gang still has stores on the way to another device. -/
def State.gangWritesOut (s : State) (u : Nat) : Bool :=
  s.writesOut fun w => match w with
    | .scalar v => v = u
    | .lane v _ => v = u
    | _ => false

/-- Whether stores or contributions of a context's gangs are still on the way: outstanding writes are counted per ASID (R169, R252). -/
def State.ctxWritesOut (s : State) (asid : Nat) : Bool :=
  s.requests.any fun r => r.asid = asid && (r.ptype = 1 || r.ptype = 5) && match r.who with
    | .scalar _ | .lane _ _ => true
    | _ => false

/-- Whether the switch has yet to accept a contribution of a gang (R257). -/
def State.contributesOut (s : State) (u : Nat) : Bool :=
  s.requests.any fun r => r.ptype = 5 && match r.who with
    | .scalar v | .lane v _ => v = u
    | _ => false

/-- A store by the scalar stream of gang `u` at a translated G address. -/
def State.scalarStore (s : State) (u : Nat) (wc : Bool) (pa : Nat) (bs : List Byte) : State :=
  let g := s.gang u
  if wc then
    let (bufs, out) := wcPut g.wcs 2 (lineOf pa) (pa % 128) false bs
    let s := s.modGang u fun g => { g with wcs := bufs }
    out.foldl (fun s b => s.drainBuf (.scalar u) g.team (s.coreOf g) (s.asidOf g) b) s
  else
    -- An earlier buffered store to the line drains first, so that the stream's stores keep their order (R245).
    let (mine, rest) := (g.wcs.filter fun b => b.line = lineOf pa, g.wcs.filter fun b => b.line ≠ lineOf pa)
    let s := s.modGang u fun g => { g with wcs := rest }
    let s := mine.foldl (fun s b => s.drainBuf (.scalar u) g.team (s.coreOf g) (s.asidOf g) b) s
    (s.writePa (.scalar u) g.team (s.coreOf g) (s.asidOf g) pa bs []).1

/-- A store by lane `l` of gang `u` at a translated G address. -/
def State.laneStore (s : State) (u l : Nat) (wc nt : Bool) (pa : Nat) (bs : List Byte) (seen : List Nat) : State × List Nat :=
  let g := s.gang u
  let c := l / 4
  if wc then
    let (bufs, out) := wcPut (Tbl.atD g.wcl c []) 4 (lineOf pa) (pa % 128) nt bs
    let s := s.modGang u fun g => { g with wcl := Tbl.put g.wcl c bufs }
    (out.foldl (fun s b => s.drainBuf (.lane u (4 * c)) g.team (s.coreOf g) (s.asidOf g) b) s, seen)
  else
    (s.drainLine u c (lineOf pa)).writePa (.lane u l) g.team (s.coreOf g) (s.asidOf g) pa bs seen

end Sys2Proof.Machine
end

