-- ==== Sys2Proof/Machine/Trace.lean ====
section
/-!
DEFINITION. The waggle trace (R412 to R419): packets, the shares of a core's buffer, LOSS and SYNC. Draining is in Machine/TraceEvents.lean.
-/

namespace Sys2Proof.Machine

/-- The cycle count of a region's island, as %tstamp reads it (R83). -/
def State.cyclesOf (s : State) (r : Nat) : Nat := (s.region r).cycles / 100

def TraceBuf.blank : TraceBuf := { bytes := [], lens := [], begun := false, lost := 0, lastAt := 0, flush := false }

def State.traceBuf (s : State) (core asid : Nat) : TraceBuf :=
  Tbl.atD (Tbl.atD s.trace core []) asid TraceBuf.blank
def State.setTraceBuf (s : State) (core asid : Nat) (b : TraceBuf) : State :=
  { s with trace := Tbl.put s.trace core (Tbl.put (Tbl.atD s.trace core []) asid b) }

/-- The contexts with a team holding rows of a core, from its placement on (R415). -/
def State.ctxsOnCore (s : State) (core : Nat) : List Nat :=
  dedup ((s.teams.filter fun e => e.2.core = core && s.holdsRoom e.2).map fun e => (s.grid e.2.grid).asid)

/-- A context's share of the 16 KiB buffer of a core (R415). -/
def State.traceShare (s : State) (core : Nat) : Nat :=
  let m := ((s.ctxsOnCore core).filter fun a => (s.ctx a).tren).length
  16384 / (if m = 0 then 1 else m)

/-- A packet entered in the buffer, or none when the share cannot hold it. -/
def State.traceRoom (s : State) (core asid : Nat) (bs : List Byte) : Option State :=
  let b := s.traceBuf core asid
  if b.bytes.length + bs.length ≤ s.traceShare core then
    some (s.setTraceBuf core asid
      { b with bytes := b.bytes ++ bs, lens := b.lens ++ [bs.length], lastAt := (s.region (regionOfCore core)).cycles })
  else none

/-- A packet dropped and counted (R415). -/
def State.traceDrop (s : State) (core asid : Nat) : State :=
  let b := s.traceBuf core asid
  let s := s.setTraceBuf core asid { b with lost := b.lost + 1 }
  s.modCtx asid fun c => { c with trlost := if c.trlost + 1 < 2 ^ 32 then c.trlost + 1 else 2 ^ 32 - 1 }

/-- The live gangs of a context that hold a slot of a core. -/
def State.gangsOnCore (s : State) (core asid : Nat) : List Nat :=
  Tbl.keysOf s.gangs fun g => !g.isTpl && (s.team g.team).core = core && s.asidOf g = asid && (s.team g.team).image.isNone

/-- A gang of the context on the core has retired: the last one, a template among them (R222), leaves its packets to be drained (R426). -/
def State.lastTraced (s : State) (core asid : Nat) : State :=
  let b := s.traceBuf core asid
  let left := Tbl.keysOf s.gangs fun g => (s.team g.team).core = core && s.asidOf g = asid && (s.team g.team).image.isNone
  if b.bytes.isEmpty || !left.isEmpty then s else s.setTraceBuf core asid { b with flush := true }

/-- The LOSS that earlier drops call for, entered when the share can hold it, after which every traced gang of the context on the core owes a SYNC;
none when it cannot be held yet (R415). -/
def State.traceLoss (s : State) (core asid : Nat) : Option State :=
  let b := s.traceBuf core asid
  if b.lost = 0 then some s
  else
    let n := if b.lost < 65535 then b.lost else 65535
    (s.traceRoom core asid (0x70#8 :: bytesOf 2 n)).map fun s =>
      let s := s.setTraceBuf core asid { s.traceBuf core asid with lost := 0 }
      (s.gangsOnCore core asid).foldl (fun (s : State) u => s.modGang u fun g => { g with tr := { g.tr with due := some 7 } }) s

/-- A packet pushed, or dropped whole; after a drop every packet is dropped until the LOSS has entered. The flag tells whether the packet entered
(R415, R425). -/
def State.tracePush (s : State) (core asid : Nat) (bs : List Byte) : State × Bool :=
  match (if (s.traceBuf core asid).lost = 0 then s.traceRoom core asid bs else none) with
  | some s => (s, true)
  | none => (s.traceDrop core asid, false)

/-- The LOSS that earlier drops call for, where the share can hold it. -/
def State.tryLoss (s : State) (core asid : Nat) : State := (s.traceLoss core asid).getD s

/-- The last 12 bytes of R417's layout, for cell `c`. -/
def Gang.syncCell (g : Gang) (c : Nat) : List Byte :=
  let x := Tbl.atD g.cells c Cell.blank
  let live := maskOf ((List.range 4).filter fun i => !(Tbl.atD g.lanes (4 * c + i) Lane.blank).exited)
  let waiting := match x.run with
    | .regang | .lend | .barg _ => true
    | _ => false
  -- Cells whose lanes have all exited take no part in a group (R17).
  let low := (((List.range 8).filter fun d =>
    (Tbl.atD g.cells d Cell.blank).group = x.group && (List.range 4).any fun i => !(Tbl.atD g.lanes (4 * d + i) Lane.blank).exited).head?).getD c
  let stk := (List.range 8).foldl (fun n i => n + ((x.stack.reverse[i]?).getD 0).toNat * 16 ^ i) 0
  bytesOf 6 x.lpc ++ bytesOf 1 (x.mask.toNat + 16 * live) ++
    bytesOf 1 (x.stack.length % 16 + 16 * low + 128 * b2n waiting) ++ bytesOf 4 stk

/-- A SYNC packet of gang `u` (R417). -/
def State.syncPacket (s : State) (u reason : Nat) : List Byte :=
  let g := s.gang u
  bytesOf 1 (g.slot % 16) ++ bytesOf 1 (reason + 128 * b2n g.block.isNone) ++ bytesOf 8 g.spc.toNat ++
    bytesOf 8 (s.cyclesOf (s.regOf g)) ++ (List.range 8).flatMap g.syncCell

/-- A SYNC of gang `u` pushed. -/
def State.pushSync (s : State) (u reason : Nat) : State :=
  let g := s.gang u
  let (s, _) := s.tracePush (s.coreOf g) (s.asidOf g) (s.syncPacket u reason)
  let cyc := s.cyclesOf (s.regOf g)
  s.modGang u fun g => { g with tr := { stamp := cyc, sync := cyc, packets := 0, due := none } }

/-- A SYNC of gang `u` emitted with its reason, when its context is traced (R418). -/
def State.emitSync (s : State) (u reason : Nat) : State :=
  let g := s.gang u
  if (s.ctx (s.asidOf g)).tren then (s.tryLoss (s.coreOf g) (s.asidOf g)).pushSync u reason else s

/-- What comes before any other packet of gang `u`: the LOSS that is due, the SYNC that every gang of its context on the core owes after a LOSS, and the
SYNC that the gang owes (R413, R415). -/
def State.emitDue (s : State) (u : Nat) : State :=
  let g := s.gang u
  let core := s.coreOf g
  let a := s.asidOf g
  let s := s.tryLoss core a
  let s := (s.gangsOnCore core a).foldl (fun (s : State) v => if (s.gang v).tr.due = some 7 then s.pushSync v 7 else s) s
  match (s.gang u).tr.due with
  | some r => s.pushSync u r
  | none => s

/-- Unsigned LEB128 with fuel for ten bytes (R416). -/
def leb128 : (fuel x : Nat) → List Byte
  | 0, _ => []
  | n + 1, x => if x < 128 then [BitVec.ofNat 8 x] else BitVec.ofNat 8 (x % 128 + 128) :: leb128 n (x / 128)

/-- A packet of gang `u` pushed, and counted for the cadence when it entered (R418). -/
def State.pushPacket (s : State) (u kind : Nat) (payload : List Byte) : State :=
  let g := s.gang u
  let (s, ok) := s.tracePush (s.coreOf g) (s.asidOf g) (bytesOf 1 (kind * 16 + g.slot % 16) ++ payload)
  s.modGang u fun g => { g with tr := { g.tr with packets := g.tr.packets + b2n ok } }

/-- The packets that an instruction of gang `u` emits one after another, with the TS that precedes them (R416, R425). -/
def State.emitAll (s : State) (u kind : Nat) (payloads : List (List Byte)) : State :=
  let g := s.gang u
  let a := s.asidOf g
  let c := s.ctx a
  if c.tren && !payloads.isEmpty then
    let s := s.emitDue u
    let core := s.coreOf g
    let cyc := s.cyclesOf (s.regOf g)
    let g := s.gang u
    let s :=
      if c.trts && cyc ≠ g.tr.stamp then
        let (s, ok) := s.tracePush core a (bytesOf 1 (0x50 + g.slot % 16) ++ leb128 10 (cyc - g.tr.stamp))
        s.modGang u fun g =>
          { g with tr := { g.tr with stamp := if ok then cyc else g.tr.stamp, packets := g.tr.packets + b2n ok } }
      else s
    payloads.foldl (fun (s : State) p => s.pushPacket u kind p) s
  else s

/-- One packet of gang `u` other than SYNC and LOSS. -/
def State.emit (s : State) (u kind : Nat) (payload : List Byte) : State := s.emitAll u kind [payload]

/-- The cadence SYNC, due at the first boundary at which 4,096 cycles or 256 packets have passed (R418). -/
def State.emitCadence (s : State) (u : Nat) : State :=
  let g := s.gang u
  if (s.ctxOf g).tren then
    match g.tr.due with
    | some r => s.emitSync u r
    | none =>
      if g.tr.sync + 4096 ≤ s.cyclesOf (s.regOf g) || 256 ≤ g.tr.packets then s.emitSync u 0 else s
  else s

end Sys2Proof.Machine
end

