-- ==== Sys2Proof/Machine/Ops.lean ====
section
/-!
DEFINITION. The shared operations of the machine: fault slots and notices (R301), barriers (R210), row slots (R166), ends of teams and grids
(R37 to R39, R338, R339), taking a trap (R224) and returning from one (R227), and how a scalar word completes, waits or traps.
-/

namespace Sys2Proof.Machine

/-! ### Fault slots -/

/-- Trap causes (R226). -/
def cILLEGAL : Nat := 1
def cXLAT : Nat := 2
def cOWN : Nat := 3
def cSBOUND : Nat := 4
def cALIGN : Nat := 5
def cPOISON : Nat := 6
def cTASKFMT : Nat := 9
def cBREAK : Nat := 10

/-- ACC of a fault record (R301). -/
def accLoad : Nat := 0
def accStore : Nat := 1
def accAtomic : Nat := 2
def accFetch : Nat := 3
def accRowpin : Nat := 6

/-- The 32-byte record of R301. -/
def faultRecord (slot seq asid : Nat) (x : FaultInfo) : List Byte :=
  bytesOf 2 slot ++ bytesOf 1 seq ++ bytesOf 1 x.origin ++ bytesOf 1 x.cause ++ bytesOf 1 x.fkind ++ bytesOf 1 x.acc ++
    bytesOf 1 0 ++ bytesOf 8 x.va ++ bytesOf 2 asid ++ bytesOf 4 x.lanes ++ bytesOf 2 0 ++ bytesOf 4 x.cluster ++
    bytesOf 1 (x.gang % 16 + x.team % 8 * 16) ++ bytesOf 3 0

def FaultSlot.blank : FaultSlot := { st := .free, seq := 0, rcd := [], tspc := 0, owner := .notice, status := 0 }

/-- The lowest FREE slot of a context (R301; notes/assumptions/23.md). -/
def Ctx.freeSlot (c : Ctx) : Option Nat :=
  (List.range 1024).find? fun n => (Tbl.atD c.slots n FaultSlot.blank).st = .free

/-- A fault slot taken, with its number; none when all 1,024 are in use (R301). -/
def State.takeSlot (s : State) (asid : Nat) (owner : SlotOwner) (x : FaultInfo) : Option (Nat × State) :=
  match Tbl.at? s.ctxs asid with
  | none => none
  | some c =>
    match c.freeSlot with
    | none => none
    | some n =>
      let seq := ((Tbl.atD c.slots n FaultSlot.blank).seq + 1) % 256
      let slot : FaultSlot := { st := .waiting, seq := seq, rcd := faultRecord n seq asid x, tspc := x.tspc, owner := owner, status := 0 }
      some (n, { s with ctxs := Tbl.put s.ctxs asid { c with slots := Tbl.put c.slots n slot, unposted := c.unposted ++ [n] } })

/-- A notice recorded in a slot, or kept until one is free (R301, R311). -/
def State.notice (s : State) (asid cause va cluster gt : Nat) (tspc : Word64 := 0) : State :=
  let x : FaultInfo :=
    { origin := 5, cause := cause, fkind := 0, acc := 0, va := va, lanes := 0, cluster := cluster, gang := gt % 16, team := gt / 16,
      tspc := tspc }
  match s.takeSlot asid .notice x with
  | some (_, s) => s
  | none => s.modCtx asid fun c => { c with waiting := c.waiting ++ [(.notice, x)] }

/-- A notice about a team. -/
def State.teamNotice (s : State) (t cause va gang : Nat) (tspc : Word64 := 0) : State :=
  s.notice (s.asidOfTeam t) cause va (s.clusterOfTeam t).idx (gang % 16 + (s.team t).idx % 8 * 16) tspc

/-- Engine work told which slot holds its fault (R183); slot 1,024 stands for the slot it waits for (R300). -/
def State.workFault (s : State) (o : SlotOwner) (n : Option Nat) : State :=
  match o with
  | .copy t q => s.modTeam t fun x => { x with copies := x.copies.map fun (k : Copy) => if k.seq = q then { k with fault := n } else k }
  | .task t q => s.modTeam t fun x => { x with tasks := x.tasks.map fun (k : Task) => if k.enq = q then { k with fault := n } else k }
  | _ => s

/-- A slot freed; it keeps its SEQ and its record, and what has waited longest takes it (R300, R302, R311; notes/assumptions/94.md). -/
def State.freeSlot (s : State) (asid n : Nat) : State :=
  let s := s.modCtx asid fun c =>
    { c with
      slots := Tbl.upd c.slots n fun x => { x with st := .free, owner := .notice, status := 0 }
      unposted := c.unposted.filter (· ≠ n) }
  match (s.ctx asid).waiting with
  | (o, x) :: rest =>
    match s.takeSlot asid o x with
    | some (n, s) => (s.modCtx asid fun c => { c with waiting := rest }).workFault o (some n)
    | none => s
  | [] => s

/-- The slots of a context whose owner satisfies `p`. -/
def State.slotsOwned (s : State) (asid : Nat) (p : SlotOwner → Bool) : List Nat :=
  Tbl.keysOf (s.ctx asid).slots fun x => x.st ≠ .free && p x.owner

/-! ### Barriers (R210, R211, R39) -/

/-- A BID's level and index (R78). -/
def bidLevel (b : Nat) : Nat := b / 16
def bidIdx (b : Nat) : Nat := b % 16

/-- The barrier a team reaches by a name (R78): tb of its team, cb of its cluster, kb of its cohort instance, xb of its grid. -/
def State.barrier (s : State) (t b : Nat) : Barrier :=
  let tm := s.team t
  match bidLevel b with
  | 1 => Tbl.atD tm.tb (bidIdx b) Barrier.blank
  | 2 => Tbl.atD (s.cluster tm.cluster).cb (bidIdx b) Barrier.blank
  | 3 => Tbl.atD (s.grid tm.grid).kb (4 * (s.cluster tm.cluster).cohort + bidIdx b) Barrier.blank
  | _ => Tbl.atD (s.grid tm.grid).xb (bidIdx b) Barrier.blank

def State.setBarrier (s : State) (t b : Nat) (x : Barrier) : State :=
  let tm := s.team t
  match bidLevel b with
  | 1 => s.modTeam t fun y => { y with tb := Tbl.put y.tb (bidIdx b) x }
  | 2 => s.modCluster tm.cluster fun y => { y with cb := Tbl.put y.cb (bidIdx b) x }
  | 3 => s.modGrid tm.grid fun y => { y with kb := Tbl.put y.kb (4 * (s.cluster tm.cluster).cohort + bidIdx b) x }
  | _ => s.modGrid tm.grid fun y => { y with xb := Tbl.put y.xb (bidIdx b) x }

/-- complete(b) when the arrived count has reached the expected count (R39, R211). -/
def Barrier.settle (b : Barrier) : Barrier := if b.exp ≤ b.arr then { b with arr := 0, phase := b.phase + 1 } else b

/-- One arrival (R211). -/
def Barrier.arrive (b : Barrier) : Barrier := { b with arr := b.arr + 1 }.settle

/-- The expected count reduced by `n`; nothing happens to a barrier that loses no member (R39). -/
def Barrier.leave (b : Barrier) (n : Nat) : Barrier := if n = 0 then b else { b with exp := b.exp - n }.settle

/-- The barriers a team is a member of, from its launch record's counts (R210). -/
def LaunchRec.bids (r : LaunchRec) : List Nat :=
  (List.range r.ntb).map (16 + ·) ++ (List.range r.ncb).map (32 + ·) ++ (List.range r.nkb).map (48 + ·) ++
    (List.range r.nxb).map (64 + ·)

/-- A gang leaves every barrier it belongs to (R37, R218). -/
def State.leaveAll (s : State) (t : Nat) : State :=
  (s.gridOfTeam t).rcd.bids.foldl (fun s b => s.setBarrier t b ((s.barrier t b).leave 1)) s

/-- A STAMP item joins every barrier of which it is a member (R210). -/
def State.joinAll (s : State) (t : Nat) : State :=
  (s.gridOfTeam t).rcd.bids.foldl (fun s b => s.setBarrier t b { s.barrier t b with exp := (s.barrier t b).exp + 1 }) s

/-- Whether gang `g` has arrived at a barrier in its present phase (R211). -/
def State.arrivedAt (s : State) (g : Gang) (b : Nat) : Bool :=
  Tbl.at? g.armed b = some (s.barrier g.team b).phase

/-- A killed team leaves its barriers: each expected count falls by its gangs that had not yet arrived (R38). -/
def State.killLeave (s : State) (t : Nat) : State :=
  (s.gridOfTeam t).rcd.bids.foldl (fun s b =>
    let n := ((s.liveOf t).filter fun u => !s.arrivedAt (s.gang u) b).length
    s.setBarrier t b ((s.barrier t b).leave n)) s

/-- The scope at which passing a barrier releases and acquires (R210). A grid lies on one device, since the spec names no act that makes it span more, so
an xb barrier has device scope (DESIGN CHOICE, notes/assumptions/117.md). -/
def barScope (level : Nat) : Nat := if level ≤ 1 then 0 else if level = 2 then 1 else if level = 3 then 2 else 3

/-! ### Row slots (R164 to R168) -/

def Team.row (t : Team) (n : Nat) : RowSlot := Tbl.atD t.rows n RowSlot.blank
def State.setRow (s : State) (t n : Nat) (x : RowSlot) : State := s.modTeam t fun y => { y with rows := Tbl.put y.rows n x }

/-- The reference of a slot to a row-hold entry. -/
def RowEntry.ref? (e : RowEntry) (t n : Nat) : Option RowRef := e.slots.find? fun x => x.team = t && x.slot = n

/-- A slot's reference to the entry of a row dropped (R166, R278): its dirty segments are written back, at two HBM4 transfers each (R162, R168), and the
last reference closes the entry. -/
def State.dropRowRef (s : State) (t n row : Nat) : State :=
  match s.rowTab.find? fun e => e.row = row with
  | none => s
  | some e =>
    let d := ((e.ref? t n).map (·.dirty)).getD 0
    let s := s.charge e.asid (stackIsland (stackOf (1024 * row))) (2 * wHbm * popcount 8 d.toNat)
    let s := s.modRow row fun e =>
      { e with slots := (e.slots.filter fun x => !(x.team = t && x.slot = n)).map fun x => { x with dirty := x.dirty &&& ~~~ d } }
    { s with rowTab := s.rowTab.filter fun e => !e.slots.isEmpty }

/-- A slot released (R166). -/
def State.releaseRow (s : State) (t n : Nat) : State :=
  let x := (s.team t).row n
  let s := if x.st = .held && !x.saved then s.dropRowRef t n x.row else s
  s.setRow t n RowSlot.blank

/-- The segments of a mask written back and given up by their home slices, and by the victim cache (R163, R164). -/
def State.giveUpLines (s : State) (asid row : Nat) (mask : BitVec 8) : State :=
  (setBits 8 mask.toNat).foldl (fun (s : State) i =>
    let line := 8 * row + i
    if (s.heldAt (128 * line)).isSome then s else (s.flushLine asid line).giveUp line) s

/-- Segments of a row opened: their lines leave the slices, and each is one segment activate (R163, R276). -/
def State.openSegs (s : State) (asid row : Nat) (mask : BitVec 8) : State :=
  (s.giveUpLines asid row mask).charge asid (stackIsland (stackOf (1024 * row))) (wActivate * popcount 8 mask.toNat)

/-- Segments of a row opened for a slot that holds it (R165). -/
def State.openFor (s : State) (asid t n row : Nat) (mask : BitVec 8) : State :=
  (s.openSegs asid row mask).modRow row fun e =>
    { e with slots := e.slots.map fun x => if x.team = t && x.slot = n then { x with opens := x.opens ||| mask } else x }

/-- A row taken or shared for slot `n` of team `t`, with the segments of `mask` opened; none when the pseudo-channel has no free entry, or the entry has
64 references (R164, R278, R279; notes/assumptions/90.md), or another ASID holds the row (DEDUCED, notes/assumptions/120.md). -/
def State.holdRow (s : State) (asid t n row : Nat) (mask : BitVec 8) : Option State :=
  match s.rowTab.find? fun e => e.row = row with
  | some e =>
    if e.asid = asid && e.slots.length < 64 then
      let new : RowRef := { team := t, slot := n, opens := e.opens ||| mask, dirty := 0 }
      some ((s.openSegs asid row (mask &&& ~~~ e.opens)).modRow row fun e => { e with slots := e.slots ++ [new] })
    else none
  | none =>
    let pa := 1024 * row
    let used := (s.rowTab.filter fun e => stackOf (1024 * e.row) = stackOf pa && pchanOf (1024 * e.row) = pchanOf pa).length
    if used < 4 then
      let s := s.openSegs asid row mask
      some { s with rowTab := s.rowTab ++ [{ row := row, asid := asid, slots := [{ team := t, slot := n, opens := mask, dirty := 0 }] }] }
    else none

/-! ### Ends (R37, R38, R338, R339) -/

/-- The virtual address of a slot of a launch queue (R317). -/
def Queue.slotVa (q : Queue) (i : Nat) : Nat := q.base + 256 * (i % 2 ^ q.log2s)

/-- Bytes written by the scheduler or the device at a virtual address of a context, or the fault kind where the address does not take a write. The walk
and the write are partition overhead (R347). -/
def State.sysWrite (s : State) (asid va : Nat) (bs : List Byte) : State × Option Nat :=
  if 2 ^ 57 ≤ va then (s, some 7)
  else
    match s.walkXl (s.walkOf asid va).2 va .store, s.overWalk asid va with
    | .bad k, s => (s, some k)
    | .ok pa _ _, s => (if isPeer pa then s.peerWrite (.sched asid 0) 0 asid 0 pa bs else (s.overLine asid pa).putFor asid pa bs, none)

/-- A failed slot access: FERR, the queue stops, and a notice records the cause and the slot (R322). -/
def State.queueFault (s : State) (asid q va fk : Nat) : State :=
  let s := s.modCtx asid fun c => { c with queues := Tbl.upd c.queues q fun x => { x with ferr := true } }
  s.notice asid (if fk = 100 then cPOISON else fkCause fk) va 0 0

/-- Slot status bytes 192 to 255 (R321), byte 192 last. -/
def statusBytes (status gid tadm tend : Nat) : List Byte :=
  bytesOf 1 status ++ bytesOf 3 0 ++ bytesOf 4 gid ++ bytesOf 8 tadm ++ bytesOf 8 tend ++ List.replicate 40 0

/-- QHEAD passes each run of slots whose status is 2 to 4, 6 or 7 (R319). -/
def Queue.pass : (fuel : Nat) → Queue → Queue
  | 0, q => q
  | n + 1, q =>
    match Tbl.at? q.status q.head.toNat with
    | some st =>
      if (2 ≤ st && st ≤ 4) || st = 6 || st = 7 then
        Queue.pass n { q with head := q.head + 1, status := Tbl.del q.status q.head.toNat }
      else q
    | none => q

/-- A slot status recorded and written to the slot, with vector 3p + 1 signalled (R321, R395). -/
def State.slotStatus (s : State) (asid q i status gid tadm tend : Nat) : State :=
  let c := s.ctx asid
  let qq := Tbl.atD c.queues q Queue.blank
  let va := qq.slotVa i + 192
  let bs := statusBytes status gid tadm tend
  let s := match s.sysWrite asid va bs with
    | (s, none) => s
    | (s, some k) => s.queueFault asid q va k
  let note := fun (x : Queue) => Queue.pass (2 ^ x.log2s) { x with status := Tbl.put x.status i status }
  let s := s.modCtx asid fun c => { c with queues := Tbl.upd c.queues q note }
  { s with outbox := s.outbox ++ [.msix c.fn (3 * c.page + 1)] }

/-- The grid ends: its SETMASK bits are set unless it lost a team to a kill, and its slot receives its status (R338, R339). -/
def State.gridEnd (s : State) (n : Nat) : State :=
  let gr := s.grid n
  let s := if gr.killed then s else s.modCtx gr.asid fun c => { c with events := c.events ||| gr.rcd.setmask }
  let s := { s with grids := Tbl.del s.grids n }
  s.slotStatus gr.asid gr.queue gr.qslot (if gr.killed then 7 else 6) gr.gid gr.tadm s.now

/-- The grid ends when all its clusters have ended, or when a kill took its last live team (R338, R339). -/
def State.gridCheck (s : State) (n : Nat) : State :=
  match Tbl.at? s.grids n with
  | none => s
  | some gr =>
    let total := gr.rcd.cx * gr.rcd.cy * gr.rcd.cz
    if (s.clustersOf n).length = 0 && (gr.ended = total || (gr.killed && gr.admitted)) then s.gridEnd n else s

/-- Store rows of a team returned zeroed, and its tiles (R37, R289). -/
def State.zeroTeam (s : State) (t : Nat) : State :=
  let tm := s.team t
  let r := (s.grid tm.grid).rcd
  if tm.image.isSome then s
  else
    let base := coreBase tm.core
    let wipe := fun (s : State) (a n : Nat) =>
      { s with store := Mem.zero s.store a n, storeBad := delPoison s.storeBad a n }
    let s := wipe s (base + tm.sbase * 128) r.scratch
    let s := tm.wbases.foldl (fun s w => wipe s (base + w * 128) (r.regs * 128)) s
    { s with
      acc := Mem.zero s.acc (accAddr tm.core tm.tileBase 0) (8192 * r.tiles)
      metas := s.metas.filter fun e => !(tm.core * 64 + tm.tileBase ≤ e.1 && e.1 < tm.core * 64 + tm.tileBase + r.tiles) }

/-- Every row slot of a team released (R37). -/
def State.releaseRows (s : State) (t : Nat) : State := (List.range 8).foldl (fun (s : State) n => s.releaseRow t n) s

/-- A team taken from the device and from its cluster. -/
def State.dropTeam (s : State) (t : Nat) : State :=
  let cl := (s.team t).cluster
  let s : State := { s with teams := Tbl.del s.teams t }
  s.modCluster cl fun c => { c with teams := c.teams.filter fun x => x ≠ t }

def State.dropCluster (s : State) (c : Nat) : State := { s with clusters := Tbl.del s.clusters c }

/-- A cluster ends when its last team has (R338). -/
def State.clusterCheck (s : State) (c : Nat) : State :=
  match (s.cluster c).teams with
  | [] => (s.dropCluster c).modGrid (s.cluster c).grid fun g => { g with ended := g.ended + 1 }
  | _ :: _ => s

/-- team_exit(t) (R37): rows released, tags cleared, store freed. -/
def State.teamExit (s : State) (t : Nat) : State :=
  let tm := s.team t
  let s := ((s.releaseRows t).zeroTeam t).dropTeam t
  (s.clusterCheck tm.cluster).gridCheck tm.grid

/-- Whether a slot's owner belongs to a team. -/
def State.ownedByTeam (s : State) (t : Nat) (o : SlotOwner) : Bool :=
  match o with
  | .gang u | .range u => (s.gang u).team = t
  | .copy t' _ | .task t' _ | .gone t' => t' = t
  | .notice => false

/-- The slots of a team freed, those it waits for among them (R302). -/
def State.freeSlots (s : State) (t : Nat) : State :=
  let a := s.asidOfTeam t
  let s := s.modCtx a fun c => { c with waiting := c.waiting.filter fun e => !s.ownedByTeam t e.1 }
  (s.slotsOwned a (s.ownedByTeam t)).foldl (fun s n => s.freeSlot a n) s

/-- Whether an asker is engine work. -/
def Asker.isWork (w : Asker) : Bool :=
  match w with
  | .copy _ _ | .task _ _ => true
  | _ => false

/-- Requests of a team that is gone are forgotten: a late answer is then discarded (R388). With `work` those of its engine work are kept. -/
def State.dropTeamReqs (s : State) (t : Nat) (work : Bool) : State :=
  { s with requests := s.requests.filter fun r => r.team ≠ t || (work && r.who.isWork) }

/-- Whether a chunk, or a step, is in hand: a peer has still to answer it or to acknowledge it (R209). -/
def State.chunkBusy (s : State) (t : Nat) (k : Copy) : Bool := k.landing.isSome || s.asking (· = .copy t k.seq)
def State.stepBusy (s : State) (t : Nat) (k : Task) : Bool := s.asking (· = .task t k.enq)

/-- Whether some engine work of a team is within a chunk or a step, where it does not stop (R337). -/
def State.workBusy (s : State) (t : Nat) : Bool := (s.team t).copies.any (s.chunkBusy t) || (s.team t).tasks.any (s.stepBusy t)

/-- The end of a kill: the team leaves its barriers, its slots are freed, and team_exit follows (R38, R339). -/
def State.killEnd (s : State) (t : Nat) : State :=
  let s := ((s.killLeave t).freeSlots t).dropTeamReqs t false
  ({ s with gangs := s.gangs.filter fun e => e.2.team ≠ t } : State).teamExit t

/-- A killed team ends once none of its work is within a chunk or a step (R38, R337). -/
def State.killCheck (s : State) (t : Nat) : State := if (s.team t).dying && !s.workBusy t then s.killEnd t else s

/-- A kill of a team (R38, R339): its buffers drain, its gangs run no more and its work is cancelled, but for the chunks and steps in hand, which end
first. -/
def State.killTeam (s : State) (t : Nat) : State :=
  match Tbl.at? s.teams t with
  | none => s
  | some tm =>
    if tm.dying then s.killCheck t
    else
      let s := (s.gangsOf t).foldl (fun s u => s.drainGang u) s
      let s := (s.freeSlots t).dropTeamReqs t true
      let s := s.modGrid tm.grid fun g => { g with killed := true }
      let keep := s
      (s.modTeam t fun x =>
        { x with dying := true, deferred := [], copies := x.copies.filter (keep.chunkBusy t), tasks := x.tasks.filter (keep.stepBusy t) }).killCheck t

/-- The slots of a gang or template that retires stay taken, for its team (R302). -/
def State.orphanSlots (s : State) (u : Nat) : State :=
  let g := s.gang u
  let mine := fun (o : SlotOwner) => o = .gang u || o = .range u
  (s.modCtx (s.asidOf g) fun c =>
    { c with
      slots := Tbl.each c.slots fun _ x => if x.st ≠ .free && mine x.owner then { x with owner := .gone g.team } else x })

/-- A template retires once all its items have been created and have retired: its lines thaw and its window is freed (R220, R222). -/
def State.retireTpl : (fuel : Nat) → State → (t : Nat) → State
  | 0, s, _ => s
  | n + 1, s, t =>
    match Tbl.at? s.gangs t with
    | none => s
    | some g =>
      match g.run with
      | .template count next =>
        if count ≤ next && !(s.gangs.any fun e => e.2.tplOf = some t) then
          let s := (s.orphanSlots t).modTeam g.team fun x => { x with frozen := x.frozen.filter fun f => f.2 ≠ t }
          let s := { s with gangs := Tbl.del s.gangs t }
          match g.tplOf with
          | some p => State.retireTpl n s p
          | none => s
        else s
      | _ => s

/-- The rows of a window zeroed before their next grant (R37). -/
def State.zeroWindow (s : State) (g : Gang) : State :=
  let a := coreBase (s.coreOf g) + g.wbase * 128
  let n := (s.recOf g).regs * 128
  { s with store := Mem.zero s.store a n, storeBad := delPoison s.storeBad a n }

/-- A team whose gangs and templates are all gone has retired (R37). -/
def State.teamCheck (s : State) (t : Nat) : State :=
  if (s.gangsOf t).length = 0 then s.modTeam t fun x => { x with retired := true } else s

/-- A slot whose RNGACQ is left: a slot already REPLIED is freed, and the reply to another frees it (DESIGN CHOICE, notes/assumptions/112.md). -/
def State.leaveRng (s : State) (u : Nat) (w : RngWait) : State :=
  let g := s.gang u
  let a := s.asidOf g
  let x := Tbl.atD (s.ctx a).slots w.slot FaultSlot.blank
  if x.owner ≠ .range u then s
  else if x.st = .replied then s.freeSlot a w.slot
  else s.modCtx a fun c => { c with slots := Tbl.upd c.slots w.slot fun x => { x with owner := .gone g.team } }

/-- What an RNGACQ waited for is left, unless its gang resumes at it. -/
def State.leaveAt (s : State) (u : Nat) (w : Option RngWait) (resumes : Bool) : State :=
  match w with
  | some w => if resumes then s else s.leaveRng u w
  | none => s

/-- retire_gang(g) (R37): its stores are accepted, it leaves its barriers and gives up its window and slot. -/
def State.retireGang (s : State) (u : Nat) : State :=
  let s := (s.drainGang u).orphanSlots u
  let g := s.gang u
  let s := s.leaveAll g.team
  let s := s.zeroWindow g
  let s := { s with gangs := Tbl.del s.gangs u }
  let s := match g.tplOf with
    | some t => State.retireTpl 4 s t
    | none => s
  (s.lastTraced (s.coreOf g) (s.asidOf g)).teamCheck g.team

/-! ### Traps (R224 to R228) -/

/-- A trap to be taken. -/
structure TrapInfo where
  cause : Nat
  code : Nat := 0
  sw : Bool := false
  deferred : Bool := false
  sttr : Bool := false
  lane : Bool := false
  cells : Nat := 0
  tspc : Word64
  tlpc : Nat := 0
  tmask : Nat := 0
  taddr : Nat := 0
  clanes : Nat := 0
  fkind : Nat := 0
  acc : Nat := 0
  deriving DecidableEq, Repr

/-- TCAUSE (R226). -/
def TrapInfo.word (x : TrapInfo) : Word64 :=
  BitVec.ofNat 64 (x.cause + x.cells * 2 ^ 8 + b2n x.lane * 2 ^ 32 + b2n x.sttr * 2 ^ 33 + b2n x.deferred * 2 ^ 34 +
    b2n x.sw * 2 ^ 35 + x.code * 2 ^ 36)

/-- A lane as a handler finds it: latch, operand file and p1 to p7 read 0 (R224). -/
def Lane.cleared (l : Lane) : Lane := { Lane.blank with exited := l.exited }

/-- The lane frame of a gang (R224, R229). -/
def Gang.laneFrame (g : Gang) (spc : Word64) : LaneFrame :=
  { lanes := g.lanes, cells := g.cells, queue := g.queue, block := g.block, bar := g.bar, rng := g.rng, spc := spc,
    exiting := g.exiting }

/-- The lane side of a gang emptied for a handler (R224). -/
def Gang.clearLanes (g : Gang) : Gang :=
  { g with
    queue := []
    block := none
    lanes := Tbl.each g.lanes fun _ l => l.cleared
    cells := (List.range 8).map fun c => (c, Cell.blank)
    bar := none
    rng := none
    wait := .none
    exiting := false }

/-- A lane frame put back; lanes that exited since stay exited (R227). -/
def Gang.restoreFrame (g : Gang) (f : LaneFrame) : Gang :=
  { g with
    queue := f.queue
    block := f.block
    lanes := Tbl.each f.lanes fun n l => { l with exited := l.exited || (Tbl.atD g.lanes n Lane.blank).exited }
    cells := f.cells
    bar := f.bar
    rng := f.rng
    wait := .none
    exiting := f.exiting || g.exiting }

/-- Whether an asker is a stream, a lane or a fetch of gang `u`. -/
def Asker.isOf (u : Nat) (w : Asker) : Bool :=
  match w with
  | .scalar v | .lane v _ | .fetch v | .laneFetch v _ => v = u
  | _ => false

/-- The reads of a gang's waiting words dropped as a handler breaks them off: they are made anew when the words run again, and answers on their way
are discarded. An atomic already sent stays, with its translation: the word takes its answer then (DEDUCED, notes/assumptions/113.md). -/
def State.breakOff (s : State) (u : Nat) : State :=
  let d := (s.gang u).depth
  let sent := fun (w : Asker) => s.requests.any fun r => r.who = w && r.ptype = 3
  { s with
    requests := s.requests.filter fun r => !(r.who.isOf u && r.ptype = 0)
    pins := s.pins.filter fun x => !(x.who.isOf u && x.depth = d && !sent x.who) }

/-- trap_entry(g, cause) (R224). The registers that describe the trap, the frame, the privilege and SPC change; a trap at S or with
TVEC = 0 kills the team and leaves a notice. -/
def State.trapEntry (s : State) (u : Nat) (x : TrapInfo) : State :=
  let g := s.gang u
  let a := s.asidOf g
  let c := s.ctx a
  if g.priv || c.tvec = 0 then
    (s.teamNotice g.team x.cause x.taddr g.idx x.tspc).killTeam g.team
  else
    let regs : TrapRegs :=
      { cause := x.word, tspc := x.tspc, tlpc := x.tlpc, tmask := BitVec.ofNat 32 x.tmask, taddr := BitVec.ofNat 64 x.taddr,
        clanes := BitVec.ofNat 32 x.clanes, fkind := x.fkind, acc := x.acc }
    let s := s.breakOff u
    let g' := { g.clearLanes with
      trap := regs
      frame := some (g.laneFrame x.tspc)
      priv := true
      spc := c.tvec
      dbctl := 0
      skipS := false
      skipL := false
      stepping := 0 }
    (s.setGang u g').emitSync u 3

/-- The cells a trap named resume at the trapping word for the lanes of TMASK, or behind it when TMASK is 0 (R227). -/
def Gang.resumeCells (g : Gang) : Gang :=
  let cells := bits g.trap.cause.toNat 15 8
  let tm := g.trap.tmask.toNat
  let unpaid := g.trap.cause.toNat % 16 = cPOISON
  { g with cells := Tbl.each g.cells fun c x =>
      if bit cells c then
        if tm = 0 then { x with lpc := g.trap.tlpc + 1, pending := none, unpaid := false }
        else { x with pending := some (BitVec.ofNat 4 (tm / 2 ^ (4 * c))), unpaid := unpaid }
      else x }

/-- The return from a trap: the lane frame, the lane queue and PRIV are restored and SPC is TSPC (R227, R421). -/
def State.trapReturn (s : State) (u : Nat) : State :=
  let g := s.gang u
  match g.frame with
  | none => s
  | some f =>
    let g' := g.restoreFrame f
    let same : Bool := f.spc = g.trap.tspc
    let s := s.leaveAt u f.rng same
    let g' := { g' with
      bar := if same then f.bar else none
      rng := if same then f.rng else none
      priv := false
      spc := g.trap.tspc
      frame := none
      held := []
      skipS := bit g.dbctl.toNat 0
      skipL := bit g.dbctl.toNat 0
      stepping := b2n (bit g.dbctl.toNat 1)
      stepIn := g.pframe.isSome }
    (s.setGang u g'.resumeCells).emitSync u 4

/-! ### How a scalar word ends -/

/-- An instruction of gang `u` has completed: 4 eu, a step counted for R421, and SPC moved (R100, R101). -/
def State.retire (s : State) (u : Nat) (spc : Word64) : State :=
  (s.chargeGang u wScalar).modGang u fun g =>
    { g with spc := spc, wait := .none, skipS := false, stepping := if g.stepping = 1 && g.stepIn = g.pframe.isSome then 2 else g.stepping }

/-- The instruction at SPC has completed and control passes to the next word. -/
def State.advance (s : State) (u : Nat) : State := s.retire u ((s.gang u).spc + 4)

/-- The instruction at SPC waits at its boundary (R118); nothing else changes. -/
def State.stall (s : State) (u : Nat) (w : Wait) : State := s.modGang u fun g => { g with wait := w }

/-- A scalar trap of cause `c` at SPC. ILLEGAL is not charged; every other trap is charged 4 eu (R101). -/
def State.scalarTrap (s : State) (u c addr fk acc : Nat) : State :=
  let g := s.gang u
  let s := if c = cILLEGAL then s else s.chargeGang u wScalar
  s.trapEntry u { cause := c, tspc := g.spc, taddr := addr, fkind := fk, acc := acc }

/-- The scalar trap of a fault kind (R293, R300). -/
def State.scalarFault (s : State) (u fk addr acc : Nat) : State := s.scalarTrap u (fkCause fk) addr fk acc

/-- ILLEGAL at SPC (R77). -/
def State.illegal (s : State) (u : Nat) : State := s.scalarTrap u cILLEGAL 0 0 0

/-- A scalar word runs in the gang named by `cur`. -/
def State.issue (s : State) (f : Nat → Gang → State) : Host.Outcome State Fault Refusal :=
  match Tbl.at? s.gangs s.cur with
  | some g => .next (f s.cur g)
  | none => .fault .noIssuer

/-- A supervisor word: ILLEGAL at U (R32). -/
def State.issueS (s : State) (f : Nat → Gang → State) : Host.Outcome State Fault Refusal :=
  s.issue fun u g => if g.priv then f u g else s.illegal u

end Sys2Proof.Machine
end

