-- ==== Sys2Proof/Machine/Flags.lean ====
section
/-!
DEFINITION. The flags of MODE (R34, R36) and the controls a lane word takes from its own fields or from the block's copy of MODE (R21, R48, R80, R85).
-/

namespace Sys2Proof.Machine

/-- The binary format of a floating type (R44, R54). -/
def Ty.fmt? (t : Ty) : Option Fmt :=
  match t with
  | .f16 => some .f16 | .bf16 => some .bf16 | .f32 => some .f32 | .f64 => some .f64
  | .e4m3 => some .e4m3 | .e5m2 => some .e5m2 | .e2m3 => some .e2m3 | .e2m1 => some .e2m1
  | _ => none

/-- The format of f16, bf16, f32 and f64; f32 for a type that has none. -/
def Ty.fmt (t : Ty) : Fmt := (Ty.fmt? t).getD .f32

/-- The rounding mode of a code of MODE.RMD (R34, R48). -/
def rmOfMode (n : BitVec 3) : Rm :=
  match n.toNat with
  | 2 => .rtz | 3 => .rdn | 4 => .rup | 5 => .rna | 6 => .rso
  | _ => .rne

/-- The entry the lanes run; with none, a lane word reads the gang's own MODE and scalar registers of 0. -/
def Gang.entry (g : Gang) : QEntry :=
  g.block.getD { idx := 0, k := [], den := g.mode.den, satd := g.mode.satd, rmd := g.mode.rmd, enq := 0 }

/-- The rounding mode a lane word rounds with (R48). -/
def Gang.rmOf (g : Gang) (r : Rm) : Rm := if r = .dyn then rmOfMode g.entry.rmd else r

/-- Whether a lane word saturates (R80, R34). -/
def Gang.satOf (g : Gang) (m : Sm) : Bool :=
  match m with
  | .mode => g.entry.satd
  | .wrap => false
  | .sat => true

/-- Whether a lane word flushes subnormals (R46). -/
def Gang.flushOf (g : Gang) (m : Dm) : Bool :=
  match m with
  | .mode => g.entry.den
  | .preserve => false
  | .flush => true

/-- Flags raised in a gang's MODE (R36). -/
def Gang.raise (g : Gang) (f : Flags) : Gang := { g with mode := { g.mode with flags := g.mode.flags ||| f } }
def State.raise (s : State) (u : Nat) (f : Flags) : State := if f = 0 then s else s.modGang u fun g => g.raise f

end Sys2Proof.Machine
end

