-- ==== Sys2Proof/Machine/Operands.lean ====
section
/-!
DEFINITION. The sources and destinations of a lane word (R24, R25, R42, R50, R51, R81 to R84, R119, R120).
-/

namespace Sys2Proof.Machine

def Gang.lane (g : Gang) (l : Nat) : Lane := Tbl.atD g.lanes l Lane.blank
def Gang.cell (g : Gang) (c : Nat) : Cell := Tbl.atD g.cells c Cell.blank
def Gang.modLane (g : Gang) (l : Nat) (f : Lane → Lane) : Gang := { g with lanes := Tbl.upd g.lanes l f }
def Gang.modCell (g : Gang) (c : Nat) (f : Cell → Cell) : Gang := { g with cells := Tbl.upd g.cells c f }

/-- Predicate `n` of a lane; p0 reads 1 (R27). -/
def Lane.pred (x : Lane) (n : Nat) : Bool := n = 0 || bit x.p.toNat n

/-- A predicate written; a write to p0 is discarded (R27). -/
def Lane.setPred (x : Lane) (n : Nat) (v : Bool) : Lane :=
  if n = 0 then x
  else { x with p := if v then x.p ||| BitVec.ofNat 8 (2 ^ n) else x.p &&& ~~~ BitVec.ofNat 8 (2 ^ n) }

/-! ### Sources -/

/-- A special source in lane `l` (R83). -/
def State.special (s : State) (g : Gang) (l : Nat) (x : Special) : Nat :=
  let t := s.team g.team
  let r := s.recOf g
  let i := (s.cluster t.cluster).idx
  match x with
  | .lane => l
  | .cell => l / 4
  | .gang => g.idx
  | .team => t.idx
  | .cluster => i
  | .cohort => s.regOf g / 6
  | .grid => (s.grid t.grid).gid
  | .item => g.item
  | .ntpl => g.ntpl
  | .tstamp => s.cyclesOf (s.regOf g)
  | .ngang => r.gangs
  | .nteam => r.teams
  | .nclus => r.cx * r.cy * r.cz
  | .cx => i % r.cx
  | .cy => i / r.cx % r.cy
  | .cz => i / r.cx / r.cy
  | .nx => r.cx
  | .ny => r.cy
  | .nz => r.cz

/-- The low `w` bits of a source other than IMM20 in lane `l`, and whether they are poisoned (R24, R25, R83, R288). -/
def State.srcRaw (s : State) (g : Gang) (l w : Nat) (x : Src) : Nat × Bool :=
  match x with
  | .v i =>
    let (lo, p) := s.readReg g i.toNat l
    if w = 64 then
      let (hi, q) := s.readReg g (i.toNat + 1) l
      (lo + hi * 2 ^ 32, p || q)
    else (lo % 2 ^ w, p)
  | .o i =>
    let y := g.lane l
    let o := fun (n : Nat) => (Tbl.atD y.o n 0).toNat
    if w = 64 then (o i.toNat + o (i.toNat + 1) * 2 ^ 32, bit y.oBad.toNat i.toNat || bit y.oBad.toNat (i.toNat + 1))
    else (o i.toNat % 2 ^ w, bit y.oBad.toNat i.toNat)
  | .lt => ((g.lane l).latch.toNat % 2 ^ w, (g.lane l).latchBad)
  | .imm => (0, false)
  | .k i => (((g.entry.k[i.toNat]?).getD 0).toNat % 2 ^ w, false)
  | .sp x => (s.special g l x % 2 ^ w, false)

/-- A source read as an integer of `w` bits (R51). -/
def State.srcInt (s : State) (g : Gang) (l w : Nat) (imm : BitVec 20) (x : Src) : Nat × Bool :=
  if x = .imm then (wrapN w (sext 20 imm.toNat), false) else s.srcRaw g l w x

/-- IMM20 as a value of a binary format (R50). -/
def immFloat (f : Fmt) (rm : Rm) (imm : BitVec 20) : Nat :=
  match Fmt.f20.decode imm.toNat with
  | .nan _ => f.qnan
  | .inf n => f.infCode n
  | .fin n m e => (f.round rm false n m e).bits

/-- A source read as a code of a binary format (R50). -/
def State.srcFlt (s : State) (g : Gang) (l : Nat) (f : Fmt) (rm : Rm) (imm : BitVec 20) (x : Src) : Nat × Bool :=
  if x = .imm then (immFloat f rm imm, false) else s.srcRaw g l f.width x

/-- A source read at the width of a type that is an integer, f64, f32, f16 or bf16 (R119). -/
def State.srcTy (s : State) (g : Gang) (l : Nat) (t : Ty) (rm : Rm) (imm : BitVec 20) (x : Src) : Nat × Bool :=
  if t.binary then s.srcFlt g l (Ty.fmt t) rm imm x else s.srcInt g l t.width imm x

/-- An address source: 64 bits for segment G, else 32 bits zero-extended; IMM20 reads as 0 (R148). -/
def State.srcAddr (s : State) (g : Gang) (l : Nat) (isG : Bool) (x : Src) : Nat × Bool :=
  s.srcRaw g l (if isG then 64 else 32) x

/-! ### Destinations -/

/-- A result of type `t` as the bits written: 64 bits, or 32 after the extension of R42. -/
def extendTo (t : Ty) (v : Nat) : Nat :=
  if t.width = 64 then v % 2 ^ 64 else if t.signed then wrapN 32 (sext t.width v) else v % 2 ^ t.width

/-- An operand register written (R25); a wholly written value is no longer poisoned (R288). -/
def Lane.setO (x : Lane) (n : Nat) (v : Nat) : Lane :=
  { x with o := Tbl.put x.o n (BitVec.ofNat 32 v), oBad := x.oBad &&& ~~~ BitVec.ofNat 8 (2 ^ n) }

/-- A lane result of 32 or 64 bits written to the destination and the latch (R25, R81, R120). -/
def State.putResult (s : State) (u l : Nat) (wide : Bool) (d : Dst) (v : Nat) : State :=
  let toV := fun (s : State) (i : Nat) =>
    let s := s.writeReg u i l (v % 2 ^ 32)
    if wide then s.writeReg u (i + 1) l (v / 2 ^ 32) else s
  let toO := fun (s : State) (i : Nat) =>
    s.modGang u fun g => g.modLane l fun x =>
      let x := x.setO i (v % 2 ^ 32)
      if wide then x.setO (i + 1) (v / 2 ^ 32) else x
  let s := match d with
    | .v i => toV s i.toNat
    | .o j => toO s j.toNat
    | .vo i j => toO (toV s i.toNat) j.toNat
    | .latch => s
  s.modGang u fun g => g.modLane l fun x => { x with latch := BitVec.ofNat 64 v, latchBad := false }

/-- A result of type `t` written. -/
def State.putTy (s : State) (u l : Nat) (t : Ty) (d : Dst) (v : Nat) : State := s.putResult u l (t.width = 64) d (extendTo t v)

/-- A predicate result written to the predicate and the latch (R120). -/
def State.putPred (s : State) (u l : Nat) (d : Dst) (v : Bool) : State :=
  let n := match d with
    | .v i => i.toNat % 8
    | _ => 0
  s.modGang u fun g => g.modLane l fun x => { x.setPred n v with latch := BitVec.ofNat 64 (b2n v), latchBad := false }

end Sys2Proof.Machine
end

