-- ==== Sys2Proof/Machine/ScalarMem.lean ====
section
/-!
DEFINITION. Scalar loads and stores (R111 to R114) and the words that feed the lanes (R115 to R118).
-/

namespace Sys2Proof.Machine

/-! ### Checks of an access through a segment (R31, R112, R150) -/

/-- Where an access through a segment goes once its bounds and alignment are in order: a trap, a virtual address, an offset of the
segment, or an offset of the gang's own register window. -/
inductive Place where
  | bad (cause addr : Nat)
  | va (a : Nat)
  | off (o : Nat)
  | window (w : Nat)
  deriving DecidableEq, Repr

/-- The address that a trap of segment checks reports (notes/assumptions/24.md). -/
def Seg.address (x : Seg) (o : Nat) : Nat := (x.baseN + o) % 2 ^ 64

/-- The bounds, read-only and alignment checks of `n` bytes at offset `o` of segment `sg`, for a gang with `regs` registers per lane (R31, R112,
R113). G and K offsets become virtual addresses. -/
def Gang.place (g : Gang) (regs sg o n : Nat) (store : Bool) : Place :=
  let x := g.seg sg
  let a := x.address o
  let win := sg = 1 && 0x100000 ≤ o
  let top := if win then 0x100000 + regs * 128 else x.limit
  if top < o + n || (store && x.ros) then .bad cSBOUND a
  else if a % n ≠ 0 then .bad cALIGN a
  else if win then .window (o - 0x100000)
  else if sg = 0 || sg = 3 then .va (x.baseN + o)
  else .off o

/-- Registers per lane of a gang. -/
def State.regsOf (s : State) (g : Gang) : Nat := (s.recOf g).regs

/-! ### Loads and stores -/

/-- A scalar load of `n` bytes through segment `sg` into s[d] (R111, R112). -/
def State.scalarLoad (s : State) (sg n : Nat) (ext : Nat → Word64) (d a : SReg) (i : BitVec 13) :
    Host.Outcome State Fault Refusal :=
  s.issue fun u g =>
    let start := s
    let o := (g.sreg a + sx i).toNat
    let fin := fun (s : State) (bs : List Byte) => (s.modGang u fun g => g.setS d (ext (natOf bs))).advance u
    match g.place (s.regsOf g) sg o n false with
    | .bad c at_ => s.scalarTrap u c at_ 0 accLoad
    | .va va =>
      match s.translateFor (.scalar u) (.core (s.coreOf g)) (s.asidOf g) va .load with
      | (s, .bad k) => s.scalarFault u k va accLoad
      | (s, .ok pa _ _) =>
        match s.readPa (.scalar u) g.team (s.coreOf g) (s.asidOf g) pa n false [] with
        | .wait t => ((start.defer t (.scalar u) (s.asidOf g)).pin (.scalar u) [(va, pa)]).stall u .other
        | .bytes s _ bs bad =>
          let (bs, bad) := wcLoad g.wcs pa bs bad
          if bad then s.scalarTrap u cPOISON va 0 accLoad else fin s bs
    | .window w =>
      let (bs, bad) := s.readWindow g w n
      let s := s.chargeGang u wStore
      if bad then s.scalarTrap u cPOISON ((g.seg sg).address o) 0 accLoad else fin s bs
    | .off o =>
      let (bs, bad) := s.readScratch g.team o n
      let s := s.chargeGang u wStore
      if bad then s.scalarTrap u cPOISON ((g.seg sg).address o) 0 accLoad else fin s bs

/-- A scalar store of the low `n` bytes of s[b] through segment `sg` (R111, R112). A stamped item's store to a frozen line raises
SBOUND (R220). -/
def State.scalarPut (s : State) (sg n : Nat) (b a : SReg) (i : BitVec 13) : Host.Outcome State Fault Refusal :=
  s.issue fun u g =>
    let o := (g.sreg a + sx i).toNat
    let bs := bytesOf n (g.sreg b).toNat
    let frozen := sg = 1 && o < 0x100000 && o + n ≤ (g.seg 1).limit && s.frozenHit g g.team o n
    match (if frozen then .bad cSBOUND ((g.seg sg).address o) else g.place (s.regsOf g) sg o n true) with
    | .bad c at_ => s.scalarTrap u c at_ 0 accStore
    | .va va =>
      match s.translate (.core (s.coreOf g)) (s.asidOf g) va .store with
      | (s, .bad k) => s.scalarFault u k va accStore
      | (s, .ok pa _ _) => (s.scalarStore u (g.seg sg).wc pa bs).advance u
    | .window w => ((s.writeWindow u w bs).chargeGang u wStore).advance u
    | .off o => ((s.writeScratch u g.team o bs).chargeGang u wStore).advance u

/-- Zero extension of a loaded value. -/
def zx (x : Nat) : Word64 := BitVec.ofNat 64 x
/-- Sign extension of a loaded value of `n` bits. -/
def sxN (n x : Nat) : Word64 := BitVec.ofInt 64 (sext n x)

/-- SLDB (R111). -/
def execSldb (d a : SReg) (i : BitVec 13) (s : State) : Host.Outcome State Fault Refusal := s.scalarLoad 0 1 zx d a i
/-- SLDH (R111). -/
def execSldh (d a : SReg) (i : BitVec 13) (s : State) : Host.Outcome State Fault Refusal := s.scalarLoad 0 2 zx d a i
/-- SLDW (R111). -/
def execSldw (d a : SReg) (i : BitVec 13) (s : State) : Host.Outcome State Fault Refusal := s.scalarLoad 0 4 zx d a i
/-- SLDD (R111). -/
def execSldd (d a : SReg) (i : BitVec 13) (s : State) : Host.Outcome State Fault Refusal := s.scalarLoad 0 8 zx d a i
/-- SLDBX (R111). -/
def execSldbx (d a : SReg) (i : BitVec 13) (s : State) : Host.Outcome State Fault Refusal :=
  s.scalarLoad 0 1 (sxN 8) d a i
/-- SLDHX (R111). -/
def execSldhx (d a : SReg) (i : BitVec 13) (s : State) : Host.Outcome State Fault Refusal :=
  s.scalarLoad 0 2 (sxN 16) d a i
/-- SLDWX (R111). -/
def execSldwx (d a : SReg) (i : BitVec 13) (s : State) : Host.Outcome State Fault Refusal :=
  s.scalarLoad 0 4 (sxN 32) d a i
/-- SLDK (R111). -/
def execSldk (d a : SReg) (i : BitVec 13) (s : State) : Host.Outcome State Fault Refusal := s.scalarLoad 3 8 zx d a i
/-- SSTB (R111). -/
def execSstb (b a : SReg) (i : BitVec 13) (s : State) : Host.Outcome State Fault Refusal := s.scalarPut 0 1 b a i
/-- SSTH (R111). -/
def execSsth (b a : SReg) (i : BitVec 13) (s : State) : Host.Outcome State Fault Refusal := s.scalarPut 0 2 b a i
/-- SSTW (R111). -/
def execSstw (b a : SReg) (i : BitVec 13) (s : State) : Host.Outcome State Fault Refusal := s.scalarPut 0 4 b a i
/-- SSTD (R111). -/
def execSstd (b a : SReg) (i : BitVec 13) (s : State) : Host.Outcome State Fault Refusal := s.scalarPut 0 8 b a i
/-- SLDS (R111, R113). -/
def execSlds (d a : SReg) (i : BitVec 13) (s : State) : Host.Outcome State Fault Refusal := s.scalarLoad 1 8 zx d a i
/-- SSTS (R111, R113). -/
def execSsts (b a : SReg) (i : BitVec 13) (s : State) : Host.Outcome State Fault Refusal := s.scalarPut 1 8 b a i

/-! ### The lane queue -/

/-- LQ (R115): XLAT for a block beyond the code space, a wait for room, the drain of the stream's buffers, and the entry. -/
def execLq (a : SReg) (i : BitVec 13) (s : State) : Host.Outcome State Fault Refusal :=
  s.issue fun u g =>
    let n := (g.sreg a + sx i).toNat
    let va := (s.recOf g).lcbase + 12 * n
    if 2 ^ 48 ≤ n || 2 ^ 57 ≤ va then s.scalarTrap u cXLAT (va % 2 ^ 64) 7 accFetch
    else if 16 ≤ g.queue.length then s.stall u .other
    else
      let e : QEntry :=
        { idx := n, k := (List.range 16).map fun j => Tbl.atD g.s (32 + j) 0, den := g.mode.den, satd := g.mode.satd,
          rmd := g.mode.rmd, enq := (s.team g.team).nextEnq }
      ((s.drainScalar u).modGang u fun g => { g with queue := g.queue ++ [e] }).advance u

/-- Whether the conditions of R116 hold for gang `u`, once its cells' buffers have drained (R155). -/
def State.lanesDone (s : State) (u : Nat) : State × Bool :=
  let g := s.gang u
  if g.queue.isEmpty && g.block.isNone then
    let s := s.drainCells u
    (s, !s.writesOut fun w => match w with
      | .lane v _ => v = u
      | _ => false)
  else (s, false)

/-- A word that waits as LQW does, and then runs `f`. -/
def State.afterLanes (s : State) (u : Nat) (f : State → State) : State :=
  match s.lanesDone u with
  | (s, true) => f s
  | (s, false) => s.stall u .other

/-- LQW (R116). -/
def execLqw (s : State) : Host.Outcome State Fault Refusal :=
  s.issue fun u _ => s.afterLanes u fun s => s.advance u

/-- SGETL (R117). A poisoned register gives its bits (notes/assumptions/25.md). -/
def execSgetl (d : SReg) (r : BitVec 8) (l : BitVec 5) (s : State) : Host.Outcome State Fault Refusal :=
  s.issue fun u g =>
    if s.regsOf g ≤ r.toNat then s.illegal u
    else s.afterLanes u fun s =>
      let v := (s.readReg (s.gang u) r.toNat l.toNat).1
      ((s.modGang u fun g => g.setS d (zx v)).chargeGang u wStore).advance u

end Sys2Proof.Machine
end

