-- ==== Sys2Proof/Machine/Lanes.lean ====
section
/-!
DEFINITION. How a lane word runs: its active lanes (R19), its checks (R87), charges (R123), completion, waits and traps (R33, R87, R150, R151,
R288).
-/

namespace Sys2Proof.Machine

/-! ### Lanes and cells of the issuing group -/

/-- The lanes of a cell. -/
def lanesOf (c : Nat) : List Nat := (List.range 4).map (4 * c + ·)

/-- Whether a lane of cell `c` may act but for the guard: it has not exited, its mask bit is 1, and it is pending where the cell replays (R19,
R151). -/
def Gang.laneOn (g : Gang) (l : Nat) : Bool :=
  let x := g.cell (l / 4)
  !(g.lane l).exited && bit x.mask.toNat (l % 4) &&
    (match x.pending with
      | some m => bit m.toNat (l % 4)
      | none => true)

/-- Whether the guard of a word holds in a lane (R85). -/
def Gang.guard (g : Gang) (w : LaneOp) (l : Nat) : Bool := (g.lane l).pred w.pg.toNat != w.neg

/-- active(g) over the cells `cells`, in rising order (R9, R19). -/
def Gang.active (g : Gang) (cells : List Nat) (w : LaneOp) : List Nat :=
  (List.range 32).filter fun l => cells.contains (l / 4) && g.laneOn l && g.guard w l

/-- Whether a cell has a lane that has not exited. -/
def Gang.liveCell (g : Gang) (c : Nat) : Bool := (lanesOf c).any fun l => !(g.lane l).exited

/-- Lanes of the cells `cells` that their masks name and that have not exited (notes/assumptions/22.md). -/
def Gang.maskLanes (g : Gang) (cells : List Nat) : List Nat := (List.range 32).filter fun l => cells.contains (l / 4) && g.laneOn l

/-- The lanes of an issue group: those of its cells that have not exited and, where a cell replays, are pending (R420; notes/assumptions/22.md). -/
def Gang.groupLanes (g : Gang) (cells : List Nat) : List Nat :=
  (List.range 32).filter fun l => cells.contains (l / 4) && !(g.lane l).exited &&
    ((g.cell (l / 4)).pending.all fun m => bit m.toNat (l % 4))

/-- The cells of the lanes `ls`. -/
def cellsOf (ls : List Nat) : List Nat := (List.range 8).filter fun c => ls.any fun l => l / 4 = c

/-- The word index of the group. -/
def Gang.lpcOf (g : Gang) (cells : List Nat) : Nat := (g.cell ((cells.head?).getD 0)).lpc

/-- A charge of `n` eu for each cell of `cells`, but for a cell that replays after POISON (R123, R162). -/
def State.chargeCells (s : State) (u n : Nat) (cells : List Nat) : State :=
  let g := s.gang u
  s.chargeGang u (n * (cells.filter fun c => !(g.cell c).unpaid).length)

/-- A change of the energy counts undone: a replay pass after POISON is not charged (R162). -/
def State.keepAccount (t s : State) (asid : Nat) : State :=
  let c := s.ctx asid
  { t.modCtx asid fun x => { x with ectr := c.ectr, ecsat := c.ecsat, dtick := c.dtick } with energy := s.energy }

/-- Whether the pass in hand is not charged. -/
def Gang.unpaid (g : Gang) (cells : List Nat) : Bool := cells.any fun c => (g.cell c).unpaid

/-! ### Ends of a pass -/

/-- The cells go on at `lpc`: nothing is pending in them. -/
def Gang.goto_ (g : Gang) (cells : List Nat) (lpc : Nat) : Gang :=
  let g := cells.foldl (fun (g : Gang) c => g.modCell c fun x => { x with lpc := lpc % 2 ^ 48, pending := none, unpaid := false, wait := .none }) g
  { g with skipL := false }

/-- The word has completed in the cells `cells`, which go on at the next word. -/
def State.laneNext (s : State) (u : Nat) (cells : List Nat) : State := s.modGang u fun g => g.goto_ cells (g.lpcOf cells + 1)

/-- The issue group waits at its word; nothing else changes. -/
def State.laneStall (s : State) (u : Nat) (w : Wait) : State :=
  s.modGang u fun g => s.cells.foldl (fun (g : Gang) c => g.modCell c fun x => { x with wait := w }) g

/-- A lane trap of the issuing group (R224 to R226): `pend` are the pending lanes, `who` those that raise the cause. -/
def State.laneTrap (s : State) (u cause code : Nat) (pend who : List Nat) (addr fk acc : Nat) : State :=
  let g := s.gang u
  s.trapEntry u
    { cause := cause, code := code, lane := true, cells := maskOf s.cells, tspc := g.spc, tlpc := g.lpcOf s.cells,
      tmask := maskOf pend, taddr := addr, clanes := maskOf who, fkind := fk, acc := acc }

/-- ILLEGAL for the issuing group, which is not charged (R87, R123). -/
def State.laneIllegal (s : State) (u : Nat) : State :=
  let l := (s.gang u).maskLanes s.cells
  s.laneTrap u cILLEGAL 0 l l 0 0 0

/-- The end of a pass: the word completes, or POISON is raised for the lanes `bad`, with `pend` pending (R151, R288). -/
def State.lanePoison (s : State) (u : Nat) (pend bad : List Nat) : State :=
  if bad.isEmpty then s.laneNext u s.cells else s.laneTrap u cPOISON 0 pend bad 0 0 0

/-! ### Running a word -/

/-- A lane word runs in the gang named by `cur` for the cells of `cells`; one that breaks an encoding rule raises ILLEGAL (R86, R87). `act` are its
active lanes. -/
def State.laneRun (s : State) (opc : Nat) (w : LaneOp) (f : Nat → Gang → List Nat → State) : Host.Outcome State Fault Refusal :=
  match Tbl.at? s.gangs s.cur with
  | none => .fault .noIssuer
  | some g =>
    if laneOk opc w && laneFits opc w (s.regsOf g) then .next (f s.cur g (g.active s.cells w))
    else .next (s.laneIllegal s.cur)

/-- A word whose lanes each depend on their own sources only: `srcs` reads them, `f` gives the result and its flags, and `put` writes it. -/
def State.perLane (s : State) (opc : Nat) (w : LaneOp) (eu : Nat) (srcs : Gang → Nat → List (Nat × Bool))
    (f : Gang → Nat → List Nat → FRes) (put : State → Nat → Nat → Nat → State) : Host.Outcome State Fault Refusal :=
  s.laneRun opc w fun u g act =>
    let vals := act.map fun l => (l, srcs g l)
    let bad := (vals.filter fun e => e.2.any (·.2)).map (·.1)
    let ok := vals.filter fun e => !e.2.any (·.2)
    let s := s.chargeCells u eu (cellsOf act)
    let s := ok.foldl (fun (s : State) e =>
      let r := f g e.1 (e.2.map (·.1))
      (put s u e.1 r.bits).raise u r.flags) s
    s.lanePoison u bad bad

/-- A word whose results depend on other lanes' sources: with one poisoned source no lane performs (R288). `f` gives each active lane's result from
all active lanes' source values. -/
def State.acrossLanes (s : State) (opc : Nat) (w : LaneOp) (eu : Nat) (srcs : Gang → Nat → List (Nat × Bool))
    (f : Gang → List (Nat × List Nat) → Nat → FRes) (put : State → Nat → Nat → Nat → State) : Host.Outcome State Fault Refusal :=
  s.laneRun opc w fun u g act =>
    let vals := act.map fun l => (l, srcs g l)
    let bad := (vals.filter fun e => e.2.any (·.2)).map (·.1)
    let s := s.chargeCells u eu (cellsOf act)
    if bad.isEmpty then
      let ins := vals.map fun e => (e.1, e.2.map (·.1))
      let s := act.foldl (fun (s : State) l =>
        let r := f g ins l
        (put s u l r.bits).raise u r.flags) s
      s.lanePoison u [] []
    else s.lanePoison u act bad

end Sys2Proof.Machine
end

