-- ==== Sys2Proof/Machine/TaskRec.lean ====
section
/-!
DEFINITION. The tile-task record (R89), the checks that the record alone decides (R90, R189, R191), and the tensor record (R91).
-/

namespace Sys2Proof.Machine

/-- The fields of a tile-task record (R89). -/
structure TaskRec where
  opc : Nat
  fa : Nat
  fb : Nat
  dst : Nat
  bkind : Nat
  akind : Nat
  sat : Bool
  rnd : Nat
  kext : Nat
  dsh : Int
  ctv : Nat
  aloc : Nat
  bloc : Nat
  wait0 : Nat
  wait1 : Nat
  sig : Nat
  nw : Nat
  astr : Nat
  bstr : Nat
  sasc : Nat
  sbsc : Nat
  prog : Nat
  deriving DecidableEq, Repr

def TaskRec.of (r : List Byte) : TaskRec where
  opc := byteAt r 0
  fa := byteAt r 1 % 16
  fb := byteAt r 1 / 16
  dst := byteAt r 2 % 64
  bkind := byteAt r 3 / 64
  akind := byteAt r 3 / 16 % 4
  sat := bit (byteAt r 3) 3
  rnd := byteAt r 3 % 8
  kext := numAt r 4 2
  dsh := sext 8 (byteAt r 6)
  ctv := byteAt r 7
  aloc := numAt r 8 8
  bloc := numAt r 16 8
  wait0 := numAt r 24 2
  wait1 := numAt r 26 2
  sig := numAt r 28 2
  nw := byteAt r 30 % 2
  astr := numAt r 32 4
  bstr := numAt r 36 4
  sasc := numAt r 40 4
  sbsc := numAt r 44 4
  prog := numAt r 60 2

/-- The tag a wait or signal field names, when the field is valid (R89). -/
def tagField (x : Nat) : Option Nat := if bit x 15 then some (x % 64) else none

/-- Opcode numbers of R89. -/
def TaskRec.isMx (x : TaskRec) : Bool := x.opc = 1 || x.opc = 2

/-- Whether a format code is one of 4 bits: i4, e2m1 and LUT4 (R43). -/
def fourBit (f : Nat) : Bool := f = 1 || f = 5 || f = 7

/-- Byte offset of element `k` of a row in format `f` (R43, R90). -/
def elemByte (f k : Nat) : Nat := if fourBit f then k / 2 else k

/-- Columns of B: 32 or 64. -/
def TaskRec.cols (x : TaskRec) : Nat := 32 * (x.nw + 1)

/-- The tiles a task writes (R191). -/
def TaskRec.writes (x : TaskRec) : List Nat :=
  match x.opc with
  | 2 => (List.range (x.kext / 8)).map (x.dst + ·)
  | 3 => [x.dst]
  | _ => (List.range (x.nw + 1)).map (x.dst + ·)

/-- The tiles a task reads (R191). -/
def TaskRec.reads (x : TaskRec) : List Nat :=
  match x.opc with
  | 1 | 2 => if x.akind = 2 then (List.range (ceilDiv x.kext 32)).map (x.aloc + ·) else []
  | 3 => (List.range (x.kext / 8)).map (x.aloc + ·)
  | 5 | 6 => (List.range (x.nw + 1)).map (x.aloc + ·)
  | _ => []

/-- Bytes attached to SIG (R193). -/
def TaskRec.bytes (x : TaskRec) : Nat := 8192 * x.writes.length

/-- One past the last scratchpad byte of operand A, of B, and of the scale vectors of an SCACC, as far as the task has them there (R90, R200). -/
def TaskRec.scratchEnd (x : TaskRec) : Nat :=
  let a := if x.isMx && x.akind = 0 then x.aloc + 31 * x.astr + elemByte x.fa (x.kext - 1) + 1 else 0
  let b := if x.isMx && x.bkind = 0 then x.bloc + (x.kext - 1) * x.bstr + elemByte x.fb (x.cols - 1) + 1 else 0
  let c := if x.opc = 3 then (if x.sasc < x.sbsc then x.sbsc else x.sasc) + 16 * 31 + x.kext / 8 else 0
  let m := if a < b then b else a
  if m < c then c else m

/-- Whether the fields an opcode does not use are zero (R90). -/
def TaskRec.unusedZero (x : TaskRec) : Bool :=
  let z := fun (n : Nat) => n = 0
  let noScale := z x.sasc && z x.sbsc
  let noStr := z x.astr && z x.bstr
  let noB := z x.bkind && z x.bloc
  let noDc := !x.sat && x.dsh = 0
  match x.opc with
  | 1 | 2 =>
    noScale && (x.akind = 0 || z x.astr) && (x.bkind = 0 || z x.bstr) && (x.akind = 2 || (noDc && z x.rnd)) &&
      (x.opc = 1 || z x.nw)
  | 3 => z x.fa && z x.fb && z x.nw && noB && noStr && noDc
  | 4 => z x.fa && z x.fb && z x.akind && z x.aloc && noB && z x.kext && noStr && noDc && z x.rnd && noScale
  | 5 => z x.fb && noB && z x.kext && noStr && noDc && noScale
  | _ => z x.fa && z x.fb && noB && z x.kext && noStr && noDc && z x.rnd && noScale

/-- Whether the must-be-zero bits of a record are zero (R89). -/
def recordMbz (r : List Byte) : Bool :=
  byteAt r 2 < 64 && byteAt r 30 < 2 && byteAt r 31 = 0 && (r.drop 48).all (· = 0) && byteAt r 7 = 0

/-- Whether the record keeps the rules of R89 and R90 that it alone decides, for a team with `tiles`, `tags` and `scratch` (R189). A rounding code
of 7 names no mode (notes/assumptions/26.md). With AKIND 2, ALOC has nothing above its tile number (DESIGN CHOICE, notes/assumptions/128.md). -/
def taskOk (r : List Byte) (tiles tags scratch : Nat) : Bool :=
  let x := TaskRec.of r
  let tagOk := fun (n : Nat) => n / 64 % 512 = 0 && (!bit n 15 || n % 64 < tags)
  1 ≤ x.opc && x.opc ≤ 6 && recordMbz r && x.unusedZero && x.rnd < 7 &&
    tagOk x.wait0 && tagOk x.wait1 && tagOk x.sig &&
    (match x.opc with
      | 1 => x.kext % 8 = 0 && 8 ≤ x.kext && x.kext ≤ 65528
      | 2 | 3 => x.kext % 8 = 0 && 8 ≤ x.kext && x.kext ≤ 128
      | _ => true) &&
    (!x.isMx ||
      (x.fa < 8 && x.fb < 8 && x.akind ≤ 2 && x.bkind ≤ 1 && -64 ≤ x.dsh && x.dsh ≤ 63 &&
        (x.akind ≠ 2 || x.fa = 0 || x.fa = 2))) &&
    (x.isMx || x.opc = 4 || x.akind = 2) &&
    (x.opc ≠ 5 || x.fa < 2) &&
    (x.akind ≠ 2 || x.aloc < 64) &&
    x.writes.all (· < tiles) && x.reads.all (· < tiles) &&
    (!(x.isMx || x.opc = 3) || x.writes.all fun n => !x.reads.contains n) &&
    x.scratchEnd ≤ scratch

/-! ### Tensor records (R91) -/

structure TensorRec where
  base : Nat
  esize : Nat
  ndim : Nat
  rdim : Nat
  kdim : Nat
  ext : List Nat
  /-- Strides of dimensions 1 to 4 in bytes. -/
  str : List Int
  box : List Nat
  deriving DecidableEq, Repr

def TensorRec.of (r : List Byte) : TensorRec where
  base := numAt r 0 8
  esize := byteAt r 8
  ndim := byteAt r 9
  rdim := byteAt r 10 % 8
  kdim := byteAt r 10 / 16 % 8
  ext := (List.range 5).map fun i => numAt r (12 + 4 * i) 4
  str := (List.range 4).map fun i => sext 40 (numAt r (32 + 5 * i) 5)
  box := (List.range 5).map fun i => numAt r (52 + 2 * i) 2

/-- Width of an element code in bits, by ESIZE. -/
def TensorRec.ebits (x : TensorRec) : Nat := 4 * 2 ^ x.esize

/-- Whether a tensor record keeps the rules of R91 for an operand of `rows` rows or columns and `kext` elements of K. DESIGN CHOICE
(notes/assumptions/102.md): RDIM may equal KDIM, where the one box size meets both requirements. -/
def tensorOk (r : List Byte) (addr rows kext : Nat) : Bool :=
  let x := TensorRec.of r
  let at_ := fun (l : List Nat) i => (l[i]?).getD 0
  addr % 64 = 0 && x.base < 2 ^ 57 && x.esize < 5 && 1 ≤ x.ndim && x.ndim ≤ 5 &&
    !bit (byteAt r 10) 3 && !bit (byteAt r 10) 7 && byteAt r 11 = 0 && numAt r 62 2 = 0 &&
    x.rdim < x.ndim && x.kdim < x.ndim &&
    (List.range 5).all (fun i =>
      if i < x.ndim then
        (i ≠ x.rdim || at_ x.box i = rows) && (i ≠ x.kdim || at_ x.box i = kext) &&
          (i = x.rdim || i = x.kdim || at_ x.box i = 1)
      else at_ x.box i = 0 && at_ x.ext i = 0 && (i = 0 || (x.str[i - 1]?).getD 0 = 0))

/-- The bit address of element (row, k) of a tensor operand, counted in bits from the address of the box, or none beyond EXT (R91). Where
RDIM equals KDIM both indices count along that dimension (notes/assumptions/102.md). -/
def TensorRec.bitAt (x : TensorRec) (row k : Nat) : Option Int :=
  let at_ := fun (l : List Nat) i => (l[i]?).getD 0
  if row < at_ x.ext x.rdim && k < at_ x.ext x.kdim then
    let step : Nat → Nat → Int := fun d n =>
      if d = 0 then ((x.ebits * n : Nat) : Int) else 8 * ((x.str[d - 1]?).getD 0) * (n : Int)
    if (List.range 5).all (fun i => x.ndim ≤ i || i = x.rdim || i = x.kdim || 0 < at_ x.ext i) then
      some (step x.rdim row + step x.kdim k)
    else none
  else none

end Sys2Proof.Machine
end

