-- ==== Sys2Proof/Machine/Engine.lean ====
section
/-!
DEFINITION. The engine words: completion tags (R175, R176), copies (R177 to R180), shadows (R185 to R187), TRCHK (R188, R430), TTQ (R189, R190)
and CTSET (R198, R199). What the engines then do is in Machine/Copies.lean and Machine/TaskRun.lean.
-/

namespace Sys2Proof.Machine

/-! ### Tags -/

def Team.tag (t : Team) (n : Nat) : Tag := Tbl.atD t.tags n Tag.blank
def Team.setTag (t : Team) (n : Nat) (x : Tag) : Team := { t with tags := Tbl.put t.tags n x }

/-- Tags granted to a team. -/
def State.tagsOf (s : State) (t : Nat) : Nat := (s.gridOfTeam t).rcd.tags

/-- The greatest COUNT (R175). -/
def tagMax : Nat := 2 ^ 48 - 1

/-- Work of `n` bytes attached to a tag (R175). -/
def State.tagAdd (s : State) (t n bytes : Nat) : State :=
  s.modTeam t fun x => x.setTag n { x.tag n with count := (x.tag n).count + bytes, done := false }

/-- The waits on a tag that has reached COUNT 0 are satisfied (R175). -/
def Task.tagZero (x : Task) (n : Nat) : Task :=
  let r := TaskRec.of x.rcd
  { x with
    wait0 := x.wait0 || tagField r.wait0 = some n
    wait1 := x.wait1 || tagField r.wait1 = some n }

/-- Attached work that wrote the G ranges `dests` completes: COUNT falls, DONE follows COUNT 0, ERR is sticky (R175). -/
def State.tagSub (s : State) (t n bytes : Nat) (err : Bool) (dests : List (Nat × Nat)) : State :=
  s.modTeam t fun x =>
    let g := x.tag n
    let c := g.count - bytes
    let x := x.setTag n { count := c, done := g.done || c = 0, err := g.err || err,
                             dests := g.dests ++ dests.filter fun r => !g.dests.contains r }
    if c = 0 then { x with tasks := x.tasks.map fun k => k.tagZero n } else x

/-- TAGX (R176). -/
def execTagx (d : SReg) (n : BitVec 6) (s : State) : Host.Outcome State Fault Refusal :=
  s.issue fun u g =>
    if s.tagsOf g.team ≤ n.toNat then s.illegal u
    else
      let x := (s.team g.team).tag n.toNat
      (s.setGang u (g.setS d (BitVec.ofNat 64 (b2n x.done * 2 ^ 63 + b2n x.err * 2 ^ 62 + x.count)))).advance u

/-! ### Copies -/

/-- Whether `n` bytes at offset `o` fit a segment, or the gang's own window through S (R31, R179). -/
def Gang.fits (g : Gang) (regs sg o n : Nat) : Bool :=
  if sg = 1 && 0x100000 ≤ o then o + n ≤ 0x100000 + regs * 128 else o + n ≤ (g.seg sg).limit

/-- Whether two ranges of addresses share a byte. -/
def overlap (a n b m : Nat) : Bool := n ≠ 0 && m ≠ 0 && a < b + m && b < a + n

/-- The base in segment `sg` of the scratchpad of a team, where the segment reaches it: S the gang's own, D those of its cluster, M those of its
context (R28, R267, R282). -/
def State.scratchBase (s : State) (g : Gang) (sg t : Nat) : Option Nat :=
  let tm := s.team t
  match sg with
  | 1 => if t = g.team then some 0 else none
  | 2 => if tm.cluster = (s.team g.team).cluster then some (tm.idx * (s.recOf g).scratch) else none
  | 5 =>
    let cores := s.coresOf (s.ctxOf g).part
    if s.asidOfTeam t = s.asidOf g && tm.image.isNone && cores.contains tm.core then
      some (cores.idxOf tm.core * 2 ^ 22 + tm.sbase * 128)
    else none
  | _ => none

/-- The offsets in segment `sg` of the scratchpad lines frozen against gang `g` (R220). -/
def State.frozenAt (s : State) (g : Gang) (sg : Nat) : List Nat :=
  s.teams.flatMap fun e =>
    match s.scratchBase g sg e.1 with
    | some b => (e.2.frozen.filter fun f => (s.ancestors 4 g).contains f.2).map fun f => b + 128 * f.1
    | none => []

/-- Whether a range of M touches a read-only sub-window (R183, R282). -/
def readOnlyRange (cores o n : Nat) : Bool :=
  (List.range cores).any fun c =>
    overlap o n (c * 2 ^ 22 + 0x100000) 0x100000 || overlap o n (c * 2 ^ 22 + 0x280000) 0x180000

/-- The element size of a reduction code (R178). -/
def bredSize (op : Nat) : Nat := if op = 1 then 2 else if op = 3 || op = 8 || op = 9 then 8 else 4

/-- The checks and the queueing of BCOPY and BRED (R179, R180). -/
def State.copyWord (s : State) (n : BitVec 6) (a b : SReg) (dseg sseg : Nat) (legal : Bool) (op : Option (BitVec 4)) :
    Host.Outcome State Fault Refusal :=
  s.issue fun u g =>
    let t := s.team g.team
    let dst := (g.sreg a).toNat
    let src := (g.sreg (a + 1)).toNat
    let c := (g.sreg b).toNat
    let dA := (g.seg dseg).address dst
    let sA := (g.seg sseg).address src
    let regs := s.regsOf g
    let e := match op with
      | some o => bredSize o.toNat
      | none => 1
    if !legal || s.tagsOf g.team ≤ n.toNat then s.illegal u
    else if c = 0 then s.advance u
    else if 2 ^ 40 < c || !g.fits regs dseg dst c || (g.seg dseg).ros ||
        (s.frozenAt g dseg).any (fun l => overlap dst c l 128) ||
        (dseg = 5 && readOnlyRange (s.coresOf (s.ctxOf g).part).length dst c) then s.scalarTrap u cSBOUND dA 0 0
    else if !g.fits regs sseg src c then s.scalarTrap u cSBOUND sA 0 0
    else if dst % e ≠ 0 || c % e ≠ 0 then s.scalarTrap u cALIGN dA 0 0
    else if src % e ≠ 0 then s.scalarTrap u cALIGN sA 0 0
    else if 32 ≤ t.copies.length || tagMax < (t.tag n.toNat).count + c then s.stall u .other
    else
      let va := fun (sg o : Nat) => if sg = 0 || sg = 3 then (g.seg sg).baseN + o else o
      let x : Copy :=
        { op := op, seq := t.nextCopy, gang := u, gidx := g.idx, tag := n.toNat, dseg := dseg, sseg := sseg, dst := va dseg dst, src := va sseg src,
          count := c, prog := 0, engine := none, fault := none, landing := none }
      ((s.tagAdd g.team n.toNat c).modTeam g.team fun t => { t with copies := t.copies ++ [x], nextCopy := t.nextCopy + 1 }).advance u

/-- BCOPY (R177, R179, R180). -/
def execBcopy (n : BitVec 6) (a b : SReg) (x y : BitVec 3) (s : State) : Host.Outcome State Fault Refusal :=
  s.copyWord n a b x.toNat y.toNat (bcopyOk a x y) none

/-- BRED (R178, R179, R180). -/
def execBred (n : BitVec 6) (a b : SReg) (x : BitVec 3) (o : BitVec 4) (s : State) : Host.Outcome State Fault Refusal :=
  s.copyWord n a b x.toNat 1 (bredOk a x o) (some o)

/-! ### Tasks -/

/-- A 64-byte image captured from scratchpad (R189, R198): its bytes, or the trap of its bounds, alignment or poison. -/
def State.captureScratch (s : State) (g : Gang) (o : Nat) : Nat ⊕ List Byte :=
  if (g.seg 1).limit < o + 64 then .inl cSBOUND
  else if o % 64 ≠ 0 then .inl cALIGN
  else
    let (bs, bad) := s.readScratch g.team o 64
    if bad then .inl cPOISON else .inr bs

/-- The teams whose cores lie in a region. -/
def State.teamsIn (s : State) (r : Nat) : List Nat :=
  Tbl.keysOf s.teams fun t => t.image.isNone && regionOfCore t.core = r

/-- The rounding mode a record selects (R68). -/
def recordRm (rnd : Nat) (rmd : BitVec 3) : BitVec 3 := if rnd = 0 then rmd else BitVec.ofNat 3 rnd

/-- TTQ (R189, R190): the record is captured and checked, and the task takes the team's next enqueue number. -/
def execTtq (a : SReg) (i : BitVec 13) (s : State) : Host.Outcome State Fault Refusal :=
  s.issue fun u g =>
    let o := (g.sreg a + sx i).toNat
    match s.captureScratch g o with
    | .inl c => s.scalarTrap u c ((g.seg 1).address o) 0 0
    | .inr bs =>
      let t := s.team g.team
      let r := s.recOf g
      if !taskOk bs r.tiles r.tags r.scratch then s.scalarTrap u cTASKFMT ((g.seg 1).address o) 0 0
      else
        let x := TaskRec.of bs
        let full := 64 ≤ t.tasks.length ||
          512 ≤ ((s.teamsIn (s.regOf g)).map fun k => (s.team k).tasks.length).foldl (· + ·) 0 ||
          (match tagField x.sig with
            | some n => tagMax < (t.tag n).count + x.bytes
            | none => false)
        if full then s.stall u .other
        else
          let free := fun (w : Nat) => match tagField w with
            | some n => (t.tag n).count = 0
            | none => true
          let k : Task :=
            { rcd := bs.set 7 (BitVec.ofNat 8 t.ctCur.version), enq := t.nextEnq, gang := u, gidx := g.idx, soff := o, ctv := t.ctCur.version,
              rmd := g.mode.rmd, prog := 0, engine := none, wait0 := free x.wait0, wait1 := free x.wait1, tensA := none, tensB := none,
              flags := 0, fault := none }
          let s := match tagField x.sig with
            | some n => s.tagAdd g.team n x.bytes
            | none => s
          let s := s.modTeam g.team fun t => { t with tasks := t.tasks ++ [k], nextEnq := t.nextEnq + 1 }
          (s.chargeGang u wStore).advance u

/-- A code-table image with the reserved marking of R60. -/
def codeTableOf (bs : List Byte) (version : Nat) : CodeTable :=
  let entries := (List.range 16).map fun i => BitVec.ofNat 16 (numAt bs (2 * i) 2)
  let mask := numAt bs 32 2
  let res := (List.range 16).filter fun i => bit mask i || !lutUsable ((entries[i]?).getD 0)
  { version := version, entries := entries, reserved := BitVec.ofNat 16 (maskOf res) }

/-- CTSET (R198, R199). -/
def execCtset (a : SReg) (i : BitVec 13) (s : State) : Host.Outcome State Fault Refusal :=
  s.issue fun u g =>
    let o := (g.sreg a + sx i).toNat
    match s.captureScratch g o with
    | .inl c => s.scalarTrap u c ((g.seg 1).address o) 0 0
    | .inr bs =>
      let t := s.team g.team
      if (bs.drop 34).any (· ≠ 0) then s.scalarTrap u cTASKFMT ((g.seg 1).address o) 0 0
      else if t.tasks.any fun k => k.ctv = t.ctOld.version then s.stall u .other
      else
        let s := s.modTeam g.team fun t =>
          { t with ctOld := t.ctCur, ctCur := codeTableOf bs ((t.ctCur.version + 1) % 256) }
        (s.chargeGang u wStore).advance u

/-! ### Shadows -/

/-- The virtual addresses of a context's shadow window: its level-4 entries with V = 0 and KIND 4 (R299). -/
def reserveFrom (m : Mem) : List (Nat × Nat × Nat) → (level table va : Nat) → List Nat
  | [], _, _, _ => []
  | (hi, lo, _) :: rest, level, table, va =>
    (List.range (2 ^ (hi + 1 - lo))).flatMap fun i =>
      let e := natOf (Mem.read m (table + 8 * i) 8)
      let v := va + i * 2 ^ lo
      if e = 0 || pteMalformed level e then []
      else if !pteV e then (if level = 4 && pteKind e = 4 then [v] else [])
      else if pteLeaf e then []
      else reserveFrom m rest (level + 1) (pteAddr e) v

/-- The lowest run of `n` reserved pages that lies in a range (R185, R299). -/
def lowestRun (pages : List Nat) (n base limit : Nat) : Option Nat :=
  pages.find? fun v =>
    base ≤ v && v + n * 65536 ≤ base + limit && (List.range n).all fun j => pages.contains (v + j * 65536)

/-- The level-4 entry of a page: its address and its value. -/
def State.pte4 (s : State) (asid va : Nat) : Option (Nat × Nat) :=
  match s.peek asid va with
  | .leaf addr 4 e _ => some (addr, e)
  | .unmapped addr 4 e => some (addr, e)
  | _ => none

/-- The charge of a page filled with zeros (R238, R208). -/
def zeroCharge : Nat := wCopy * 1024

/-- A fresh page of the pool mapped for a twin (R299). -/
def State.mapTwin (s : State) (asid va : Nat) : State :=
  match s.popPool (s.ctx asid).part, s.pte4 asid va with
  | some (page, s), some (addr, _) => (s.zeroPage asid page).writePte asid addr (page + 7)
  | _, _ => s

/-- A twin page returned to the pool and its entry restored (R299). -/
def State.unmapTwin (s : State) (asid va : Nat) : State :=
  match s.pte4 asid va with
  | some (addr, e) => (s.writePte asid addr (4 * 2 ^ 60)).pushPool (s.ctx asid).part (pteAddr e)
  | none => s

/-- A shadow removed with its twin (R185, R299). -/
def State.dropShadow (s : State) (asid base : Nat) : State :=
  match (s.ctx asid).shadows.find? fun x => x.base = base with
  | none => s
  | some x =>
    let s := (pagesOf x.twin x.len).foldl (fun s p => s.unmapTwin asid p) s
    let s := s.modCtx asid fun c => { c with shadows := c.shadows.filter fun y => y.base ≠ base }
    s.dropTlb (s.ctx asid).part fun e => e.asid = asid && overlap (e.vbase * 2 ^ e.bits) (2 ^ e.bits) x.twin x.len

/-- The live shadow or twin range that holds an address. -/
def Ctx.shadowOf (c : Ctx) (va : Nat) : Option Shadow :=
  c.shadows.find? fun x => overlap va 1 x.base x.len || overlap va 1 x.twin x.len

/-- The first of some pages whose probe faults, with the fault kind: with XLAT, or with any fault (R293). -/
def State.firstFault (s : State) (asid : Nat) (pages : List Nat) (xlat : Bool) : Option (Nat × Nat) :=
  pages.findSome? fun p =>
    if 2 ^ 57 ≤ p then some (p, 7)
    else match s.walkXl (s.walkOf asid p).2 p .probe with
      | .bad k => if xlat && k = 2 then none else some (p, k)
      | .ok _ _ _ => none

/-- The walks of those pages of a list that neither the core's TLB nor its region's holds, charged (R296). -/
def State.chargeMisses (s : State) (core asid : Nat) (vas : List Nat) : State :=
  let held := s.tlbEntries (.core core) ++ s.tlbEntries (.region (regionOfCore core))
  s.chargePeeks asid (vas.filter fun va => !held.any fun e => e.covers asid va)

/-- SHADOW (R185). The walks of its pages are charged where no TLB has them (R208, R296). The base that must be a multiple of 64 KiB is the virtual one
(notes/assumptions/27.md). The checks of the base come first also where the length is 0 (DESIGN CHOICE, notes/assumptions/114.md). Each 64 KiB of the twin
takes one page of the pool (DEDUCED, notes/assumptions/131.md). -/
def execShadow (d a b : SReg) (s : State) : Host.Outcome State Fault Refusal :=
  s.issue fun u g =>
    let o := (g.sreg a).toNat
    let n := (g.sreg b).toNat
    let x := g.seg 0
    let va := x.baseN + o
    let asid := s.asidOf g
    let core := s.coreOf g
    let c := s.ctx asid
    let put := fun (s : State) (v : Nat) => (s.modGang u fun g => g.setS d (BitVec.ofNat 64 v)).advance u
    let same := c.shadows.find? fun y => y.base = va && y.len = n
    let clash := c.shadows.any fun y => (overlap va n y.base y.len && !(y.base = va && y.len = n)) || overlap va n y.twin y.len
    if x.limit < o + n || clash || (same.isNone && n ≠ 0 && 256 ≤ c.shadows.length) then s.scalarTrap u cSBOUND (x.address o) 0 0
    else if va % 65536 ≠ 0 || n % 65536 ≠ 0 then s.scalarTrap u cALIGN (x.address o) 0 0
    else if n = 0 then
      if c.shadows.any fun y => y.base = va then put (s.dropShadow asid va) 0 else s.advance u
    else
      let pages := (List.range (n / 65536)).map fun i => va + i * 65536
      -- XLAT comes before OWN (R88).
      match s.firstFault asid pages true <|> s.firstFault asid pages false with
      | some (p, k) => (s.chargeMisses core asid (if k = 2 then pages else pages.takeWhile (· ≤ p))).scalarFault u k p 0
      | none =>
        let s := s.chargeMisses core asid pages
        match same with
        | some y => put s (y.twin + 2 ^ 64 - x.baseN)
        | none =>
          let small := pages.all fun p => match s.peek asid p with
            | .leaf _ 4 _ _ => true
            | _ => false
          match small, lowestRun (reserveFrom (s.memOf asid) walkLevels 1 c.l1 0) pages.length x.baseN x.limit with
          | true, some twin =>
            if (s.part c.part).pool.length < pages.length then put s 0
            else
              let s := (List.range pages.length).foldl (fun s i => s.mapTwin asid (twin + i * 65536)) s
              let s := s.chargeGang u (zeroCharge * pages.length)
              let s := s.modCtx asid fun c => { c with shadows := c.shadows ++ [{ base := va, len := n, twin := twin, gen := 0 }] }
              put s (twin - x.baseN)
          | _, _ => put s 0

/-- The pages mapped at two addresses exchanged (R187, R299). -/
def State.swapPages (s : State) (asid p q : Nat) : State :=
  match s.pte4 asid p, s.pte4 asid q with
  | some (pa, pe), some (qa, qe) =>
    let sub := fun (e a : Nat) => e - pteAddr e + a
    (s.writePte asid pa (sub pe (pteAddr qe))).writePte asid qa (sub qe (pteAddr pe))
  | _, _ => s

/-- Every L1 and L2 copy of a page's lines in a partition invalidated, once what is dirty has been written back (R187; notes/assumptions/47.md). -/
def State.dropPageCopies (s : State) (asid part pa : Nat) : State :=
  let inPage := fun line => pa / 128 ≤ line && line < pa / 128 + 512
  let dirty := Tbl.keysOf (s.home.filter fun e => inPage e.1 && (s.regionsOf part).contains (homeOf (128 * e.1))) fun d => d.dirty
  let s := dirty.foldl (fun (s : State) line => s.payWriteBack asid line) s
  let s := (s.coresOf part).foldl (fun (s : State) c => s.dropL1 c inPage) s
  let s := (s.regionsOf part).foldl (fun (s : State) r => s.dropNear r inPage) s
  let regs := s.regionsOf part
  { s with home := s.home.filter fun e => !(inPage e.1 && regs.contains (homeOf (128 * e.1))) }

/-- PUBLISH (R187). -/
def execPublish (a : SReg) (s : State) : Host.Outcome State Fault Refusal :=
  s.issue fun u g =>
    let x := g.seg 0
    let o := (g.sreg a).toNat
    let va := x.baseN + o
    let asid := s.asidOf g
    let c := s.ctx asid
    match c.shadows.find? fun y => y.base = va with
    | none => s.scalarTrap u cSBOUND (x.address o) 0 0
    | some y =>
      let s := s.drainScalar u
      let mine := (s.team g.team).copies.any fun k =>
        k.gang = u && k.dseg = 0 && (overlap k.dst k.count y.base y.len || overlap k.dst k.count y.twin y.len)
      if mine then s.stall u .other
      else
        let pages := (List.range (y.len / 65536)).map (· * 65536)
        let both := pages.flatMap fun i => [y.base + i, y.twin + i]
        let s := s.chargeMisses (s.coreOf g) asid both
        let phys := both.filterMap fun p => s.peekPa asid p
        let s := phys.foldl (fun (s : State) pa => s.dropPageCopies asid c.part pa) s
        -- An access on its way that has still to perform reads the page that is mapped then (R256).
        let s : State := { s with pins := s.pins.filter fun z => !phys.any fun pa => z.pa / 65536 = pa / 65536 }
        let s := pages.foldl (fun (s : State) i => s.swapPages asid (y.base + i) (y.twin + i)) s
        let s := s.dropTlb c.part fun e =>
          e.asid = asid && (overlap (e.vbase * 2 ^ e.bits) (2 ^ e.bits) y.base y.len ||
            overlap (e.vbase * 2 ^ e.bits) (2 ^ e.bits) y.twin y.len)
        let s := s.modCtx asid fun c =>
          { c with shadows := c.shadows.map fun z => if z.base = va then { z with gen := z.gen + 1 } else z }
        s.advance u

/-! ### TRCHK -/

/-- The status word of TRCHK (R188, R430). -/
def State.probeWord (s : State) (asid va : Nat) (inside : Bool) : Nat :=
  let sh := (s.ctx asid).shadowOf va
  let shad := b2n sh.isSome * 2 ^ 60
  let gen := match sh with
    | some x => x.gen.toNat * 2 ^ 8
    | none => 0
  let none_ := 3 * 2 ^ 57
  if !inside || 2 ^ 57 ≤ va then shad + none_ + 1
  else
    match s.peek asid va with
    | .malformed => shad + none_ + 5
    | .unmapped _ _ e =>
      shad + none_ + b2n (ptePool e) * 2 ^ 61 + (if pteKind e = 0 && ptePool e then 4 else 2)
    | .leaf _ _ e size =>
      let pool := b2n (ptePool e) * 2 ^ 61
      if pteHost e then shad + none_ + pool + 3
      else 2 ^ 63 + b2n (pteW e) * 2 ^ 62 + pool + shad + b2n (pteKind e = 1) * 2 ^ 59 + (size - 16) / 10 * 2 ^ 57 + gen

/-- TRCHK (R188). -/
def execTrchk (d a : SReg) (i : BitVec 13) (s : State) : Host.Outcome State Fault Refusal :=
  s.issue fun u g =>
    let x := g.seg 0
    let o := (g.sreg a + sx i).toNat
    let w := s.probeWord (s.asidOf g) (x.baseN + o) (o < x.limit)
    let s := if o < x.limit then s.chargePeek (s.asidOf g) (x.baseN + o) else s
    (s.setGang u (g.setS d (BitVec.ofNat 64 w))).advance u

end Sys2Proof.Machine
end

