-- ==== Sys2Proof/Machine/Sync.lean ====
section
/-!
DEFINITION. Barriers (R211), tag words (R213), FENCE, ACQ, REL, BIND and UNBIND (R169 to R173), and events (R215).
-/

namespace Sys2Proof.Machine

/-! ### Releases and acquires (R249 to R253) -/

/-- A release at a scope by gang `u`: the stream's buffers drain, and from domain scope outward the writes of the context's gangs on the way to another
device must have been acknowledged, those that the gang has observed among them (R252; notes/assumptions/96.md); the flag tells whether it is complete
(R155, R169, R245, R259). -/
def State.release (s : State) (u scope : Nat) : State × Bool :=
  let s := s.drainScalar u
  (s, scope < 4 || !s.ctxWritesOut (s.asidOf (s.gang u)))

/-- An acquire of every range by gang `u`. -/
def State.acquireAll (s : State) (u scope : Nat) : State := s.acquire (s.coreOf (s.gang u)) scope fun _ => true

/-- The bindings of an object: the live ones, and those removed, whose coverage the writes made under them keep (R253; notes/assumptions/97.md). -/
def Ctx.boundTo (c : Ctx) (p : Binding → Bool) : List Binding := (c.binds ++ c.unbound).filter p

/-- An acquire of the ranges bound to an object, each at the wider of the two scopes (R253). -/
def State.acquireBound (s : State) (core asid scope : Nat) (p : Binding → Bool) : State :=
  ((s.ctx asid).boundTo p).foldl (fun (s : State) b =>
    s.acquire core (if scope < b.scope then b.scope else scope) (s.lineIn asid [(b.base, b.len)])) s

/-- The widest scope of an operation and of the bindings of its object. -/
def State.widest (s : State) (asid scope : Nat) (p : Binding → Bool) : Nat :=
  ((s.ctx asid).boundTo p).foldl (fun m b => if m < b.scope then b.scope else m) scope

/-- Object kinds (R78). -/
def kBarrier : Nat := 0
def kTag : Nat := 1
def kQueue : Nat := 2
def kKey : Nat := 3

/-- The owner that tells instances of a barrier name apart (R78). -/
def State.barOwner (s : State) (g : Gang) (u b : Nat) : Nat :=
  let t := s.team g.team
  match bidLevel b with
  | 0 => u
  | 1 => g.team
  | 2 => t.cluster
  | 3 => 8 * t.grid + (s.cluster t.cluster).cohort
  | _ => t.grid

/-! ### Barriers -/

/-- Whether the launch record grants a barrier name to a gang (R41, R78). -/
def LaunchRec.grants (r : LaunchRec) (b : Nat) : Bool :=
  match bidLevel b with
  | 1 => bidIdx b < r.ntb
  | 2 => bidIdx b < r.ncb
  | 3 => bidIdx b < r.nkb
  | 4 => bidIdx b < r.nxb && r.cor
  | _ => false

/-- Whether an outstanding arrival's phase is not yet complete. -/
def State.phaseOpen (s : State) (g : Gang) (b : Nat) : Bool := s.arrivedAt g b

/-- The arrival of BARA, after its waits (R211). -/
def State.arriveBar (s : State) (u b : Nat) : State :=
  let t := (s.gang u).team
  let x := s.barrier t b
  let s := s.modGang u fun g => { g with armed := Tbl.put g.armed b x.phase }
  s.setBarrier t b x.arrive

/-- The bindings of a barrier as gang `u` names it. -/
def State.isBar (s : State) (u b : Nat) (x : Binding) : Bool :=
  x.kind = kBarrier && x.owner = s.barOwner (s.gang u) u b && x.name = b

/-- The release of a barrier's arrival, at the wider scope of the barrier and of its bindings (R210, R253); at an xb barrier the switch has accepted the
gang's contributions too (R257). -/
def State.releaseBar (s : State) (u b : Nat) : State × Bool :=
  let (t, ok) := s.release u (s.widest (s.asidOf (s.gang u)) (barScope (bidLevel b)) (s.isBar u b))
  (t, ok && !(bidLevel b = 4 && t.contributesOut u))

/-- The end of BARW: no outstanding arrival, and the acquire of the ranges bound to the barrier (R211). -/
def State.passBar (s : State) (u b : Nat) : State :=
  let g := s.gang u
  let s := s.acquireBound (s.coreOf g) (s.asidOf g) (barScope (bidLevel b)) (s.isBar u b)
  (s.modGang u fun g => { g with armed := Tbl.del g.armed b, bar := none }).advance u

/-- The barrier a scalar barrier word names. -/
def bidOf (l : BitVec 3) (x : BitVec 4) : Nat := l.toNat * 16 + x.toNat

/-- A barrier word: ILLEGAL for a name that is no barrier of the gang (R78, R88). -/
def State.barWord (s : State) (l : BitVec 3) (x : BitVec 4) (f : Nat → Gang → Nat → State) : Host.Outcome State Fault Refusal :=
  s.issue fun u g => if bidOk l x && (s.recOf g).grants (bidOf l x) then f u g (bidOf l x) else s.illegal u

/-- BARA (R211). -/
def execBara (l : BitVec 3) (x : BitVec 4) (s : State) : Host.Outcome State Fault Refusal :=
  s.barWord l x fun u g b =>
    if s.phaseOpen g b then s.stall u (.bar b)
    else match s.releaseBar u b with
      | (s, true) => (s.arriveBar u b).advance u
      | (s, false) => s.stall u .other

/-- BARW (R211). -/
def execBarw (l : BitVec 3) (x : BitVec 4) (s : State) : Host.Outcome State Fault Refusal :=
  s.barWord l x fun u g b => if s.phaseOpen g b then s.stall u (.bar b) else s.passBar u b

/-- BAR: BARA, then BARW, as one instruction; `bar` holds the barrier once the arrival has been counted (R211). -/
def execBar (l : BitVec 3) (x : BitVec 4) (s : State) : Host.Outcome State Fault Refusal :=
  s.barWord l x fun u g b =>
    if s.phaseOpen g b then s.stall u (.bar b)
    else if g.bar = some b then s.passBar u b
    else match s.releaseBar u b with
      | (s, true) =>
        let s := (s.arriveBar u b).modGang u fun g => { g with bar := some b }
        if s.phaseOpen (s.gang u) b then s.stall u (.bar b) else s.passBar u b
      | (s, false) => s.stall u .other

/-! ### Tag words -/

/-- The acquire of a completing tag wait: the G destinations of the observed work and the ranges bound to the tag (R213, R250). -/
def State.acquireTag (s : State) (u n : Nat) : State :=
  let g := s.gang u
  let core := s.coreOf g
  let asid := s.asidOf g
  let s := s.acquire core 3 (s.lineIn asid ((s.team g.team).tag n).dests)
  s.acquireBound core asid 0 fun x => x.kind = kTag && x.owner = g.team && x.name = n

/-- A word on the tags of a mask: ILLEGAL for a bit at or above the grant (R213). -/
def State.tagWord (s : State) (a : SReg) (f : Nat → Gang → List Nat → State) : Host.Outcome State Fault Refusal :=
  s.issue fun u g =>
    let m := (g.sreg a).toNat
    if m < 2 ^ s.tagsOf g.team then f u g (setBits 64 m) else s.illegal u

/-- WAITALL (R213). -/
def execWaitall (a : SReg) (s : State) : Host.Outcome State Fault Refusal :=
  s.tagWord a fun u g l =>
    if l.all fun n => ((s.team g.team).tag n).count = 0 then (l.foldl (fun s n => s.acquireTag u n) s).advance u
    else s.stall u (.tags (maskOf l))

/-- WAITANY (R213). -/
def execWaitany (d a : SReg) (s : State) : Host.Outcome State Fault Refusal :=
  s.tagWord a fun u g l =>
    if l.isEmpty then (s.setGang u (g.setS d 64)).advance u
    else match l.find? fun n => ((s.team g.team).tag n).done with
      | some n => ((s.acquireTag u n).modGang u fun g => g.setS d (BitVec.ofNat 64 n)).advance u
      | none => s.stall u (.tags (maskOf l))

/-- TAGFF (R213). -/
def execTagff (d a : SReg) (s : State) : Host.Outcome State Fault Refusal :=
  s.tagWord a fun u g l =>
    let n := (l.find? fun n => ((s.team g.team).tag n).done).getD 64
    (s.setGang u (g.setS d (BitVec.ofNat 64 n))).advance u

/-- TAGCLR (R213). -/
def execTagclr (a : SReg) (s : State) : Host.Outcome State Fault Refusal :=
  s.tagWord a fun u g l =>
    (s.modTeam g.team fun t =>
      l.foldl (fun t n => t.setTag n { t.tag n with done := false, err := false }) t).advance u

/-! ### Fences, key words and bindings -/

/-- Whether a ROWPIN of gang `u` is not yet performed: the slot it names is still opening (R164, R169). -/
def State.pinsOut (s : State) (u t : Nat) : Bool :=
  (List.range 8).any fun n => ((s.team t).row n).st = .opening && ((s.team t).row n).pinner = u

/-- FENCE (R169, R250). -/
def execFence (sc : BitVec 3) (s : State) : Host.Outcome State Fault Refusal :=
  s.issue fun u g =>
    if !scopeOk sc then s.illegal u
    else if s.pinsOut u g.team then (s.drainScalar u).stall u .other
    else match s.release u sc.toNat with
      | (s, true) => (s.acquireAll u sc.toNat).advance u
      | (s, false) => s.stall u .other

/-- The bindings of a key word (R78). -/
def isKey (va : Nat) (x : Binding) : Bool := x.kind = kKey && x.name = va

/-- ACQ (R171). ALIGN is judged on the virtual address, BASE plus offset (DEDUCED, notes/assumptions/122.md). -/
def execAcq (d a : SReg) (sc : BitVec 3) (s : State) : Host.Outcome State Fault Refusal :=
  s.issue fun u g =>
    let core := s.coreOf g
    let asid := s.asidOf g
    if !scopeOk sc then s.illegal u
    else match g.place (s.regsOf g) 0 (g.sreg a).toNat 8 false with
      | .bad c at_ => s.scalarTrap u c at_ 0 accLoad
      | .window _ | .off _ => s
      | .va va =>
        match s.translateFor (.scalar u) (.core core) asid va .load with
        | (s, .bad k) => s.scalarFault u k va accLoad
        | (t, .ok pa _ _) =>
          match t.readPa (.scalar u) g.team core asid pa 8 true [] with
          | .wait t => ((s.defer t (.scalar u) asid).pin (.scalar u) [(va, pa)]).stall u .other
          | .bytes s _ bs bad =>
            let (bs, bad) := wcLoad g.wcs pa bs bad
            if bad then s.scalarTrap u cPOISON va 0 accLoad
            else
              let v := BitVec.ofNat 64 (natOf bs)
              let s := s.acquireBound core asid sc.toNat (isKey va)
              (s.modGang u fun g => g.setS d v).advance u

/-- REL (R171), with ALIGN as in ACQ. -/
def execRel (a b : SReg) (sc : BitVec 3) (s : State) : Host.Outcome State Fault Refusal :=
  s.issue fun u g =>
    let core := s.coreOf g
    let asid := s.asidOf g
    if !scopeOk sc then s.illegal u
    else match g.place (s.regsOf g) 0 (g.sreg a).toNat 8 true with
      | .bad c at_ => s.scalarTrap u c at_ 0 accStore
      | .window _ | .off _ => s
      | .va va =>
        match s.translateFor (.scalar u) (.core core) asid va .store with
        | (s, .bad k) => s.scalarFault u k va accStore
        | (_, .ok pa _ _) =>
          -- What drains is charged as it drains, whether or not the word waits (R346).
          let s := s.drainScalar u
          match (s.translateFor (.scalar u) (.core core) asid va .store).1.release u (s.widest asid sc.toNat (isKey va)) with
          | (t, false) => ((s.defer t (.scalar u) asid).pin (.scalar u) [(va, pa)]).stall u .other
          | (s, true) =>
            let bs := bytesOf 8 (g.sreg b).toNat
            if isPeer pa then (s.peerWrite (.scalar u) g.team asid (regionOfCore core) pa bs).advance u
            else (s.homeWrite core asid pa bs []).1.advance u

/-- A synchronisation object descriptor (R78) as a kind, an owner and a name, none when it raises ILLEGAL. A gb barrier is accepted
(notes/assumptions/28.md). -/
def State.object (s : State) (u : Nat) (g : Gang) (x : Nat) : Option (Nat × Nat × Nat) :=
  match x / 2 ^ 60 with
  | 0 =>
    let b := x / 1024 % 8 * 16 + x % 16
    let level := BitVec.ofNat 3 (x / 1024)
    let ok := x < 2 ^ 13 && x / 16 % 64 = 0 && (if level = 0 then x < 4 else bidOk level (BitVec.ofNat 4 x) && (s.recOf g).grants b)
    if ok then some (kBarrier, s.barOwner g u b, b) else none
  | 1 => if x % 2 ^ 60 < s.tagsOf g.team then some (kTag, g.team, x % 64) else none
  | 2 => if x % 2 ^ 60 < 8 then some (kQueue, s.asidOf g, x % 8) else none
  | 3 => if x % 2 ^ 60 < 2 ^ 57 then some (kKey, 0, x % 2 ^ 57) else none
  | _ => none

/-- BIND (R172). -/
def execBind (c a b : SReg) (sc : BitVec 3) (s : State) : Host.Outcome State Fault Refusal :=
  s.issue fun u g =>
    let x := g.seg 0
    let o := (g.sreg a).toNat
    let n := (g.sreg b).toNat
    let va := x.baseN + o
    let binds := (s.ctxOf g).binds
    match (if scopeOk sc then s.object u g (g.sreg c).toNat else none) with
    | none => s.illegal u
    | some (kind, owner, name) =>
      if n = 0 || x.limit < o + n || binds.any (fun y => overlap va n y.base y.len) || 512 ≤ binds.length then
        s.scalarTrap u cSBOUND (x.address o) 0 0
      else if o % 128 ≠ 0 || n % 128 ≠ 0 || (kind = kKey && name % 8 ≠ 0) then s.scalarTrap u cALIGN (x.address o) 0 0
      else
        let y : Binding := { base := va, len := n, scope := sc.toNat, kind := kind, owner := owner, name := name }
        (s.modCtx (s.asidOf g) fun c => { c with binds := c.binds ++ [y] }).advance u

/-- UNBIND (R173). -/
def execUnbind (a : SReg) (s : State) : Host.Outcome State Fault Refusal :=
  s.issue fun u g =>
    let va := (g.seg 0).baseN + (g.sreg a).toNat
    (s.modCtx (s.asidOf g) fun c =>
      { c with
        binds := c.binds.filter fun y => y.base ≠ va
        unbound := c.unbound ++ c.binds.filter fun y => y.base = va && !c.unbound.contains y }).advance u

/-! ### Events -/

/-- EVSET (R215). -/
def execEvset (e : BitVec 8) (s : State) : Host.Outcome State Fault Refusal :=
  s.issue fun u g =>
    match s.release u 3 with
    | (s, true) =>
      (s.modCtx (s.asidOf g) fun c => { c with events := c.events ||| BitVec.ofNat 256 (2 ^ e.toNat) }).advance u
    | (s, false) => s.stall u .other

/-- EVWAIT (R215). -/
def execEvwait (e : BitVec 8) (s : State) : Host.Outcome State Fault Refusal :=
  s.issue fun u g =>
    if bit (s.ctxOf g).events.toNat e.toNat then (s.acquireAll u 3).advance u else s.stall u .other

end Sys2Proof.Machine
end

