-- ==== Sys2Proof/Machine/LaneCtl.lean ====
section
/-!
DEFINITION. Cell control (R143 to R147, R17 to R19), the waits of cells (R18, R146, R214) and LTMARK (R419). A group of cells is numbered by its lowest
cell.
-/

namespace Sys2Proof.Machine

/-! ### Groups -/

/-- The cells of a gang that have a non-exited lane. -/
def Gang.liveCells (g : Gang) : List Nat := (List.range 8).filter g.liveCell

/-- Cells made one issue group. -/
def Gang.regroup (g : Gang) (cells : List Nat) : Gang :=
  cells.foldl (fun (g : Gang) c => g.modCell c fun x => { x with group := (cells.head?).getD 0 }) g

/-- A cell that waits at its word. -/
def Gang.park (g : Gang) (cells : List Nat) (r : CellRun) : Gang :=
  cells.foldl (fun (g : Gang) c => g.modCell c fun x => { x with run := r, pending := none, unpaid := false, wait := .none }) g

/-- A waiting cell goes on at the word after its own. -/
def Gang.resume (g : Gang) (c : Nat) : Gang :=
  g.modCell c fun x => { x with run := .run, lpc := (x.lpc + 1) % 2 ^ 48, pending := none, unpaid := false, wait := .none }

/-- The gang barrier that is complete, with cells that wait at it (R146). -/
def Gang.passing (g : Gang) : Option Nat :=
  let live := g.liveCells
  let at_ := fun (r : CellRun) => live.filter fun c => (g.cell c).run = r
  (List.range 4).find? fun n => !(at_ (.barg n)).isEmpty && (at_ (.barg n) ++ at_ .lend).length = live.length

/-- The cells that wait at LREGANG join by address, and a complete gang barrier lets its cells go on (R18, R146). The block ends when every cell with a
non-exited lane waits at LEND. -/
def Gang.settle (g : Gang) : Gang :=
  let live := g.liveCells
  let at_ := fun (r : CellRun) => live.filter fun c => (g.cell c).run = r
  let ends := at_ .lend
  let joins := at_ .regang
  let word := fun c => (g.cell c).lpc
  if ends.length = live.length then
    { g with block := none, cells := (List.range 8).map fun c => (c, { Cell.blank with lpc := (g.cell c).lpc }) }
  else if (ends ++ joins).length = live.length then
    (dedup (joins.map word)).foldl (fun (g : Gang) a =>
      let l := joins.filter fun c => word c = a
      (l.foldl Gang.resume g).regroup l) g
  else
    match g.passing with
    | some n => (at_ (.barg n)).foldl (fun (g : Gang) c => (g.resume c).regroup [c]) g
    | none => g

/-- The cells settle; those that pass a gang barrier acquire the ranges bound to it (R146, R253; notes/assumptions/28.md). The lane flags of a block that
has ended are in MODE already (R36). -/
def State.settleCells (s : State) (u : Nat) : State :=
  let g := s.gang u
  (match g.passing with
    | some n => s.acquireBound (s.coreOf g) (s.asidOf g) (barScope 0) (s.isBar u n)
    | none => s).modGang u fun g => g.settle

/-! ### Running a control word -/

/-- A cell control word that reads no source, for the live cells of the group, charged 5 eu each (R123). -/
def State.ctlWord (s : State) (opc : Nat) (w : LaneOp) (f : State → Nat → List Nat → List Nat → State) : Host.Outcome State Fault Refusal :=
  s.laneRun opc w fun u g act =>
    let live := s.cells.filter g.liveCell
    f (s.chargeCells u wCell live) u live act

/-- A cell control word that reads a 32-bit source: with one poisoned source no lane performs (R288). `f` is given the source by lane. -/
def State.ctlSrc (s : State) (opc : Nat) (w : LaneOp) (f : State → Nat → List Nat → List Nat → (Nat → Nat) → State) :
    Host.Outcome State Fault Refusal :=
  s.laneRun opc w fun u g act =>
    let live := s.cells.filter g.liveCell
    let src := fun l => s.srcInt g l 32 w.imm w.sa
    let bad := act.filter fun l => (src l).2
    let t := s.chargeCells u wCell live
    if bad.isEmpty then f t u live act fun l => (src l).1 else t.lanePoison u act bad

/-- The word index a branch of this word reaches (R143). -/
def branchTo (lpc : Nat) (imm : BitVec 20) : Nat := wrapN 48 ((lpc : Int) + sext 20 imm.toNat)

/-- The cells of `taken` go on at `target`, the others at the next word; cells that choose different directions part (R17, R143). -/
def State.branch (s : State) (u : Nat) (taken : List Nat) (target : Nat) : State :=
  s.modGang u fun g =>
    let rest := s.cells.filter fun c => !taken.contains c
    let next := g.lpcOf s.cells + 1
    ((((g.goto_ taken target).goto_ rest next).regroup taken).regroup rest)

/-- LBRA (R143, R416). -/
def execLbra (w : LaneOp) (s : State) : Host.Outcome State Fault Refusal :=
  s.ctlSrc 0x80 w fun s u live act src =>
    let taken := cellsOf (act.filter fun l => src l ≠ 0)
    let parts := !taken.isEmpty && taken.length ≠ live.length
    let s := if parts then s.emit u 3 (bytesOf 1 (maskOf taken)) else s.emit u 1 (bytesOf 1 (b2n (!taken.isEmpty)))
    s.branch u taken (branchTo ((s.gang u).lpcOf s.cells) w.imm)

/-- LJMP (R143). -/
def execLjmp (w : LaneOp) (s : State) : Host.Outcome State Fault Refusal :=
  s.ctlWord 0x81 w fun s u _ act => s.branch u (cellsOf act) (branchTo ((s.gang u).lpcOf s.cells) w.imm)

/-- LCALL (R143). -/
def execLcall (w : LaneOp) (s : State) : Host.Outcome State Fault Refusal :=
  s.ctlWord 0x82 w fun s u _ act =>
    let lpc := (s.gang u).lpcOf s.cells
    let s := act.foldl (fun (s : State) l => s.putResult u l false w.dst ((lpc + 1) % 2 ^ 32)) s
    s.branch u (cellsOf act) (branchTo lpc w.imm)

/-- LRET (R143, R416): each cell with an active lane goes to the word its lowest active lane names; cells with one target stay together. -/
def execLret (w : LaneOp) (s : State) : Host.Outcome State Fault Refusal :=
  s.ctlSrc 0x83 w fun s u _ act src =>
    let dest := fun c => src (((act.filter fun l => l / 4 = c).head?).getD 0)
    let taken := cellsOf act
    let s := s.emitAll u 1 (taken.map fun c => bytesOf 1 (3 + 4 * c) ++ bytesOf 4 (dest c))
    s.modGang u fun g =>
      let rest := s.cells.filter fun c => !taken.contains c
      let g := (g.goto_ rest (g.lpcOf s.cells + 1)).regroup rest
      (dedup (taken.map dest)).foldl (fun (g : Gang) a =>
        let l := taken.filter fun c => dest c = a
        (g.goto_ l a).regroup l) g

/-! ### The mask stack -/

/-- The mask a LIF leaves in a cell (R144): the mask restricted to the lanes where the guard is true and a ≠ 0. -/
def Gang.ifMask (g : Gang) (w : LaneOp) (c : Nat) (src : Nat → Nat) : BitVec 4 :=
  let x := g.cell c
  BitVec.ofNat 4 (maskOf ((List.range 4).filter fun i =>
    bit x.mask.toNat i && g.guard w (4 * c + i) && src (4 * c + i) ≠ 0 &&
      (match x.pending with
        | some m => bit m.toNat i
        | none => true)))

/-- ILLEGAL for a mask stack that overflows or is empty in a cell of the group (R19). -/
def State.stackTrap (s : State) (u : Nat) (bad : List Nat) : State :=
  let g := s.gang u
  s.laneTrap u cILLEGAL 0 (g.maskLanes s.cells) (g.maskLanes bad) 0 0 0

/-- LIF (R144, R19, R416). -/
def execLif (w : LaneOp) (s : State) : Host.Outcome State Fault Refusal :=
  s.laneRun 0x84 w fun u g act =>
    let live := s.cells.filter g.liveCell
    let full := live.filter fun c => 8 ≤ (g.cell c).stack.length
    let src := fun l => s.srcInt g l 32 w.imm w.sa
    let bad := act.filter fun l => (src l).2
    if !full.isEmpty then s.stackTrap u full
    else
      let t := s.chargeCells u wCell live
      if !bad.isEmpty then t.lanePoison u act bad
      else
        let m := fun c => g.ifMask w c fun l => (src l).1
        let t := t.emitAll u 2 (live.map fun c => bytesOf 1 (c + 16 * (m c).toNat))
        let t := t.modGang u fun g =>
          live.foldl (fun (g : Gang) c => g.modCell c fun x => { x with stack := x.mask :: x.stack, mask := m c }) g
        t.laneNext u s.cells

/-- LELSE and LENDIF (R144, R19): ILLEGAL on an empty stack. -/
def State.stackWord (s : State) (opc : Nat) (w : LaneOp) (f : Cell → BitVec 4 → List (BitVec 4) → Cell) : Host.Outcome State Fault Refusal :=
  s.laneRun opc w fun u g _ =>
    let live := s.cells.filter g.liveCell
    let empty := live.filter fun c => (g.cell c).stack.isEmpty
    if !empty.isEmpty then s.stackTrap u empty
    else
      let t := (s.chargeCells u wCell live).modGang u fun g =>
        live.foldl (fun (g : Gang) c => g.modCell c fun x => match x.stack with
          | top :: rest => f x top rest
          | [] => x) g
      t.laneNext u s.cells

/-- LELSE (R144). -/
def execLelse (w : LaneOp) (s : State) : Host.Outcome State Fault Refusal :=
  s.stackWord 0x85 w fun x top _ => { x with mask := top &&& ~~~ x.mask }
/-- LENDIF (R144). -/
def execLendif (w : LaneOp) (s : State) : Host.Outcome State Fault Refusal :=
  s.stackWord 0x86 w fun x top rest => { x with mask := top, stack := rest }

/-! ### Waiting cells and the end of lanes -/

/-- LREGANG (R18, R145). -/
def execLregang (w : LaneOp) (s : State) : Host.Outcome State Fault Refusal :=
  s.ctlWord 0x87 w fun s u _ _ => (s.modGang u fun g => { g.park s.cells .regang with skipL := false }).settleCells u

/-- LEND (R18, R145). -/
def execLend (w : LaneOp) (s : State) : Host.Outcome State Fault Refusal :=
  s.ctlWord 0x88 w fun s u _ _ => (s.modGang u fun g => { g.park s.cells .lend with skipL := false }).settleCells u

/-- LEXIT (R145, R416). -/
def execLexit (w : LaneOp) (s : State) : Host.Outcome State Fault Refusal :=
  s.ctlWord 0x89 w fun s u live act =>
    let s := s.emitAll u 2 (live.map fun c => bytesOf 1 (c + 8 + 16 * maskOf ((act.filter fun l => l / 4 = c).map (· % 4))))
    let s := (s.laneNext u s.cells).modGang u fun g =>
      let g := act.foldl (fun (g : Gang) l => g.modLane l fun x => { x with exited := true }) g
      s.cells.foldl (fun (g : Gang) c => if g.liveCell c then g else g.park [c] .idle) g
    s.settleCells u

/-- LYIELD (R147). -/
def execLyield (w : LaneOp) (s : State) : Host.Outcome State Fault Refusal := s.ctlWord 0x8A w fun s u _ _ => s.laneNext u s.cells

/-- LBARG (R146): an arrival drains the cells' buffers (R155), and releases at the wider scope of the bindings of the barrier (R253;
notes/assumptions/28.md). -/
def execLbarg (w : LaneOp) (s : State) : Host.Outcome State Fault Refusal :=
  s.laneRun 0x8B w fun u g _ =>
    let live := s.cells.filter g.liveCell
    let n := w.imm.toNat % 4
    let t := live.foldl (fun (s : State) c => s.drainCell u c) s
    if 4 ≤ t.widest (t.asidOf g) (barScope 0) (t.isBar u n) && t.ctxWritesOut (t.asidOf g) then t.laneStall u .other
    else ((t.chargeCells u wCell live).modGang u fun g => { g.park s.cells (.barg n) with skipL := false }).settleCells u

/-- LNOP (R147). -/
def execLnop (w : LaneOp) (s : State) : Host.Outcome State Fault Refusal := s.ctlWord 0x8C w fun s u _ _ => s.laneNext u s.cells

/-- LWAITT (R214): the cells wait for COUNT 0, acquire, and go on as groups of their own. -/
def execLwaitt (w : LaneOp) (s : State) : Host.Outcome State Fault Refusal :=
  s.laneRun 0xD0 w fun u g _ =>
    let n := w.imm.toNat
    if s.tagsOf g.team ≤ n then s.laneIllegal u
    else if ((s.team g.team).tag n).count = 0 then
      let live := s.cells.filter g.liveCell
      let s := (s.chargeCells u wCell live).acquireTag u n
      (s.laneNext u s.cells).modGang u fun g => s.cells.foldl (fun (g : Gang) c => g.regroup [c]) g
    else s.laneStall u (.tags (2 ^ n))

/-- LTMARK (R419). -/
def execLtmark (w : LaneOp) (s : State) : Host.Outcome State Fault Refusal :=
  s.laneRun 0xD1 w fun u _ act =>
    let cells := cellsOf act
    let s := s.chargeCells u wCell cells
    let s := s.emitAll u 6 (cells.map fun c => bytesOf 3 (w.imm.toNat + c * 2 ^ 20 + 2 ^ 23))
    s.laneNext u s.cells

end Sys2Proof.Machine
end

