-- ==== Sys2Proof/Machine/Power.lean ====
section
/-!
DEFINITION. Operating points and ramps (R358 to R361), and the passage of time between events.
-/

namespace Sys2Proof.Machine

/-- The effective point: the slower of the requested and the imposed (R359). -/
def Region.eff (r : Region) : Nat := if r.req < r.imposed then r.imposed else r.req

/-- The voltage the rail moves toward, in µV (R360, R362); during an emergency raise the table voltage at the current point (R363). -/
def Region.goalUv (r : Region) : Nat := if r.raising then 1000 * mvOf r.freq else 1000 * (mvOf r.eff - r.trim)

/-- What the controller does next toward the effective point (R360): a switch down at once, then the slew, then a switch up. -/
def Region.aim (r : Region) (now : Nat) : Region :=
  if r.switchTo.isSome || r.raising then r
  else if freqOf r.eff < freqOf r.freq then { r with switchTo := some r.eff, switchEnd := now + 500, freq := r.eff }
  else if r.uv ≠ r.goalUv then { r with slewing := true }
  else if freqOf r.freq < freqOf r.eff then { r with slewing := false, switchTo := some r.eff, switchEnd := now + 500 }
  else { r with slewing := false }

/-- The target of an island has changed. -/
def State.aimRegion (s : State) (r : Nat) : State := s.modRegion r fun x => x.aim s.now

/-- The gangs that hold a core of a region and are no templates. -/
def State.gangsIn (s : State) (r : Nat) : List Nat :=
  Tbl.keysOf s.gangs fun g => !g.isTpl && (s.team g.team).image.isNone && s.regOf g = r

/-- Whether the lanes of a region belong on the drowse rail (R233); a region without a resident gang keeps its rail (notes/assumptions/30.md). -/
def State.wantDrowse (s : State) (r : Nat) : Bool :=
  let l := s.gangsIn r
  if l.isEmpty then (s.region r).drowse else l.all fun u => (s.gang u).drowse

/-- A move between rails begun when the region's gangs call for one (R233, R361). -/
def State.drowseAim (s : State) (r : Nat) : State :=
  let x := s.region r
  let w := s.wantDrowse r
  if x.drowseMove.isNone && w != x.drowse then
    s.modRegion r fun x => { x with drowseMove := some w, drowseEnd := s.now + 1000 }
  else s

/-- Every region's rail brought toward the one its gangs call for: gangs may have ended since. -/
def State.drowseAll (s : State) : State := (Tbl.keys s.regions).foldl (fun (s : State) r => s.drowseAim r) s

/-- A rail after `ns` of slew at 10 mV/µs (R360), or of the emergency raise, which ends within 2 µs (R363). -/
def Region.slew (r : Region) (ns : Nat) : Region :=
  if r.slewing || r.raising then
    let d := (if r.raising then 25 else 10) * ns
    let goal := r.goalUv
    { r with uv := if r.uv < goal then (if r.uv + d < goal then r.uv + d else goal)
                   else if r.raising then r.uv
                   else (if goal + d < r.uv then r.uv - d else goal) }
  else r

/-- A region after `ns` outside a thermal stop: cycles in hundredths at the running frequency, and the slew. -/
def Region.elapse (r : Region) (ns : Nat) : Region :=
  { r.slew ns with cycles := r.cycles + freqOf r.freq * ns }

/-- A region during `ns` of a thermal stop: what is under way ends later by as much (R365). -/
def Region.stopped (r : Region) (ns : Nat) : Region :=
  { r with switchEnd := r.switchEnd + ns, drowseEnd := r.drowseEnd + ns }

/-- Whether a team counts as resident on its core (R355): from its placement on (R377); one that returns from a swap, once its cluster is RESIDENT
(R308, R316; DEDUCED, notes/assumptions/119.md). -/
def State.countsResident (s : State) (t : Team) : Bool :=
  s.holdsRoom t && !((s.cluster t.cluster).st = .restoring && (s.cluster t.cluster).swapped)

/-- The contexts resident on a core (R355). -/
def State.residentOn (s : State) (core : Nat) : List Nat :=
  dedup ((s.teams.filter fun e => e.2.core = core && s.countsResident e.2).map fun e => (s.grid e.2.grid).asid)

/-- Residency of every context over `ns`, by region, in units of 1 / 1,441,440 of a core-cycle of the 1.50 GHz reference (R355). -/
def State.addResidency (s : State) (ns : Nat) : State :=
  let cores := dedup ((s.teams.filter fun e => s.countsResident e.2).map fun e => e.2.core)
  cores.foldl (fun (s : State) core =>
    let l := s.residentOn core
    let share := 3 * ns * 720720 / l.length
    l.foldl (fun (s : State) a =>
      s.modCtx a fun c => { c with resident := Tbl.put c.resident (regionOfCore core)
                                     (Tbl.atD c.resident (regionOfCore core) 0 + share) }) s) s

/-- Whether a context has a resident cluster. -/
def State.hasResident (s : State) (a : Nat) : Bool :=
  s.clusters.any fun e => (s.grid e.2.grid).asid = a && e.2.onCore

/-- The points at which islands of a partition run (R370, R379). -/
def State.runningPoints (s : State) (p : Nat) : BitVec 16 :=
  BitVec.ofNat 16 (maskOf ((s.regionsOf p).map fun r => (s.region r).freq))

/-- `ns` pass outside a thermal stop. -/
def State.runFor (s : State) (ns : Nat) : State :=
  let s := s.addResidency ns
  let gangs := Tbl.each s.gangs fun _ g =>
    if g.pbleft = 0 then g
    else
      let d := freqOf (s.region (s.regOf g)).freq * ns
      { g with pbleft := if d < g.pbleft then g.pbleft - d else 0 }
  let clusters := Tbl.each s.clusters fun _ c => if c.st = .stalled then { c with stallNs := c.stallNs + ns } else c
  let ctxs := Tbl.each s.ctxs fun a c =>
    let queues := Tbl.each c.queues fun _ q => if q.blocked then { q with blockNs := q.blockNs + ns } else q
    { c with
      queues := queues
      slice := c.slice.map fun t => if s.hasResident a then t + ns else t
      iv := { c.iv with opseen := c.iv.opseen ||| s.runningPoints c.part } }
  { s with
    regions := Tbl.each s.regions fun _ r => r.elapse ns
    gangs := gangs
    clusters := clusters
    ctxs := ctxs
    now := s.now + ns }

/-- Whether a reading of a context is due at the boundary of ticks reached (R372). -/
def State.readingDue (s : State) (c : Ctx) : Bool := s.now + 16000 = s.tickEnd && (c.requested ≠ 0 || c.readAt ≤ s.now)

/-- A day, in ns, and the rows of a stack (R271, R287). -/
def dayNs : Nat := 86400000000000
def stackRows : Nat := 2 ^ 26

/-- The time at which a request is undelivered when nothing has answered it (R388). -/
def Request.due (r : Request) : Nat := r.sent + 1000000

/-- The times that must not pass before something has happened: the read of an appended record, 16 µs after its QTAIL write, unless it is on its way
(R322), the next age step of a blocked head (R326), the visit of a stack's last row in a day of patrol scrub (R287), and the time-out of a request (R388). -/
def State.deadlines (s : State) : List Nat :=
  (s.ctxs.flatMap fun e => e.2.queues.filterMap fun q =>
    if q.2.en && !q.2.prod && !q.2.ferr && q.2.read ≠ q.2.tail && !s.asking (· = .sched e.1 q.1) then (q.2.appended.head?).map fun x => x.2 + 16000
    else none) ++
    (s.ctxs.flatMap fun e => (e.2.queues.filter fun q => q.2.blocked).map fun q => s.now + (64000 - q.2.blockNs)) ++
    ((List.range 8).map fun k => (Tbl.atD s.scrub k 0 / stackRows + 1) * dayNs) ++
    (s.requests.filter fun r => r.answer.isNone).map Request.due

/-- Time passes, to the end of the tick at most, not beyond a deadline, and not before the readings that are due at a tick's end
(notes/assumptions/1.md). -/
def State.elapse (s : State) (ns : Nat) : State :=
  let n := if s.ctxs.any (fun e => s.readingDue e.2) then 0 else if s.now + ns < s.tickEnd then ns else s.tickEnd - s.now
  let n := if s.stopped then n else s.deadlines.foldl (fun n t => if s.now + n < t then n else t - s.now) n
  if n = 0 then s
  else if s.stopped then
    { s with
      regions := Tbl.each s.regions fun _ r => r.stopped n
      ctxs := Tbl.each s.ctxs fun _ c => { c with iv := { c.iv with tstop := c.iv.tstop + n, stopped := true } }
      now := s.now + n
      tickStop := s.tickStop + n }
  else s.runFor n

end Sys2Proof.Machine
end

