-- ==== Sys2Proof/Machine/Templ.lean ====
section
/-!
DEFINITION. Templates (R217 to R221), EXIT, TRAP and SBRK (R223), row slots (R164, R166, R167), OPREQ, EBKT, TMARK, DROWSE and the range words (R231 to
R235).
-/

namespace Sys2Proof.Machine

/-! ### Templates -/

/-- STAMP (R217). -/
def execStamp (a : SReg) (s : State) : Host.Outcome State Fault Refusal :=
  s.issue fun u g =>
    let n := (g.sreg a).toNat
    if g.ntpl = (s.recOf g).tdepth || 2 ^ 32 ≤ n then s.illegal u
    else (s.setGang u { g with stamp := some n }).advance u

/-- The live templates of a team. -/
def State.templatesOf (s : State) (t : Nat) : List Nat := Tbl.keysOf s.gangs fun g => g.team = t && g.isTpl

/-- FREEZE (R218): the gang becomes a template; items begin at the address after it. -/
def execFreeze (s : State) : Host.Outcome State Fault Refusal :=
  s.issue fun u g =>
    let r := s.recOf g
    match g.stamp with
    | none => s.illegal u
    | some n =>
      if g.ntpl = r.tdepth || r.gangs ≤ (s.templatesOf g.team).length + 1 then s.illegal u
      else s.afterLanes u fun s =>
        if (s.team g.team).copies.any fun c => c.gang = u then s.stall u .other
        else
          let s := (s.drainGang u).advance u
          let s := s.leaveAll g.team
          let s := s.modGang u fun g => { g with run := .template n 0, armed := [], bar := none }
          -- A template of no items retires at once (R222).
          let s := State.retireTpl 4 s u
          let s := if (Tbl.at? s.gangs u).isNone then s.lastTraced (s.coreOf g) (s.asidOf g) else s
          (s.drowseAim (s.regOf g)).teamCheck g.team

/-- STT (R221). -/
def execStt (b a : SReg) (i : BitVec 13) (s : State) : Host.Outcome State Fault Refusal :=
  s.issue fun u g =>
    let o := (g.sreg a).toNat
    if g.ntpl = (s.recOf g).tdepth || 16 ≤ g.stts.length then s.illegal u
    else match g.place (s.regsOf g) 0 o 8 true with
      | .bad c at_ => s.scalarTrap u c at_ 0 accStore
      | _ => (s.setGang u { g with stts := g.stts ++ [{ data := g.sreg b, addr := g.sreg a, stride := sx i * 8 }] }).advance u

/-! ### The end of the stream and software traps -/

/-- EXIT (R37, R223). -/
def execExit (s : State) : Host.Outcome State Fault Refusal :=
  s.issue fun u _ => ((s.drainScalar u).advance u).modGang u fun g => { g with exiting := true }

/-- TRAP (R223): it completes, then BREAK is raised with SW = 1. -/
def execTrap (i : BitVec 13) (s : State) : Host.Outcome State Fault Refusal :=
  s.issue fun u g =>
    (s.advance u).trapEntry u { cause := cBREAK, code := i.toNat, sw := true, tspc := g.spc + 4, taddr := g.spc.toNat }

/-- SBRK (R77, R223). -/
def execSbrk (_x : BitVec 25) (s : State) : Host.Outcome State Fault Refusal :=
  s.issue fun u g => s.scalarTrap u cBREAK g.spc.toNat 0 0

/-! ### Row slots -/

/-- ROWPIN (R164). -/
def State.rowpin (s : State) (n : BitVec 3) (a : SReg) (m : BitVec 8) (pers : Bool) : Host.Outcome State Fault Refusal :=
  s.issue fun u g =>
    let x := g.seg 0
    let o := (g.sreg a).toNat
    let va := x.baseN + o
    if m = 0 || (s.recOf g).rows ≤ n.toNat then s.illegal u
    else if x.limit < o + 1024 then s.scalarTrap u cSBOUND (x.address o) 0 accRowpin
    else if va % 1024 ≠ 0 then s.scalarTrap u cALIGN (x.address o) 0 accRowpin
    else match s.translateFor (.scalar u) (.core (s.coreOf g)) (s.asidOf g) va .rowpin with
      | (s, .bad k) => s.scalarFault u k va accRowpin
      | (t, .ok pa _ _) =>
        let put := fun (s : State) =>
          (s.setRow g.team n.toNat
            { RowSlot.blank with st := .opening, pers := pers, row := rowOf pa, mask := m, pinner := u }).advance u
        if ((t.team g.team).row n.toNat).st = .free then put t
        -- The walk of a word that waits is charged with its end (R346), and its translation stands (R297).
        else ((s.defer t (.scalar u) (s.asidOf g)).pin (.scalar u) [(va, pa)]).afterLanes u fun s => put (s.releaseRow g.team n.toNat)

/-- ROWPIN.p (R164). -/
def execRowpinP (n : BitVec 3) (a : SReg) (m : BitVec 8) (s : State) : Host.Outcome State Fault Refusal := s.rowpin n a m true
/-- ROWPIN.v (R164). -/
def execRowpinV (n : BitVec 3) (a : SReg) (m : BitVec 8) (s : State) : Host.Outcome State Fault Refusal := s.rowpin n a m false

/-- ROWREL (R166). -/
def execRowrel (n : BitVec 3) (s : State) : Host.Outcome State Fault Refusal :=
  s.issue fun u g =>
    if (s.recOf g).rows ≤ n.toNat then s.illegal u
    else s.afterLanes u fun s => (s.releaseRow g.team n.toNat).advance u

/-- The number of a slot state (R167). -/
def RowState.code : RowState → Nat
  | .free => 0 | .opening => 1 | .held => 2 | .lost => 3

/-- The slot status word (R167): OPEN is that of the table entry (R164), DIRTY what was written since the slot's own opening. -/
def State.rowWord (s : State) (t n : Nat) : Nat :=
  let x := (s.team t).row n
  let e := if x.st = .held then s.rowTab.find? fun e => e.row = x.row else none
  let (d, o) := match e with
    | some e => (((e.ref? t n).map fun y => y.dirty.toNat).getD 0, e.opens.toNat)
    | none => (0, 0)
  x.st.code * 2 ^ 62 + b2n x.pers * 2 ^ 61 + x.why * 2 ^ 58 + d * 2 ^ 8 + o

/-- ROWQ (R167). -/
def execRowq (d : SReg) (n : BitVec 3) (s : State) : Host.Outcome State Fault Refusal :=
  s.issue fun u g =>
    if (s.recOf g).rows ≤ n.toNat then s.illegal u
    else (s.setGang u (g.setS d (BitVec.ofNat 64 (s.rowWord g.team n.toNat)))).advance u

/-! ### Operating point, energy, trace and drowse -/

/-- OPREQ (R231, R359). -/
def execOpreq (d : SReg) (n : BitVec 4) (s : State) : Host.Outcome State Fault Refusal :=
  s.issue fun u g =>
    let p := s.part (s.ctxOf g).part
    let put := fun (s : State) (v : Word64) => (s.modGang u fun g => g.setS d v).advance u
    if p.opfast ≤ n.toNat && n.toNat ≤ p.opslow then
      put ((s.modRegion (s.regOf g) fun r => { r with req := n.toNat }).aimRegion (s.regOf g)) 0
    else put s 1

/-- EBKT (R232). -/
def execEbkt (d : SReg) (s : State) : Host.Outcome State Fault Refusal :=
  s.issue fun u g =>
    let c := s.ctxOf g
    (s.setGang u (g.setS d (BitVec.ofNat 64 (b2n c.empty * 2 ^ 63 + c.bal.toNat % 2 ^ 48)))).advance u

/-- TMARK (R234, R416). -/
def execTmark (v : BitVec 12) (s : State) : Host.Outcome State Fault Refusal :=
  s.issue fun u _ => (s.emit u 6 (bytesOf 3 v.toNat)).advance u

/-- DROWSE (R233). -/
def execDrowse (e : BitVec 1) (s : State) : Host.Outcome State Fault Refusal :=
  s.issue fun u g => ((s.setGang u { g with drowse := e = 1 }).drowseAim (s.regOf g)).advance u

/-! ### Ranges -/

/-- The first page of a range that the host owns (R310). -/
def State.hostPage (s : State) (asid base len : Nat) : Option Nat :=
  (pagesOf base len).find? fun p => match s.peek asid p with
    | .leaf _ _ e _ => pteHost e
    | _ => false

/-- Every dirty copy of the lines of a range written to DRAM (R174). -/
def State.flushRange (s : State) (asid : Nat) (base len : Nat) : State :=
  let dirty := Tbl.keysOf s.home (·.dirty) ++ Tbl.keysOf s.victim (·.dirty) ++
    s.rowTab.flatMap fun e => (setBits 8 e.dirty.toNat).map fun i => 8 * e.row + i
  (dirty.filter (s.lineIn asid [(base, len)])).foldl (fun s line => s.flushLine asid line) s

/-- The reply that a waiting RNGACQ has, if its request is for this range (R310): none while it waits. -/
def State.rngReply (s : State) (asid : Nat) (w : RngWait) : Option Nat :=
  let x := Tbl.atD (s.ctx asid).slots w.slot FaultSlot.blank
  if x.st = .replied then some x.status else none

/-- The pages of a range that a check for host-owned pages reads: up to the first one found, charged as walks (R296). -/
def State.chargeCheck (s : State) (asid va n : Nat) : State :=
  s.chargePeeks asid (match s.hostPage asid va n with
    | some p => (pagesOf va n).takeWhile (· ≤ p)
    | none => pagesOf va n)

/-- RNGACQ (R235, R310). The bounds and the alignment are checked for a length of 0 too, which then has no effect (DESIGN CHOICE,
notes/assumptions/114.md). Where a refused range has no host-owned page any more, TADDR is its base (DESIGN CHOICE, notes/assumptions/115.md). -/
def execRngacq (a b : SReg) (s : State) : Host.Outcome State Fault Refusal :=
  s.issue fun u g =>
    let x := g.seg 0
    let o := (g.sreg a).toNat
    let n := (g.sreg b).toNat
    let va := x.baseN + o
    let asid := s.asidOf g
    let done := fun (s : State) => ((s.acquireAll u 5).modGang u fun g => { g with rng := none }).advance u
    if x.limit < o + n then s.scalarTrap u cSBOUND (x.address o) 0 0
    else if va % 65536 ≠ 0 || n % 65536 ≠ 0 then s.scalarTrap u cALIGN (x.address o) 0 0
    else if n = 0 then s.advance u
    else
      let ask := fun (s : State) =>
        let info : FaultInfo :=
          { origin := 4, cause := cOWN, fkind := 0, acc := 0, va := va, lanes := n / 65536, cluster := (s.clusterOfTeam g.team).idx,
            gang := g.idx, team := (s.team g.team).idx, tspc := 0 }
        let (slot, s) := (s.takeSlot asid (.range u) info).getD (1024, s)
        (s.modGang u fun g => { g with rng := some { slot := slot, base := va, len := n } }).stall u .other
      match g.rng.filter fun w => w.base = va && w.len = n with
      | some w =>
        if w.slot = 1024 then ask s
        else match s.rngReply asid w with
          | none => s.stall u .other
          | some st =>
            let s := ((s.freeSlot asid w.slot).modGang u fun g => { g with rng := none }).chargeCheck asid va n
            match s.hostPage asid va n with
            | none => if st = 0 then done s else s.scalarFault u 2 va 0
            | some p => s.scalarFault u 2 p 0
      | none =>
        let s := s.leaveAt u g.rng false
        match s.hostPage asid va n with
        | none => done (s.chargeCheck asid va n)
        | some _ => ask (s.defer (s.chargeCheck asid va n) (.scalar u) asid)

/-- RNGREL (R235, R310). A length of 0 is treated as RNGACQ treats it (notes/assumptions/114.md). -/
def execRngrel (a b : SReg) (s : State) : Host.Outcome State Fault Refusal :=
  s.issue fun u g =>
    let x := g.seg 0
    let o := (g.sreg a).toNat
    let n := (g.sreg b).toNat
    let va := x.baseN + o
    let asid := s.asidOf g
    if x.limit < o + n then s.scalarTrap u cSBOUND (x.address o) 0 0
    else if va % 65536 ≠ 0 || n % 65536 ≠ 0 then s.scalarTrap u cALIGN (x.address o) 0 0
    else if n = 0 then s.advance u
    else
      let s := s.drainGang u
      if s.ctxWritesOut asid then s.stall u .other
      else
        let s := (s.flushRange asid va n).chargePeeks asid (pagesOf va n)
        let s := (pagesOf va n).foldl (fun (s : State) p =>
          match s.peek asid p with
          | .leaf addr _ e _ => if pteHost e then s else s.writePte asid addr (e + 2 ^ 59)
          | _ => s) s
        (s.dropTlb (s.ctx asid).part fun e =>
          e.asid = asid && overlap (e.vbase * 2 ^ e.bits) (2 ^ e.bits) va n).advance u

end Sys2Proof.Machine
end

