-- ==== Sys2Proof/Machine/System.lean ====
section
/-!
DEFINITION. The supervisor words (R227, R236 to R242, R174) and the control and status registers (R225, R412).
-/

namespace Sys2Proof.Machine

/-! ### Control and status registers -/

def w64n (x : Nat) : Word64 := BitVec.ofNat 64 x

/-- MODE as a word (R34). -/
def Mode.word (m : Mode) : Word64 :=
  w64n (m.flags.toNat * 2 ^ 16 + b2n m.den * 16 + b2n m.satd * 8 + m.rmd.toNat)

/-- ECTR as a word (R348). -/
def Ctx.ectrWord (c : Ctx) : Nat := b2n c.ecsat * 2 ^ 63 + c.ectr

/-- TRCTL as a word (R413). -/
def Ctx.trctlWord (c : Ctx) : Nat := b2n c.trts * 2 ^ 9 + b2n c.tren * 2 ^ 8 + c.trlog

/-- Bytes of a context's trace ring (R413). -/
def Ctx.trBytes (c : Ctx) : Nat := 64 * 2 ^ (c.trlog + 6)

/-- The registers U may read (R225). -/
def csrAtU (n : Nat) : Bool :=
  n = 0x001 || n = 0x010 || (0x020 ≤ n && n ≤ 0x02B) || (0x030 ≤ n && n ≤ 0x033) || n = 0x040 ||
    (0x051 ≤ n && n ≤ 0x055)

/-- TRLOST read and cleared (R412). -/
def State.takeTrlost (s : State) (asid : Nat) : Nat × State :=
  ((s.ctx asid).trlost, s.modCtx asid fun c => { c with trlost := 0 })

/-- A read of TRTAIL acquires the ring at device scope (R414). -/
def State.readTrtail (s : State) (u : Nat) : State :=
  let g := s.gang u
  let c := s.ctxOf g
  s.acquire (s.coreOf g) 3 (s.lineIn (s.asidOf g) [(c.trbase.toNat, c.trBytes)])

/-- The value of a register and the state after it is read; none for a number that names no register (R225, R236, R412). -/
def State.csrRead (s : State) (u n : Nat) : Option (Word64 × State) :=
  let g := s.gang u
  let asid := s.asidOf g
  let c := s.ctx asid
  let keep := fun (v : Word64) => some (v, s)
  if 0x020 ≤ n && n ≤ 0x02B then
    let x := g.seg ((n - 0x020) / 2)
    keep (if n % 2 = 0 then x.base else x.lim)
  else if 0x030 ≤ n && n ≤ 0x033 then keep (w64n (c.events.toNat / 2 ^ (64 * (n - 0x030))))
  else if 0x060 ≤ n && n ≤ 0x063 then keep (Tbl.atD g.sscr (n - 0x060) 0)
  else if 0x078 ≤ n && n ≤ 0x07B then keep (Tbl.atD c.dbp (n - 0x078) 0)
  else match n with
    | 0x001 => keep (w64n (asid % 2 ^ 16 + c.part % 2 ^ 12 * 2 ^ 16))
    | 0x010 => some (g.mode.word, s.setGang u { g with mode := { g.mode with flags := 0 } })
    | 0x040 => keep (w64n c.ectrWord)
    | 0x050 => keep c.tvec
    | 0x051 => keep c.pvec
    | 0x052 => keep (w64n c.pbudget)
    | 0x053 => keep (if g.pframe.isSome then w64n (ceilDiv g.pbleft 100) else 0)
    | 0x054 => keep g.pspc
    | 0x055 => keep g.pcause
    | 0x058 => keep g.trap.cause
    | 0x059 => keep g.trap.tspc
    | 0x05A => keep (w64n g.trap.tlpc)
    | 0x05B => keep (g.trap.tmask.zeroExtend 64)
    | 0x05C => keep g.trap.taddr
    | 0x05D => keep g.tfstat
    | 0x05E => keep (g.trap.clanes.zeroExtend 64)
    | 0x070 => keep c.trbase
    | 0x071 => keep (w64n c.trctlWord)
    | 0x072 => keep (c.trhead.zeroExtend 64)
    | 0x073 => some (c.trtail.zeroExtend 64, s.readTrtail u)
    | 0x074 => let (v, s) := s.takeTrlost asid; some (w64n v, s)
    | 0x07C => keep (g.dbctl.zeroExtend 64)
    | _ => none

/-- CSRR (R236). -/
def execCsrr (d : SReg) (c : BitVec 12) (s : State) : Host.Outcome State Fault Refusal :=
  s.issue fun u g =>
    if !g.priv && !csrAtU c.toNat then s.illegal u
    else match s.csrRead u c.toNat with
      | some (v, s) => (s.modGang u fun g => g.setS d v).advance u
      | none => s.illegal u

/-- A write of TRCTL (R413): EN set asks a SYNC with REASON 8 of every gang of the context, and draining is tried again (R414). -/
def State.setTrctl (s : State) (asid : Nat) (v : Nat) : State :=
  let en := bit v 8
  let was := (s.ctx asid).tren
  let s := s.modCtx asid fun c =>
    { c with tren := en, trts := bit v 9, trlog := if v % 16 < 10 then v % 16 else 10, trwait := false }
  let mine := Tbl.keysOf s.gangs fun g => s.asidOf g = asid && !g.isTpl
  if en && !was then mine.foldl (fun (s : State) u => s.modGang u fun g => { g with tr := { g.tr with due := some 8 } }) s
  else s

/-- A write of TRHEAD (R414). -/
def State.setTrhead (s : State) (asid : Nat) (v : Nat) : State :=
  s.modCtx asid fun c => { c with trhead := BitVec.ofNat 32 v, trwait := false }

/-- The state after a register is written; none for a number that no write reaches. A write of TRLOST does nothing (R6, R35, R225, R412). -/
def State.csrWrite (s : State) (u n : Nat) (v : Word64) : Option State :=
  let g := s.gang u
  let asid := s.asidOf g
  let x := v.toNat
  let code := w64n (x / 4 * 4)
  if 0x060 ≤ n && n ≤ 0x063 then some (s.setGang u { g with sscr := Tbl.put g.sscr (n - 0x060) v })
  else if 0x078 ≤ n && n ≤ 0x07B then
    some (s.modCtx asid fun c => { c with dbp := Tbl.put c.dbp (n - 0x078) (w64n (x % 2 ^ 57)) })
  else match n with
    | 0x010 =>
      if x % 8 = 0 || x % 8 = 7 then none
      else some (s.setGang u { g with mode := { g.mode with den := bit x 4, satd := bit x 3, rmd := BitVec.ofNat 3 x } })
    | 0x050 => some (s.modCtx asid fun c => { c with tvec := code })
    | 0x051 => some (s.modCtx asid fun c => { c with pvec := code })
    | 0x059 => some (s.setGang u { g with trap := { g.trap with tspc := v } })
    | 0x05B => some (s.setGang u { g with trap := { g.trap with tmask := BitVec.ofNat 32 x } })
    | 0x070 => some (s.modCtx asid fun c => { c with trbase := w64n (x % 2 ^ 57 / 4096 * 4096), trwait := false })
    | 0x071 => some (s.setTrctl asid x)
    | 0x072 => some (s.setTrhead asid x)
    | 0x074 => some s
    | 0x07C => some (s.setGang u { g with dbctl := BitVec.ofNat 2 x })
    | _ => none

/-- CSRW (R236). -/
def execCsrw (b : SReg) (c : BitVec 12) (s : State) : Host.Outcome State Fault Refusal :=
  s.issueS fun u g =>
    match s.csrWrite u c.toNat (g.sreg b) with
    | some s => s.advance u
    | none => s.illegal u

/-! ### Segments -/

/-- BASE and LIM as SEGW writes them (R29, R30). -/
def segOf (base lim : Word64) : Seg := { base := base &&& 0x01FFFFFFFFFFFFFF, lim := lim &&& 0x0DFFFFFFFFFFFFFF }

/-- SEGW (R237). -/
def execSegw (a b : SReg) (sc : BitVec 3) (s : State) : Host.Outcome State Fault Refusal :=
  s.issueS fun u g =>
    let n := sc.toNat
    let x := segOf (g.sreg a) (g.sreg b)
    let place := Tbl.atD (s.createSegs g.team) n { base := 0, lim := 0 }
    let ok := n = 0 || n = 3 || (n < 6 && x.baseN = place.baseN && x.limit ≤ place.limit)
    if !ok then s.illegal u
    else s.afterLanes u fun s => (s.modGang u fun g => { g with segs := Tbl.put g.segs n x }).advance u

/-! ### Traps and faults -/

/-- TRET (R227). -/
def execTret (s : State) : Host.Outcome State Fault Refusal :=
  s.issueS fun u _ => (s.retire u (s.gang u).spc).trapReturn u

/-- MAPF (R238, R298). s[A] is a virtual address; for one at or above 2^57 the status is 1 (DESIGN CHOICE, notes/assumptions/121.md). -/
def execMapf (d a : SReg) (s : State) : Host.Outcome State Fault Refusal :=
  s.issueS fun u g =>
    let (st, s) := (s.chargePeek (s.asidOf g) (g.sreg a).toNat).mapFirst (s.asidOf g) (g.sreg a).toNat
    let s := if st = 0 then s.chargeGang u zeroCharge else s
    (s.modGang u fun g => g.setS d (w64n st)).advance u

/-- The fault that a trap frame holds (R239, R301). -/
def State.frameFault (s : State) (g : Gang) : FaultInfo :=
  let lane := bit g.trap.cause.toNat 32
  { origin := if lane then 0 else 1, cause := g.trap.cause.toNat % 16, fkind := g.trap.fkind, acc := g.trap.acc,
    va := g.trap.taddr.toNat, lanes := if lane then g.trap.tmask.toNat else 0, cluster := (s.clusterOfTeam g.team).idx,
    gang := g.idx, team := (s.team g.team).idx, tspc := 0 }

/-- FLTPARK (R239). -/
def execFltpark (d : SReg) (s : State) : Host.Outcome State Fault Refusal :=
  s.issueS fun u g =>
    match s.takeSlot (s.asidOf g) (.gang u) (s.frameFault g) with
    | some (n, s) =>
      ((s.modGang u fun g => g.setS d (w64n n)).advance u).modGang u fun g => { g with run := .parked n, held := n :: g.held }
    | none => (s.setGang u (g.setS d (BitVec.allOnes 64))).advance u

/-- FLTRET (R240). -/
def execFltret (s : State) : Host.Outcome State Fault Refusal :=
  s.issueS fun u g =>
    let asid := s.asidOf g
    let s := s.setTlb (.core (s.coreOf g))
      ((s.tlbEntries (.core (s.coreOf g))).filter fun e => !e.covers asid g.trap.taddr.toNat)
    let s := g.held.foldl (fun (s : State) n => s.freeSlot asid n) s
    (s.retire u g.spc).trapReturn u

/-- TLBINV (R241, R297). -/
def execTlbinv (a : SReg) (k : BitVec 2) (s : State) : Host.Outcome State Fault Refusal :=
  s.issueS fun u g =>
    if k = 3 then s.illegal u
    else match s.release u 3 with
      | (s, false) => s.stall u .other
      | (s, true) =>
        let asid := s.asidOf g
        (s.dropTlb (s.ctx asid).part fun e =>
          if k = 0 then e.covers asid (g.sreg a).toNat else if k = 1 then e.asid = asid else true).advance u

/-- POOLQ (R242). -/
def execPoolq (d : SReg) (s : State) : Host.Outcome State Fault Refusal :=
  s.issueS fun u g =>
    let p := s.part (s.ctxOf g).part
    (s.setGang u (g.setS d (w64n (p.poolTotal % 2 ^ 32 * 2 ^ 32 + p.pool.length % 2 ^ 32)))).advance u

/-! ### Cache maintenance -/

/-- The range of CFLUSH and CINV, with the write-back from cohort scope outward (R174). -/
def State.cacheWord (s : State) (a b : SReg) (sc : BitVec 3) (f : Nat → Gang → Nat → Nat → State → State) :
    Host.Outcome State Fault Refusal :=
  s.issueS fun u g =>
    let x := g.seg 0
    let o := (g.sreg a).toNat
    let n := (g.sreg b).toNat
    if !scopeOk sc then s.illegal u
    else if n = 0 then s.advance u
    else if x.limit < o + n then s.scalarTrap u cSBOUND (x.address o) 0 0
    else
      let s := if 2 ≤ sc.toNat then s.flushRange (s.asidOf g) (x.baseN + o) n else s
      (f u g (x.baseN + o) n s).advance u

/-- CFLUSH (R174). -/
def execCflush (a b : SReg) (sc : BitVec 3) (s : State) : Host.Outcome State Fault Refusal :=
  s.cacheWord a b sc fun _ _ _ _ s => s

/-- CINV (R174). -/
def execCinv (a b : SReg) (sc : BitVec 3) (s : State) : Host.Outcome State Fault Refusal :=
  s.cacheWord a b sc fun _ g va n s =>
    let inRange := s.lineIn (s.asidOf g) [(va, n)]
    let core := s.coreOf g
    let s := s.dropL1 core inRange
    if 2 ≤ sc.toNat then s.dropNear (regionOfCore core) inRange else s

end Sys2Proof.Machine
end

