-- ==== Sys2Proof/Machine/Boundary.lean ====
section
/-!
DEFINITION. What happens at the instruction boundaries of a gang outside its own words: the start of a lane block (R23), the recorded stores of an item
(R221), deferred TASKFMT (R196), breakpoints and steps (R420, R421), the PREEMPT handler (R228 to R230), code fetch (R100) and
retirement (R37).
-/

namespace Sys2Proof.Machine

/-! ### Which streams run -/

/-- Whether a cluster's gangs may execute: it is on its cores and no swap is saving it (R307). -/
def Cluster.executes (c : Cluster) : Bool :=
  match c.st with
  | .resident | .stalled | .saving => true
  | _ => false

/-- Whether a gang is neither parked, saved, nor a template, its cluster executes, and its team has not been killed. -/
def State.gangRuns (s : State) (g : Gang) : Bool := g.run = .run && (s.clusterOfTeam g.team).executes && !(s.team g.team).dying

def Gang.allExited (g : Gang) : Bool := (List.range 32).all fun l => (g.lane l).exited

/-- Whether the scalar stream has words left to run (R37). -/
def Gang.hasStream (g : Gang) : Bool := !g.exiting && !g.allExited

/-- Whether the BREAK of a step is due: a PREEMPT handler entered since runs first (R421). -/
def Gang.breakDue (g : Gang) : Bool := g.stepping = 2 && !g.priv && g.stepIn = g.pframe.isSome

/-! ### Lane blocks -/

/-- A gang at the start of the block `e` (R17, R23). -/
def Gang.startBlock (g : Gang) (e : QEntry) (rest : List QEntry) : Gang :=
  let live := g.liveCells
  { g with
    queue := rest
    block := some e
    lanes := Tbl.each g.lanes fun _ l => if l.exited then l else { l with latch := 0, latchBad := false }
    cells := (List.range 8).map fun c =>
      let mask := maskOf ((List.range 4).filter fun i => !(g.lane (4 * c + i)).exited)
      (c, { Cell.blank with
        lpc := e.idx, mask := BitVec.ofNat 4 mask, run := if live.contains c then .run else .idle,
        group := (live.head?).getD 0 }) }

/-- LANE_BLOCK_START: the next queue entry of gang `u` begins (R21, R23). -/
def execLaneBlockStart (u : Nat) (s : State) : Host.Outcome State Fault Refusal :=
  let g := s.gang u
  match g.queue with
  | e :: rest =>
    if s.gangRuns g && g.block.isNone && !g.allExited then
      .next (((s.emitCadence u).modGang u fun g => g.startBlock e rest).emit u 4 (bytesOf 6 e.idx))
    else .next s
  | [] => .next s

/-! ### Recorded stores of an item -/

/-- The next recorded store of gang `u` (R221): it is performed, or its trap is taken with STTR = 1 and the store is made again after the handler
(notes/assumptions/36.md). -/
def State.sttStep (s : State) (u : Nat) (x : Stt) : State :=
  let g := s.gang u
  let o := (x.addr + x.stride * BitVec.ofNat 64 g.item).toNat
  let trap := fun (s : State) (c addr fk : Nat) =>
    s.trapEntry u { cause := c, sttr := true, tspc := g.spc, taddr := addr, fkind := fk, acc := accStore }
  match g.place (s.regsOf g) 0 o 8 true with
  | .bad c at_ => trap s c at_ 0
  | .window _ | .off _ => s
  | .va va =>
    match s.translate (.core (s.coreOf g)) (s.asidOf g) va .store with
    | (s, .bad k) => trap s (fkCause k) va k
    | (s, .ok pa _ _) =>
      (s.scalarStore u (g.seg 0).wc pa (bytesOf 8 x.data.toNat)).modGang u fun g => { g with sttLeft := g.sttLeft.drop 1 }

/-! ### Deferred TASKFMT -/

/-- The gang a deferred TASKFMT of gang `u` goes to, if the team has one (R196). A gang that has executed EXIT is passed over as a retired one is: it has
no scalar boundary left (DESIGN CHOICE, notes/assumptions/118.md). -/
def State.deferredTo (s : State) (t u : Nat) : Option Nat :=
  let able := fun v => match Tbl.at? s.gangs v with
    | some g => g.team = t && !g.isTpl && g.hasStream
    | none => false
  if able u then some u
  else (sortBy (fun a b => (s.gang a).idx ≤ (s.gang b).idx) ((s.liveOf t).filter able)).head?

/-- A report taken from the team's list. -/
def State.dropDeferred (s : State) (t : Nat) (e : Nat × Nat × Nat) : State :=
  s.modTeam t fun x => { x with deferred := x.deferred.erase e }

/-- DEFERRED_TASKFMT: the first report of team `t` that can be delivered is (R196, R226). -/
def execDeferredTaskfmt (t : Nat) (s : State) : Host.Outcome State Fault Refusal :=
  let ready := fun (e : Nat × Nat × Nat) => match s.deferredTo t e.1 with
    | some v => s.gangRuns (s.gang v)
    | none => true
  match (s.team t).deferred.find? ready with
  | none => .next s
  | some e =>
    let s' := s.dropDeferred t e
    match s.deferredTo t e.1 with
    | some v => .next (s'.trapEntry v { cause := cTASKFMT, deferred := true, tspc := (s.gang v).spc, taddr := e.2.2 })
    | none => .next (s'.teamNotice t cTASKFMT e.2.2 e.2.1)

/-! ### Breakpoints and steps -/

/-- The breakpoint that an address matches, among scalar or lane breakpoints (R420). -/
def Ctx.breakAt (c : Ctx) (lane : Bool) (addr : Nat) : Option Nat :=
  (List.range 4).find? fun n =>
    let x := (Tbl.atD c.dbp n 0).toNat
    bit x 0 && bit x 1 = lane &&
      (if lane then bits x 49 2 = addr && bits x 56 50 = 0 else bits x 56 2 = bits addr 56 2 && addr < 2 ^ 57)

/-- BREAK at the scalar stream's word (R420, R421). -/
def State.scalarBreak (s : State) (u code : Nat) : State :=
  let g := s.gang u
  s.trapEntry u { cause := cBREAK, code := code, tspc := g.spc, taddr := g.spc.toNat }

/-! ### The PREEMPT handler -/

/-- A forced save of a gang (R229): it keeps its state whole, in a handler or not, and will resume where it stopped; a parked gang stays parked (R311). -/
def Gang.force (g : Gang) : Gang :=
  { g with
    preq := none
    pbleft := 0
    run := match g.run with
      | .run => .forced
      | r => r }

/-- The delivery of a pre-emption to gang `u` at U (R229). -/
def State.preemptEntry (s : State) (u : Nat) (cause : Word64) : State :=
  let g := s.gang u
  let c := s.ctxOf g
  if c.pvec = 0 then s.modGang u Gang.force
  else
    ((s.breakOff u).setGang u { g.clearLanes with
      pframe := some (g.laneFrame g.spc)
      pspc := g.spc
      pcause := cause
      preq := none
      spc := c.pvec }).emitSync u 5

/-- PREEMPT_DELIVERY: a pending request reaches gang `u` at its boundary, unless it is at S, and before the BREAK of a stepped EXIT (R228, R229,
R421). -/
def execPreemptDelivery (u : Nat) (s : State) : Host.Outcome State Fault Refusal :=
  let g := s.gang u
  match g.preq with
  | some cause => if s.gangRuns g && !g.priv && (g.hasStream || (g.breakDue && !g.allExited)) then .next (s.preemptEntry u cause) else .next s
  | none => .next s

/-- Whether a cluster is being saved for a pre-emption or a migration. -/
def Cluster.beingSaved (c : Cluster) : Bool := c.st = .saving

/-- Whether no cycles are left to a gang before its PDONE while its cluster is being saved (R229; notes/assumptions/37.md). -/
def State.pbleftOut (s : State) (g : Gang) : Bool :=
  (s.clusterOfTeam g.team).beingSaved && g.pbleft = 0 && (g.preq.isSome || g.pframe.isSome)

/-- PBLEFT_EXPIRY: gang `u` is saved by force where it is (R229). -/
def execPbleftExpiry (u : Nat) (s : State) : Host.Outcome State Fault Refusal :=
  let g := s.gang u
  if (Tbl.at? s.gangs u).isSome && s.pbleftOut g then .next (s.setGang u g.force) else .next s

/-- YIELD (R223): a pre-emption that is pending is taken. -/
def execYield (s : State) : Host.Outcome State Fault Refusal :=
  s.issue fun u _ =>
    let s := s.advance u
    let g := s.gang u
    match g.preq with
    | some cause => if g.priv then s else s.preemptEntry u cause
    | none => s

/-- What a gang keeps when it has executed PDONE (R230): its scalar side. Every lane is as at creation. The request of an RNGACQ is kept where the gang
resumes at that word. -/
def Gang.discard (g : Gang) (resume : Word64) : Gang :=
  { g with
    queue := []
    block := none
    shared := []
    lanes := Gang.blank.lanes
    cells := Gang.blank.cells
    bar := none
    rng := (g.pframe.bind (·.rng)).filter fun _ => resume = g.pspc
    wait := .none
    pframe := none
    stepIn := false
    preq := none
    pbleft := 0 }

/-- The request of an RNGACQ that a PDONE leaves behind, and the requests of the lanes it discards. -/
def State.leaveAtPdone (s : State) (u : Nat) (resume : Word64) : State :=
  let g := s.gang u
  let s := (s.leaveAt u (g.pframe.bind (·.rng)) (resume = g.pspc)).leaveAt u g.rng false
  { s with requests := s.requests.filter fun r => !(r.who.isOf u && (r.ptype = 0 || r.ptype = 3)), pins := s.pins.filter fun x => !x.who.isOf u }

/-- PDONE (R230). A gang whose save is over when it runs one waits, suspended, for the next save of its cluster and the restore after it (DEDUCED,
notes/assumptions/37.md). -/
def execPdone (a : SReg) (s : State) : Host.Outcome State Fault Refusal :=
  s.issue fun u g =>
    let t := g.sreg a
    if g.pframe.isNone || g.priv then s.illegal u
    else if t.toNat % 4 ≠ 0 then s.scalarTrap u cALIGN t.toNat 0 0
    else
      let s := s.drainGang u
      if s.gangWritesOut u then s.stall u .other
      else ((s.advance u).leaveAtPdone u t).modGang u fun g => { g.discard t with run := .suspended t }

/-! ### Code fetch (R100) -/

/-- The outcome of a fetch: a wait for another device, a fault, or the bytes. -/
inductive Fetched where
  | wait (s : State)
  | fault (s : State) (cause fkind addr : Nat)
  | word (s : State) (bs : List Byte)

/-- `n` bytes of code at a physical address, through the copies of the core and its region. No access of its own is charged
(notes/assumptions/38.md). -/
def State.codeAt (s : State) (core asid pa n : Nat) : List Byte × Bool :=
  let line := lineOf pa
  let r := regionOfCore core
  let copy := match s.l1Copy core line with
    | some c => some c
    | none => if homeOf pa = r then none else s.nearCopy r asid line
  match (if isDev pa then copy else none) with
  | some c => c.part (pa % 128) n
  | none => s.memBytes asid pa n

/-- `n` bytes of code at a virtual address within one line; past the copies when `fresh` is set. -/
def State.fetchPart (s : State) (who : Asker) (fresh : Bool) (u va n : Nat) : Fetched :=
  let g := s.gang u
  if 2 ^ 57 ≤ va then .fault s cXLAT 7 va
  else match s.translateFor who (.core (s.coreOf g)) (s.asidOf g) va .fetch with
    | (s, .bad k) => .fault s (fkCause k) k va
    | (s, .ok pa _ _) =>
      let got : Got :=
        if isPeer pa then s.peerRead who g.team (s.asidOf g) (s.regOf g) pa n []
        else
          let (bs, bad) := if fresh then s.memBytes (s.asidOf g) pa n else s.codeAt (s.coreOf g) (s.asidOf g) pa n
          .bytes s [] bs bad
      match got with
      | .wait s => .wait (s.pin who [(va, pa)])
      | .bytes s _ bs bad => if bad then .fault s cPOISON 0 va else .word s bs

/-- `n` bytes of code, which may lie in two lines. A word in two lines is read past the copies, one of which may be older than the other: a fetch gives the
old word or the new one (R88, notes/assumptions/95.md). Neither part's answer is used before both are there. -/
def State.fetch (s : State) (who : Asker) (u va n : Nat) : Fetched :=
  let here := 128 - va % 128
  if n ≤ here then s.fetchPart who false u va n
  else match s.fetchPart who true u va here with
    | .word t a =>
      match s.fetchPart who true u (va + here) (n - here) with
      | .wait s => .wait s
      | _ =>
        match t.fetchPart who true u (va + here) (n - here) with
        | .word s b => .word s (a ++ b)
        | x => x
    | x => x

/-- SCALAR_FETCH_FAULT: the word at SPC cannot be read (R100). -/
def execScalarFetchFault (s : State) : Host.Outcome State Fault Refusal :=
  s.issue fun u g =>
    match s.fetch (.fetch u) u g.spc.toNat 4 with
    | .fault s c k addr => s.trapEntry u { cause := c, tspc := g.spc, taddr := addr, fkind := k, acc := accFetch }
    | .wait s => s
    | .word s _ => s

/-- ILLEGAL_ENCODING: a word that names nothing is reached by the stream, or by the issue group (R77, R87). -/
def execIllegalEncoding (s : State) : Host.Outcome State Fault Refusal :=
  s.issue fun u _ => if s.cells.isEmpty then s.illegal u else s.laneIllegal u

/-! ### Retirement -/

/-- Whether a gang has come to its end (R37); the BREAK of a stepped EXIT comes first (R421). -/
def State.retireReady (s : State) (g : Gang) : Bool :=
  s.gangRuns g && !s.stopped && (g.allExited || (g.exiting && !g.breakDue && g.queue.isEmpty && g.block.isNone))

/-- Whether a team has (R37, R38). -/
def State.exitReady (s : State) (x : Team) : Bool :=
  x.retired && x.tasks.isEmpty && x.copies.isEmpty && x.deferred.isEmpty && x.image.isNone && !s.stopped

/-- GANG_RETIRE: every lane has exited, or the stream has ended and the lanes are done; the gang's stores are accepted first (R37). -/
def execGangRetire (u : Nat) (s : State) : Host.Outcome State Fault Refusal :=
  match Tbl.at? s.gangs u with
  | none => .next s
  | some g =>
    if s.retireReady g then
      let s := s.drainGang u
      if s.gangWritesOut u then .next s else .next ((s.retireGang u).drowseAim (s.regOf g))
    else .next s

/-- TEAM_EXIT: the team's work has finished (R37, R38). -/
def execTeamExit (t : Nat) (s : State) : Host.Outcome State Fault Refusal :=
  match Tbl.at? s.teams t with
  | none => .next s
  | some x =>
    if s.exitReady x then .next (s.teamExit t)
    else .next s

end Sys2Proof.Machine
end

