-- ==== Sys2Proof/Machine/Room.lean ====
section
/-!
DEFINITION. What a core has free and what a team is granted there (R15, R16, R325).
-/

namespace Sys2Proof.Machine

/-- What is taken on a core: gang slots, and runs of store rows, tiles and tags as (first, length). -/
structure Room where
  core : Nat
  slots : List Nat
  rows : List (Nat × Nat)
  tiles : List (Nat × Nat)
  tags : List (Nat × Nat)
  deriving DecidableEq, Repr

/-- What a team needs of a core. -/
structure Shape where
  gangs : Nat
  regs : Nat
  rows : Nat
  tiles : Nat
  tags : Nat
  deriving DecidableEq, Repr

/-- What a team is granted. -/
structure Grant where
  core : Nat
  slots : List Nat
  wbases : List Nat
  sbase : Nat
  tileBase : Nat
  tagBase : Nat
  deriving DecidableEq, Repr

def LaunchRec.shape (r : LaunchRec) : Shape :=
  { gangs := r.gangs, regs := r.regs, rows := r.scratch / 128, tiles := r.tiles, tags := r.tags }

/-- The lowest free run of `n` places among `cap`, given the runs taken. A run of none begins at 0. -/
def lowestGap (taken : List (Nat × Nat)) (cap n : Nat) : Option Nat :=
  if n = 0 then some 0
  else
    let free := fun a => a + n ≤ cap && taken.all fun r => r.2 = 0 || a + n ≤ r.1 || r.1 + r.2 ≤ a
    minOf ((0 :: taken.map fun r => r.1 + r.2).filter free)

/-- `k` windows of `n` rows in the lowest free runs. -/
def takeWindows : (k n : Nat) → List (Nat × Nat) → Option (List Nat × List (Nat × Nat))
  | 0, _, t => some ([], t)
  | k + 1, n, t =>
    match lowestGap t coreRows n with
    | none => none
    | some a => (takeWindows k n ((a, n) :: t)).map fun x => (a :: x.1, x.2)

/-- A team placed on a core, if it fits there (R16, R325). -/
def Room.take (x : Room) (n : Shape) : Option (Grant × Room) :=
  let free := (List.range 16).filter fun i => !x.slots.contains i
  if free.length < n.gangs then none
  else
    match takeWindows n.gangs n.regs x.rows with
    | none => none
    | some (ws, rows) =>
      match lowestGap rows coreRows n.rows, lowestGap x.tiles 64 n.tiles, lowestGap x.tags 64 n.tags with
      | some sb, some tl, some tg =>
        let rows := (sb, n.rows) :: rows
        if coreRows < (rows.map (·.2)).foldl (· + ·) 0 + l1Rows then none
        else
          let slots := free.take n.gangs
          some ({ core := x.core, slots := slots, wbases := ws, sbase := sb, tileBase := tl, tagBase := tg },
            { x with slots := x.slots ++ slots, rows := rows, tiles := (tl, n.tiles) :: x.tiles, tags := (tg, n.tags) :: x.tags })
      | _, _, _ => none

/-- What is taken on a core; a team of a cluster in `drop` does not count. -/
def State.room (s : State) (drop : Nat → Bool) (core : Nat) : Room :=
  let ts := (s.teams.filter fun e => e.2.core = core && s.holdsRoom e.2 && !drop e.2.cluster).map (·.2)
  let r := fun (t : Team) => (s.grid t.grid).rcd
  { core := core
    slots := ts.flatMap fun t => t.slots
    rows := ts.flatMap fun t => (t.sbase, (r t).scratch / 128) :: t.wbases.map fun w => (w, (r t).regs)
    tiles := ts.map fun t => (t.tileBase, (r t).tiles)
    tags := ts.map fun t => (t.tagBase, (r t).tags) }

/-- A cluster of `n` teams placed in a region: team t goes to the t-th lowest core that can take it (R325). -/
def placeIn (rooms : List Room) (n : Nat) (sh : Shape) : Option (List Grant × List Room) :=
  let able := (rooms.filter fun x => (x.take sh).isSome).take n
  if able.length < n then none
  else
    some (able.filterMap (fun x => (x.take sh).map (·.1)),
      rooms.map fun x => if able.any fun y => y.core = x.core then ((x.take sh).map (·.2)).getD x else x)

/-- Cores able to take a further team of a shape. -/
def ableCores (rooms : List Room) (sh : Shape) : Nat := (rooms.filter fun x => (x.take sh).isSome).length

/-- The rooms of a region's cores, with the room of clusters that migrate there reserved (R335). -/
def State.rooms (s : State) (drop : Nat → Bool) (r : Nat) : List Room :=
  let base := (List.range 8).map fun i => s.room drop (8 * r + i)
  (s.clusters.filter fun e => e.2.target = some r && !drop e.1).foldl (fun rooms e =>
    let rc := (s.grid e.2.grid).rcd
    ((placeIn rooms e.2.teams.length rc.shape).map (·.2)).getD rooms) base

/-- The best region for a cluster: the fit that leaves the fewest cores able to take a further team, with ties to the lowest number (R325). -/
def bestRegion (rooms : Tbl (List Room)) (allowed : Nat → Bool) (n : Nat) (sh : Shape) : Option (Nat × List Grant × List Room) :=
  rooms.foldl (fun best e =>
    if !allowed e.1 then best
    else match placeIn e.2 n sh with
      | none => best
      | some (g, after) =>
        match best with
        | some (r, g', after') => if ableCores after sh < ableCores after' sh then some (e.1, g, after) else some (r, g', after')
        | none => some (e.1, g, after)) none

/-- `k` clusters placed one after another, if all fit (R324). -/
def placeAll (allowed : Nat → Bool) (n : Nat) (sh : Shape) : (k : Nat) → Tbl (List Room) → Option (List (Nat × List Grant))
  | 0, _ => some []
  | k + 1, rooms =>
    match bestRegion rooms allowed n sh with
    | none => none
    | some (r, g, after) => (placeAll allowed n sh k (Tbl.put rooms r after)).map fun l => (r, g) :: l

/-- How many clusters an empty region takes. -/
def emptyFits (n : Nat) (sh : Shape) : (fuel : Nat) → List Room → Nat
  | 0, _ => 0
  | f + 1, rooms =>
    match placeIn rooms n sh with
    | some (_, after) => 1 + emptyFits n sh f after
    | none => 0

/-- How many clusters of a shape a partition takes with every core empty (R93). -/
def State.capacity (s : State) (p n : Nat) (sh : Shape) : Nat :=
  let empty := (List.range 8).map fun i => ({ core := i, slots := [], rows := [], tiles := [], tags := [] } : Room)
  (s.regionsOf p).length * emptyFits n sh 128 empty

end Sys2Proof.Machine
end

