-- ==== Sys2Proof/Machine/Absence.lean ====
section
/-!
DEFINITION. Absence and return: saving and restoring a team (R168, R209, R308, R309, R333, R334), pre-emption requests (R229, R331, R332, R341),
replies (R302, R303) and stalled clusters (R305).
-/

namespace Sys2Proof.Machine

/-! ### Saving -/

/-- Whether a gang needs nothing more before its team's image is written (R332): templates never run. One that parked with a request undelivered, or in
its PREEMPT handler, has until PBLEFT is 0 (R311). -/
def Gang.saved (g : Gang) : Bool :=
  match g.run with
  | .run => false
  | .parked _ | .replied _ _ => g.pbleft = 0 || (g.preq.isNone && g.pframe.isNone)
  | _ => true

/-- Whether a gang's window is part of its image: it has not executed PDONE (R333). -/
def Gang.keepsWindow (g : Gang) : Bool :=
  match g.run with
  | .suspended _ => false
  | _ => true

/-- Bytes `n` of a core's store from `a`, with their poison, relative to `a`. -/
def State.storePart (s : State) (a n : Nat) : LineCopy :=
  { bytes := Mem.read s.store a n, bad := (s.storeBad.filter fun x => a ≤ x && x < a + n).map (· - a) }

/-- Bytes put back into a store. -/
def State.putPart (s : State) (a : Nat) (x : LineCopy) : State :=
  { s with
    store := Mem.write s.store a x.bytes
    storeBad := delPoison s.storeBad a x.bytes.length ++ x.bad.map (a + ·) }

/-- Whether a team's scratchpad is part of its image: some live gang was saved by force (R308, R333), or none is live, so that no PDONE has given it up
(R38, notes/assumptions/92.md). -/
def State.keepsScratch (s : State) (t : Nat) : Bool :=
  (s.liveOf t).isEmpty || (s.liveOf t).any fun u => (s.gang u).keepsWindow

/-- The length of a team's image (R333). -/
def State.imageBytes (s : State) (t : Nat) : Nat :=
  let r := (s.gridOfTeam t).rcd
  let gangs := (s.gangsOf t).map fun u => if (s.gang u).keepsWindow then r.regs * 128 + 2048 else 2048
  gangs.foldl (· + ·) 0 + 1024 + r.tiles * 8192 + if s.keepsScratch t then r.scratch else 0

/-- A team's image (R308, R333). -/
def State.imageOf (s : State) (t : Nat) : Image :=
  let tm := s.team t
  let r := (s.gridOfTeam t).rcd
  let base := coreBase tm.core
  { windows := ((s.gangsOf t).filter fun u => (s.gang u).keepsWindow).map fun u =>
      (u, s.storePart (base + (s.gang u).wbase * 128) (r.regs * 128))
    scratch := if s.keepsScratch t then s.storePart (base + tm.sbase * 128) r.scratch else { bytes := [], bad := [] }
    tiles := Mem.read s.acc (accAddr tm.core tm.tileBase 0) (8192 * r.tiles)
    metas := (List.range r.tiles).map fun i => BitVec.ofNat 32 (s.tileMeta tm.core (tm.tileBase + i))
    bytes := s.imageBytes t }

/-- A row slot as its team is saved: a persistent hold is recorded, a volatile one is lost (R168). -/
def State.saveRow (s : State) (t n : Nat) : State :=
  let x := (s.team t).row n
  if x.st = .held && !x.saved then
    let opens := match (s.rowTab.find? fun e => e.row = x.row).bind fun e => e.ref? t n with
      | some y => y.opens
      | none => 0
    (s.dropRowRef t n x.row).setRow t n
      (if x.pers then { x with saved := true, savedOpen := opens } else { RowSlot.blank with st := .lost, why := 2, row := x.row })
  else s

/-- The charge of an image (R230, R308, R333). -/
def State.chargeImage (s : State) (t : Nat) : State :=
  match (s.team t).image with
  | some i => s.charge (s.asidOfTeam t) (regionOfCore (s.team t).core) (wSave * ceilDiv i.bytes 128)
  | none => s

/-- A team saved: its buffers drain, its rows and engines stop, its image is written and what it held on the core is freed, zeroed. -/
def State.saveTeam (s : State) (t : Nat) : State :=
  let s := (s.gangsOf t).foldl (fun (s : State) u => s.drainGang u) s
  let s := (List.range 8).foldl (fun (s : State) n => s.saveRow t n) s
  let img := s.imageOf t
  let s := (s.zeroTeam t).modTeam t fun x =>
    { x with
      image := some img
      tasks := x.tasks.map fun k => { k with engine := none }
      copies := x.copies.map fun k => { k with engine := none } }
  s.chargeImage t

/-- The teams of a cluster. -/
def State.teamsOfCluster (s : State) (c : Nat) : List Nat := (s.cluster c).teams

/-- The live gangs of a cluster. -/
def State.gangsOfCluster (s : State) (c : Nat) : List Nat := (s.teamsOfCluster c).flatMap s.liveOf

/-- Whether every live gang of a team is saved (R332). -/
def State.gangsSaved (s : State) (t : Nat) : Bool := (s.liveOf t).all fun u => (s.gang u).saved

/-- Whether a cluster's image can be written: every gang is saved, no row slot is opening, and no chunk or step is in hand (R168, R209, R332). -/
def State.canSave (s : State) (c : Nat) : Bool :=
  (s.teamsOfCluster c).all fun t =>
    s.gangsSaved t && (List.range 8).all (fun n => ((s.team t).row n).st ≠ .opening) && !s.workBusy t

def State.saveCluster (s : State) (c : Nat) : State :=
  ((s.teamsOfCluster c).foldl (fun (s : State) t => s.saveTeam t) s).drowseAim (s.cluster c).region

/-! ### Room granted and given -/

/-- A team's grant taken: its gangs get the slots and windows that stand where their old ones stood, and S its new placement (R219, R429). -/
def State.giveGrant (s : State) (t : Nat) (x : Grant) : State :=
  let tm := s.team t
  let slotOf := fun n => (x.slots[tm.slots.idxOf n]?).getD n
  let winOf := fun n => (x.wbases[tm.wbases.idxOf n]?).getD n
  let move := fun (g : Gang) =>
    { g with
      slot := slotOf g.slot
      wbase := winOf g.wbase
      segs := Tbl.upd g.segs 1 fun y => { y with base := BitVec.ofNat 64 (x.sbase * 128) } }
  let s := (s.gangsOf t).foldl (fun (s : State) u => s.modGang u move) s
  let s : State := { s with uid := s.uid + 1 }
  s.modTeam t fun y =>
    { y with
      core := x.core, slots := x.slots, wbases := x.wbases, sbase := x.sbase, tileBase := x.tileBase, tagBase := x.tagBase, placed := s.uid }

/-- A cluster that returns is placed: its room is taken, from L1 too (R269), and its restore begins (R307, R309). -/
def State.beginRestore (s : State) (c r : Nat) (grants : List Grant) : State :=
  let s := ((s.teamsOfCluster c).zip grants).foldl (fun (s : State) e => s.giveGrant e.1 e.2) s
  let s := s.modCluster c fun x => { x with region := r, cohort := r / 6, st := .restoring, target := none }
  grants.foldl (fun (s : State) x => s.shrinkL1 x.core (s.l1Lines x.core)) s

/-! ### Replies -/

/-- TFSTAT (R303). -/
def tfstatOf (slot seq status : Nat) : Word64 := BitVec.ofNat 64 (2 ^ 32 + status * 2 ^ 24 + seq * 2 ^ 16 + slot)

/-- A parked gang goes on at the instruction after FLTPARK, with TFSTAT written (R303, R304). -/
def State.unpark (s : State) (u slot status : Nat) : State :=
  let seq := (Tbl.atD (s.ctxOf (s.gang u)).slots slot FaultSlot.blank).seq
  s.modGang u fun g => { g with run := .run, tfstat := tfstatOf slot seq status }

/-- Whether a slot waits for a reply. -/
def State.slotWaits (s : State) (asid n : Nat) : Bool := (Tbl.atD (s.ctx asid).slots n FaultSlot.blank).st = .waiting

/-- A cluster that is absent becomes READY when every parked gang has its reply and it holds no WAITING slot (R307). -/
def State.readyCheck (s : State) (c : Nat) : State :=
  let x := s.cluster c
  let asid := (s.grid x.grid).asid
  let parked := (s.gangsOfCluster c).any fun u => match (s.gang u).run with
    | .parked _ => true
    | _ => false
  let waits := (s.slotsOwned asid fun o => x.teams.any fun t => s.ownedByTeam t o).any fun n => s.slotWaits asid n
  if x.st = .absent && !parked && !waits then
    (s.modCluster c fun y => { y with st := .ready, readyAt := s.readySeq }) |> fun (s : State) => { s with readySeq := s.readySeq + 1 }
  else s

/-- Engine work that waited on a slot restarts, and the slot is free (R302). -/
def State.restartWork (s : State) (asid n : Nat) (o : SlotOwner) : State :=
  (s.workFault o none).freeSlot asid n

/-- Whether the owner of a slot is there to receive its reply at once: a gang while it is not saved, parked or not, and other work while its cluster
executes (R302, R311). -/
def State.ownerHere (s : State) (o : SlotOwner) : Bool :=
  match o with
  | .gang u | .range u =>
    match (s.clusterOfTeam (s.gang u).team).st with
    | .resident | .stalled => true
    | .saving => !(s.gang u).saved
    | _ => false
  | .copy t _ | .task t _ => (s.clusterOfTeam t).executes
  | .notice | .gone _ => true

/-- The cluster of a slot's owner. -/
def State.ownerCluster (s : State) (o : SlotOwner) : Nat :=
  match o with
  | .gang u | .range u => (s.team (s.gang u).team).cluster
  | .copy t _ | .task t _ | .gone t => (s.team t).cluster
  | .notice => 0

/-- What a reply does that has matched slot `n` (R302). -/
def State.land (s : State) (asid n status : Nat) : State :=
  let o := (Tbl.atD (s.ctx asid).slots n FaultSlot.blank).owner
  let s := s.modCtx asid fun c => { c with slots := Tbl.upd c.slots n fun x => { x with st := .replied, status := status } }
  let here := s.ownerHere o
  match o with
  | .notice => s.freeSlot asid n
  | .gone _ => (s.freeSlot asid n).readyCheck (s.ownerCluster o)
  | .gang u =>
    if here then s.unpark u n status
    else (s.modGang u fun g => { g with run := .replied n status }).readyCheck (s.ownerCluster o)
  | .range _ => if here then s else s.readyCheck (s.ownerCluster o)
  | o => if here then s.restartWork asid n o else s.readyCheck (s.ownerCluster o)

/-! ### Restoring -/

/-- Whether an open segment of a row shows an uncorrectable error. -/
def State.rowBad (s : State) (row : Nat) (opens : BitVec 8) : Bool :=
  (setBits 8 opens.toNat).any fun i => poisoned s.memBad (1024 * row + 128 * i) 128

/-- A recorded row hold re-opened, or lost when a segment shows an uncorrectable error or no entry is free (R168). Where both hold, WHY is 3 (DESIGN
CHOICE, notes/assumptions/91.md). -/
def State.restoreRow (s : State) (t n : Nat) : State :=
  let x := (s.team t).row n
  if x.st = .held && x.saved then
    if s.rowBad x.row x.savedOpen then s.setRow t n { RowSlot.blank with st := .lost, why := 3, row := x.row }
    else match s.holdRow (s.asidOfTeam t) t n x.row x.savedOpen with
    | some s => s.setRow t n { x with saved := false, savedOpen := 0 }
    | none => s.setRow t n { RowSlot.blank with st := .lost, why := 4, row := x.row }
  else s

/-- A gang of a restored team goes on (R304, R334), with its SYNC (R418). -/
def State.wake (s : State) (u : Nat) : State :=
  let g := s.gang u
  match g.run with
  | .suspended spc => (s.modGang u fun g => { g with run := .run, spc := spc }).emitSync u 6
  | .replied slot status => (s.unpark u slot status).emitSync u 2
  | .forced => (s.modGang u fun g => { g with run := .run }).emitSync u 2
  | .parked _ => s.emitSync u 2
  | _ => s

/-- Replies recorded for a team's engine work land (R302); a waiting RNGACQ reads its reply in the slot. -/
def State.landRecorded (s : State) (t : Nat) : State :=
  let asid := s.asidOfTeam t
  (s.slotsOwned asid (s.ownedByTeam t)).foldl (fun (s : State) n =>
    let x := Tbl.atD (s.ctx asid).slots n FaultSlot.blank
    if x.st = .replied then
      match x.owner with
      | .copy _ _ | .task _ _ => s.restartWork asid n x.owner
      | _ => s
    else s) s

/-- A team restored on its core. -/
def State.restoreTeam (s : State) (t : Nat) : State :=
  let tm := s.team t
  match tm.image with
  | none => s
  | some img =>
    let s := ((s.chargeImage t).modTeam t fun x => { x with image := none }).zeroTeam t
    let base := coreBase tm.core
    let s := img.windows.foldl (fun (s : State) e =>
      match Tbl.at? s.gangs e.1 with
      | some g => s.putPart (base + g.wbase * 128) e.2
      | none => s) s
    let s := s.putPart (base + tm.sbase * 128) img.scratch
    let s := { s with acc := Mem.write s.acc (accAddr tm.core tm.tileBase 0) img.tiles }
    let s := ((List.range img.metas.length).zip img.metas).foldl (fun (s : State) e =>
      s.setMeta tm.core (tm.tileBase + e.1) e.2.toNat) s
    let s := s.acquire tm.core 3 fun _ => true
    let s := (List.range 8).foldl (fun (s : State) n => s.restoreRow t n) s
    s.landRecorded t

/-! ### Stalled clusters (R305) -/

/-- Whether a gang has arrived, in the present phase, at the barrier that another gang waits at. -/
def State.sameBarrier (s : State) (g h : Gang) (b : Nat) : Bool :=
  match bidLevel b with
  | 1 => g.team = h.team
  | 2 => (s.team g.team).cluster = (s.team h.team).cluster
  | 3 => (s.team g.team).grid = (s.team h.team).grid && (s.clusterOfTeam g.team).cohort = (s.clusterOfTeam h.team).cohort
  | _ => (s.team g.team).grid = (s.team h.team).grid

/-- Whether a gang is parked (R304). -/
def Gang.parked? (g : Gang) : Bool :=
  match g.run with
  | .parked _ | .replied _ _ => true
  | _ => false

/-- Whether barrier `b`, at which gang `g` waits, lacks a parked gang or an absent team (R305). -/
def State.barHeld (s : State) (g : Gang) (b : Nat) : Bool :=
  s.phaseOpen g b && s.gangs.any fun e =>
    !e.2.isTpl && s.sameBarrier g e.2 b && !s.arrivedAt e.2 b &&
      (e.2.parked? || !(s.clusterOfTeam e.2.team).onCore)

/-- Whether tag `n` of a team counts work that holds a WAITING slot (R305). -/
def State.tagHeld (s : State) (t n : Nat) : Bool :=
  let tm := s.team t
  let asid := s.asidOfTeam t
  let waits := fun (f : Option Nat) => match f with
    | some k => s.slotWaits asid k
    | none => false
  (tm.copies.any fun k => k.tag = n && waits k.fault) ||
    tm.tasks.any fun k => tagField (TaskRec.of k.rcd).sig = some n && waits k.fault

/-- A wait that makes a gang stalled, and one that holds on a fault-held tag. -/
def State.waitHeld (s : State) (g : Gang) (w : Wait) : Bool × Bool :=
  match w with
  | .bar b => (s.barHeld g b, false)
  | .tags m => let h := (setBits 64 m).any fun n => s.tagHeld g.team n; (h, h)
  | _ => (false, false)

/-- What a gang waits for, in its stream and in its cells; none when a stream of it may go on. -/
def State.waitsOf (s : State) (g : Gang) : Option (List Wait) :=
  let cells := g.liveCells.map g.cell
  let lane := fun (x : Cell) => match x.run with
    | .run => if x.wait = .none then none else some x.wait
    | _ => some .other
  let lanes := if g.block.isSome then cells.map lane else if g.queue.isEmpty then [] else [none]
  let all := (if g.hasStream then [if g.wait = .none then none else some g.wait] else []) ++ lanes
  if g.run ≠ .run || !(s.team g.team).deferred.isEmpty || all.any Option.isNone then none else some (all.filterMap id)

/-- Whether a gang is stalled, and whether it is parked or waits on a fault-held tag. -/
def State.stalled (s : State) (g : Gang) : Bool × Bool :=
  if g.parked? then (true, true)
  else if g.priv || g.pframe.isSome then (false, false)
  else match s.waitsOf g with
    | none => (false, false)
    | some ws =>
      let h := ws.map (s.waitHeld g)
      (h.any (·.1), h.any (·.2))

/-- Whether a cluster is stalled (R305). -/
def State.clusterStalled (s : State) (c : Nat) : Bool :=
  let l := (s.gangsOfCluster c).map fun u => s.stalled (s.gang u)
  l.all (·.1) && l.any (·.2)

/-- RESIDENT and STALLED brought up to date (R307). -/
def State.restall (s : State) : State :=
  s.clusters.foldl (fun (s : State) e =>
    match e.2.st with
    | .resident => if s.clusterStalled e.1 then s.modCluster e.1 fun x => { x with st := .stalled, stallNs := 0 } else s
    | .stalled => if s.clusterStalled e.1 then s else s.modCluster e.1 fun x => { x with st := .resident, stallNs := 0 }
    | _ => s) s

/-- What ends every step: the charges of what has ended land (R346), and a cluster that became stalled, or a gang of which is stalled no more, is told
(R307). -/
def State.settle (s : State) : State := s.landCharges.restall

/-- The outcome of an instruction once the step has ended. -/
def landed (x : Host.Outcome State Fault Refusal) : Host.Outcome State Fault Refusal :=
  match x with
  | .next s => .next s.settle
  | x => x

/-! ### Pre-emption requests (R229, R331, R335, R341) -/

/-- A request reaches a gang: it is recorded, or the gang is saved by force at once, a gang at S among them where PVEC is 0 (DESIGN CHOICE,
notes/assumptions/130.md). -/
def State.askGang (s : State) (u : Nat) (cause : Word64) : State :=
  let g := s.gang u
  let c := s.ctxOf g
  match g.run with
  | .run =>
    if c.pvec = 0 then s.setGang u g.force
    else s.setGang u { g with preq := some cause, pbleft := 100 * c.pbudget }
  | _ => s

/-- A request reaches a cluster: a stalled one is saved by force, one that migrates keeps its save but not its room, and
one that restores receives the request afterwards (R341). -/
def State.askCluster (s : State) (c : Nat) (cause : Word64) : State :=
  let x := s.cluster c
  let gangs := s.gangsOfCluster c
  match x.st with
  | .resident =>
    gangs.foldl (fun (s : State) u => s.askGang u cause) (s.modCluster c fun x => { x with st := .saving })
  | .stalled =>
    gangs.foldl (fun (s : State) u => s.modGang u Gang.force) (s.modCluster c fun x => { x with st := .saving })
  | .saving => s.modCluster c fun x => { x with target := none }
  | .restoring => s.modCluster c fun x => { x with asked := some cause }
  | _ => s

/-- The clusters of a context. -/
def State.clustersOfCtx (s : State) (asid : Nat) : List Nat := Tbl.keysOf s.clusters fun c => (s.grid c.grid).asid = asid

/-- A context that holds no room any more leaves PREEMPTING (R331). -/
def State.preemptDone (s : State) (asid : Nat) : State :=
  let c := s.ctx asid
  let held := (s.clustersOfCtx asid).any fun n => match (s.cluster n).st with
    | .absent | .ready => false
    | _ => true
  if c.st = .preempting && !held then
    s.modCtx asid fun c => { c with st := if c.empty then .dry else .eligible, slice := none }
  else s

/-- PCAUSE (R225). -/
def pcauseOf (cause reason : Nat) : Word64 := BitVec.ofNat 64 (cause + reason * 16)

/-- A context is pre-empted (R331); which of its clusters are stalled is told at this moment (R341). -/
def State.preempt (s : State) (asid cause reason : Nat) : State :=
  if (s.ctx asid).st = .eligible then
    let s := s.restall.modCtx asid fun c => { c with st := .preempting }
    ((s.clustersOfCtx asid).foldl (fun (s : State) c => s.askCluster c (pcauseOf cause reason)) s).preemptDone asid
  else s

/-! ### The steps of a save and a restore -/

/-- A cluster whose image has been written waits for room, or streams to the region it migrates to (R307, R332, R335). -/
def State.afterSave (s : State) (c : Nat) (ready : Bool) : State :=
  let x := s.cluster c
  let rc := (s.grid x.grid).rcd
  let absent := fun (s : State) => s.modCluster c fun x => { x with st := .absent, target := none }
  match x.target with
  | some r =>
    match placeIn (s.rooms (fun n => n = c) r) x.teams.length rc.shape with
    | some (grants, _) => s.beginRestore c r grants
    | none => (absent s).readyCheck c
  | none =>
    if ready then
      let s := s.modCluster c fun x => { x with st := .ready, readyAt := s.readySeq }
      { s with readySeq := s.readySeq + 1 }
    else (absent s).readyCheck c

/-- CLUSTER_SAVED: every gang has executed PDONE or been saved by force, and the image is written (R332). -/
def execClusterSaved (c : Nat) (s : State) : Host.Outcome State Fault Refusal :=
  match Tbl.at? s.clusters c with
  | none => .next s
  | some x =>
    if x.st = .saving && s.canSave c then
      .next ((((s.saveCluster c).modCluster c fun y => { y with swapped := false }).afterSave c true).preemptDone (s.grid x.grid).asid)
    else .next s

/-- SWAP_SAVE_COMPLETE: the image of a swapped cluster is written (R307, R308). -/
def execSwapSaveComplete (c : Nat) (s : State) : Host.Outcome State Fault Refusal :=
  match Tbl.at? s.clusters c with
  | none => .next s
  | some x =>
    if x.st = .swapping && s.canSave c then
      .next ((((s.saveCluster c).modCluster c fun y => { y with swapped := true }).afterSave c false).preemptDone (s.grid x.grid).asid)
    else .next s

/-- RESTORE_COMPLETE: the cluster is resident again; a request that waited for it is delivered (R307, R334, R341). -/
def execRestoreComplete (c : Nat) (s : State) : Host.Outcome State Fault Refusal :=
  match Tbl.at? s.clusters c with
  | none => .next s
  | some x =>
    if x.st = .restoring then
      let asid := (s.grid x.grid).asid
      let first := !s.hasResident asid
      let s := x.teams.foldl (fun (s : State) t => s.restoreTeam t) s
      let s := s.modCluster c fun y => { y with st := .resident, stallNs := 0 }
      let s := if first then s.modCtx asid fun k => { k with slice := some 0 } else s
      let s := ((s.gangsOfCluster c).foldl (fun (s : State) u => s.wake u) s).drowseAim x.region
      .next (match (s.cluster c).asked with
        | some cause => (s.modCluster c fun y => { y with asked := none }).restall.askCluster c cause
        | none => s)
    else .next s

end Sys2Proof.Machine
end

