-- ==== Sys2Proof/Machine/Meter.lean ====
section
/-!
DEFINITION. Ticks, correction, accounts, buckets and meter readings (R351 to R357, R369 to R372, R400).
-/

namespace Sys2Proof.Machine

/-! ### The meter ring (R371, R372, R400) -/

/-- A byte string cut or filled with zeros to `n` bytes. -/
def fitBytes (n : Nat) (bs : List Byte) : List Byte := bs.take n ++ List.replicate (n - bs.length) 0

/-- The reading record: the body and its two signatures under the meter keys that die 0 certifies (R371, R403). -/
def signed (body : List Byte) : List Byte :=
  body ++ fitBytes 64 (Config.ed25519Sign (Config.certificate 0) body) ++ fitBytes 3309 (Config.mldsa65Sign (Config.certificate 0) body)

/-- The physical address of a host address (R386). -/
def hostPa (a : Nat) : Nat := 2 ^ 48 + a % 2 ^ 48

/-- Waiting readings written to the ring of their partition while it has room and is enabled, with fuel (R400). -/
def State.drainMeter : (fuel : Nat) → State → (p : Nat) → State
  | 0, s, _ => s
  | n + 1, s, p =>
    let x := s.part p
    match x.mwait with
    | [] => s
    | y :: rest =>
      if x.mren && (x.mrtail - x.mrhead).toNat ≠ x.mrSize then
        let a := hostPa (x.mrbase.toNat + 4096 * (x.mrtail.toNat % x.mrSize))
        let s := { s with mem := Mem.write s.mem a (fitBytes 4096 (signed y.body)), memBad := delPoison s.memBad a 4096 }
        State.drainMeter n (s.modPart p fun x => { x with mwait := rest, mrtail := x.mrtail + 1 }) p
      else s

def State.drainReadings (s : State) (p : Nat) : State := State.drainMeter ((s.part p).mwait.length) s p

/-- A reading that joins those waiting; a periodic one replaces the periodic one of its context that waits (R400). -/
def queueReading (l : List Reading) (y : Reading) : List Reading :=
  let old := fun (z : Reading) => z.asid = y.asid && z.kind = 0
  if y.kind = 0 && l.any old then l.map fun z => if old z then y else z else l ++ [y]

/-! ### Readings (R370) -/

/-- CAVG (R370). -/
def Interval.cavg (v : Interval) : Nat := if v.sumd = 0 then 16384 else (32768 * v.sumx + v.sumd) / (2 * v.sumd)

/-- The body of a reading of a context, whose interval ends now (R370). -/
def State.readingBody (s : State) (asid kind : Nat) : List Byte :=
  let c := s.ctx asid
  let p := s.part c.part
  let v := c.iv
  let flags := b2n c.ecsat + 2 * b2n v.stopped + 4 * b2n v.undervolt
  bytesOf 2 1 ++ bytesOf 1 kind ++ bytesOf 1 flags ++ bytesOf 4 p.tenant.toNat ++ bytesOf 2 (c.part % 4096) ++ bytesOf 2 asid ++
    bytesOf 4 0 ++ bytesOf 8 Config.devsn.toNat ++ bytesOf 8 s.seq ++ bytesOf 8 v.start ++ bytesOf 8 s.now ++ bytesOf 12 c.account ++
    bytesOf 4 0 ++ bytesOf 12 c.static ++ bytesOf 4 0 ++ bytesOf 8 c.model ++
    bytesOf 2 (if v.sumd = 0 then 16384 else v.cmin) ++ bytesOf 2 (if v.sumd = 0 then 16384 else v.cmax) ++ bytesOf 2 v.cavg ++
    bytesOf 2 v.opseen.toNat ++ bytesOf 8 c.ectrWord ++ bytesOf 8 v.tstop ++ bytesOf 16 0

/-- A reading issued: numbered, queued for the meter ring, and the next interval begun (R370, R372). -/
def State.issueReading (s : State) (asid kind : Nat) : State :=
  let p := (s.ctx asid).part
  let y : Reading := { asid := asid, kind := kind, body := s.readingBody asid kind }
  let s : State := { s with seq := s.seq + 1 }
  let s := s.modPart p fun x => { x with mwait := queueReading x.mwait y }
  (s.modCtx asid fun c =>
    { c with
      iv := Interval.from s.now
      requested := if kind = 2 then c.requested - 1 else c.requested
      readAt := if c.readAt ≤ s.now then s.now + 16000 * (s.part p).readint else c.readAt }).drainReadings p

/-- READING_PERIODIC: the reading that is due for a context at the end of a tick; a host request makes it KIND 2 (R372). -/
def execReadingPeriodic (asid : Nat) (s : State) : Host.Outcome State Fault Refusal :=
  match Tbl.at? s.ctxs asid with
  | none => .next s
  | some c => if s.readingDue c then .next (s.issueReading asid (if c.requested = 0 then 0 else 2)) else .next s

/-! ### Correction (R352 to R356) -/

/-- The correction ratio, in units of 1 / 16,384 (R354). -/
def ratioOf (dmeas dmod : Nat) : Nat :=
  if dmod = 0 then 16384
  else
    let c := (32768 * dmeas + dmod) / (2 * dmod)
    if c < 8192 then 8192 else if 32767 < c then 32767 else c

/-- M and S of an island: the sample given, or free values where none is. -/
def State.sampleOf (s : State) (l : List Sample) (i : Nat) : State × Nat × Nat :=
  match l.find? fun x => x.island = i with
  | some x => (s, x.m, x.s)
  | none =>
    let (m, s) := s.fresh
    let (v, s) := s.fresh
    (s, m.toNat, v.toNat)

/-- The modelled energy of a party in an island. -/
def dOf (t : Tbl Nat) (i : Nat) : Nat := Tbl.atD t i 0

/-- The static share of a context in an island, of S over `len` ns of which `run` ns were not stopped (R355). -/
def Ctx.share (c : Ctx) (i sta len run dmod : Nat) : Nat :=
  if i < 48 then sta * dOf c.resident i / (1441440 * 12 * len) else sta * run * dOf c.dtick i / (len * dmod)

/-- A context's account after an island's tick (R354 to R356, R370). -/
def Ctx.correct (c : Ctx) (i ratio share : Nat) : Ctx :=
  let d := dOf c.dtick i
  let t := d * ratio + dOf c.resid i
  let x := if d = 0 then 0 else t / 16384
  { c with
    account := c.account + x + share
    static := c.static + share
    resid := if d = 0 then c.resid else Tbl.put c.resid i (t % 16384)
    iv := if d = 0 then c.iv else
      { c.iv with
        cmin := if ratio < c.iv.cmin then ratio else c.iv.cmin
        cmax := if c.iv.cmax < ratio then ratio else c.iv.cmax
        sumx := c.iv.sumx + x
        sumd := c.iv.sumd + d } }

/-- The corrected part of an overhead account and its residual (R354). -/
def overX (d r ratio : Nat) : Nat × Nat := ((d * ratio + r) / 16384, (d * ratio + r) % 16384)

/-- The parties whose figures are closed: at a tick all of them, and before it some contexts and partitions only (R357, R373, R406). -/
structure Parties where
  ctx : Nat → Bool
  part : Nat → Bool
  all : Bool

/-- Sum of a list. -/
def sumOf (l : List Nat) : Nat := l.foldl (· + ·) 0

/-- What a partition bears of `rest` eu of static energy that no context bears: all of it in its regions; what is left of a stack or a port, which no
partition owns alone, falls to the partitions in equal parts, with the odd eu to the first (R355, notes/assumptions/84.md). -/
def State.restShare (s : State) (i p rest : Nat) : Nat :=
  if i < 48 then (if (s.region i).part = some p then rest else 0)
  else
    let n := s.parts.length
    rest / n + (if (Tbl.keys s.parts).head? = some p then rest % n else 0)

/-- One island's figures closed after `len` ns of the tick; the island's M comes with the state (R353 to R356). Static energy that neither a context nor
a partition bears goes to the device. What is billed before the tick's end still counts in its D_mod, and is not billed again. -/
def State.closeIsland (s : State) (l : List Sample) (w : Parties) (len i : Nat) : State × Nat :=
  let (s, m, sta) := if len = 0 then (s, 0, 0) else s.sampleOf l i
  let run := len - s.tickStop
  let old := Tbl.atD s.billed i (0, 0)
  let mine := s.ctxs.filter fun e => w.ctx e.1
  let drewOver := fun (p : Nat) => s.overTick (some p) i
  let dmod := old.1 + sumOf (s.ctxs.map fun e => dOf e.2.dtick i) + sumOf ((Tbl.keys s.parts).map drewOver) + s.overTick none i
  let dmeas := m - sta
  let ratio := ratioOf dmeas dmod
  let share := fun (c : Ctx) => c.share i sta len run dmod
  let rest := sta - sumOf (s.ctxs.map fun e => share e.2) - old.2
  let closed := (Tbl.keys s.parts).filter w.part
  let bears := fun (p : Nat) => s.restShare i p rest
  let parts := Tbl.each s.parts fun p x =>
    if w.part p then
      let (a, r) := overX (drewOver p) (dOf x.resid i) ratio
      { x with overhead := x.overhead + a + bears p, resid := Tbl.put x.resid i r }
    else x
  let done := (old.1 + sumOf (mine.map fun e => dOf e.2.dtick i) + sumOf (closed.map drewOver),
    old.2 + sumOf (mine.map fun e => share e.2) + sumOf (closed.map bears))
  let s : State := { s with
    ctxs := Tbl.each s.ctxs fun a c => if w.ctx a then c.correct i ratio (share c) else c
    parts := parts
    billed := Tbl.put s.billed i done }
  if w.all then
    let (a, r) := overX (s.overTick none i) (dOf s.ovresid i) ratio
    ({ s with
        overhead := s.overhead + a + (rest - sumOf ((Tbl.keys s.parts).map bears))
        ovresid := Tbl.put s.ovresid i r
        calib := s.calib ++ [(i, 16384 * (dmeas : Int) - (dmod : Int) * ratio)] }, m)
  else (s, m)

/-- A context's modelled energy of the tick. -/
def Ctx.dsum (c : Ctx) : Nat := sumOf (c.dtick.map (·.2))

/-- The harvest of a context (R351, R356). -/
def Ctx.harvest (c : Ctx) : Ctx :=
  { c with
    model := c.model + c.dsum
    epoch := c.epoch + c.dsum
    bal := c.bal - c.dsum
    dtick := []
    lastd := c.dtick
    resident := [] }

/-- The figures of the tick to now closed for the parties given, corrected and harvested; what each island drew comes with the state. -/
def State.closeFigures (s : State) (l : List Sample) (w : Parties) : State × Tbl Nat :=
  let len := s.now + 16000 - s.tickEnd
  let (s, drew) := (List.range 60).foldl (fun (x : State × Tbl Nat) i =>
    let (s, m) := x.1.closeIsland l w len i
    (s, x.2 ++ [(i, m)])) (s, [])
  ({ s with
      ctxs := Tbl.each s.ctxs fun a c => if w.ctx a then c.harvest else c
      energy := { s.energy with ovhd := s.energy.ovhd.filter fun e => e.1 = 0 || !w.part (e.1 - 1) } }, drew)

/-- Every party. -/
def Parties.everyone : Parties := { ctx := fun _ => true, part := fun _ => true, all := true }

/-- The tick's figures closed at its end. -/
def State.closeTick (s : State) (l : List Sample) : State × Tbl Nat :=
  let (s, drew) := s.closeFigures l Parties.everyone
  ({ s with energy := { s.energy with ovhd := [] }, billed := [], tickStop := 0 }, drew)

/-! ### Buckets (R351) -/

/-- The end of bucket_tick, BAL having been drawn: the bucket empties, or is refilled. -/
def Ctx.bucketTick (c : Ctx) : Ctx :=
  if !c.empty && c.bal ≤ 0 then { c with empty := true }
  else
    let b := if (c.depth : Int) < c.bal + c.refill then (c.depth : Int) else c.bal + c.refill
    let e := c.empty && b ≤ 0
    { c with bal := b, empty := e, st := if c.st = .dry && !e then .eligible else c.st }

/-! ### Caps (R369) -/

/-- eu of one watt over a tick of 16 µs: 1 eu is 2^-10 nJ. -/
def euPerWatt : Nat := 16384000

/-- A partition's budget in W: its share, and its CAP when that is set. -/
def Partition.limit (x : Partition) : Nat := if x.cap ≠ 0 && x.cap < x.budget then x.cap else x.budget

/-- An island one point slower, and one point back toward its request (R369). -/
def Region.slower (r : Region) : Region := if freqOf r.freq = freqOf 15 then r else { r with imposed := if r.eff < 15 then r.eff + 1 else 15 }
def Region.faster (r : Region) : Region := if r.req < r.eff then { r with imposed := r.eff - 1 } else r

/-- Enforcement for partition `p` at a tick in which its islands drew what `drew` says (R369). -/
def State.enforce (s : State) (drew : Tbl Nat) (p : Nat) : State :=
  let x := s.part p
  let regs := s.regionsOf p
  let e := (regs.map (dOf drew)).foldl (· + ·) 0
  let top := x.limit * euPerWatt
  let below := if 100 * e ≤ 95 * top then (if x.below < 4 then x.below + 1 else 4) else 0
  let s := s.modPart p fun x => { x with below := below }
  let move := fun (s : State) (f : Region → Region) =>
    regs.foldl (fun (s : State) r => (s.modRegion r f).aimRegion r) s
  if top < e then move s Region.slower else if below = 4 then move s Region.faster else s

/-! ### Hot spots (R366) -/

/-- The reading of a region's hottest junction, a free value where none is given. -/
def State.heatOf (s : State) (l : List Sample) (r : Nat) : State × Int :=
  match l.find? fun x => x.island = r with
  | some x => (s, x.temp)
  | none =>
    let (v, s) := s.fresh
    (s, (v.truncate 16 : BitVec 16).toInt)

/-- Whether a region reads hot: 100 °C or more, or 15 °C above the mean of the other regions of its die. -/
def readsHot (t : Int) (others : List Int) : Bool :=
  100 ≤ t || (!others.isEmpty && others.foldl (· + ·) 0 + 15 * others.length ≤ t * others.length)

/-- A region after a tick: four hot ticks in a row make a report due, and each hot one after them. -/
def Region.heat (x : Region) (isHot : Bool) : Region :=
  let n := if isHot then (if x.hot < 4 then x.hot + 1 else 4) else 0
  { x with hot := n, hotDue := n = 4 }

/-- The junction readings of a tick taken in; a stop leaves the counts as they are (R373). -/
def State.heatTick (s : State) (l : List Sample) : State :=
  if s.stopped then s
  else
    let (s, temps) := (List.range 48).foldl (fun (x : State × Tbl Int) r =>
      let (s, t) := x.1.heatOf l r
      (s, x.2 ++ [(r, t)])) (s, [])
    let on := temps.filter fun e => !(s.region e.1).offline
    on.foldl (fun (s : State) e =>
      s.modRegion e.1 fun x => x.heat (readsHot e.2 ((on.filter fun f => f.1 / 12 = e.1 / 12 && f.1 ≠ e.1).map (·.2)))) s

/-! ### The tick -/

/-- TICK: the tick's end is reached and closed (R351, R353 to R356, R369). A sample not given is a free value. Where a
deadline comes first, time passes to it only. -/
def execTick (m : List Sample) (s : State) : Host.Outcome State Fault Refusal :=
  if s.ctxs.any fun e => s.readingDue e.2 then .next s
  else
    let s := s.elapse (s.tickEnd - s.now)
    if s.now < s.tickEnd then .next s
    else
    let s := s.heatTick m
    let (s, drew) := s.closeTick m
    let s : State := { s with tickEnd := s.tickEnd + 16000, parts := Tbl.each s.parts fun _ x => { x with epochPos := x.epochPos + 1 } }
    let was := Tbl.keysOf s.ctxs fun c => c.empty
    let s : State := { s with ctxs := Tbl.each s.ctxs fun _ c => c.bucketTick }
    let fell := (Tbl.keysOf s.ctxs fun c => c.empty).filter fun a => !was.contains a
    let s := (Tbl.keys s.parts).foldl (fun (s : State) p => s.enforce drew p) s
    .next (fell.foldl (fun (s : State) a => s.preempt a 8 2) s)

end Sys2Proof.Machine
end

