-- ==== Sys2Proof/Machine/Range.lean ====
section
/-!
DEFINITION. Reads and writes of many bytes at virtual addresses, line by line: for launch records, engines and rings.
-/

namespace Sys2Proof.Machine

/-- A range of bytes in pieces, each within a line of 128 bytes. -/
def piecesOf (va n : Nat) : List (Nat × Nat) :=
  if n = 0 then []
  else
    (List.range ((va + n - 1) / 128 - va / 128 + 1)).map fun i =>
      let lo := (va / 128 + i) * 128
      let a := if lo < va then va else lo
      let b := if va + n < lo + 128 then va + n else lo + 128
      (a, b - a)

/-- The outcome of a read of a range. -/
inductive RangeGot where
  | wait (s : State)
  /-- A fault kind at a virtual address. -/
  | fault (s : State) (fk va : Nat)
  /-- The bytes, and the first virtual address of a poisoned piece. -/
  | bytes (s : State) (bs : List Byte) (bad : Option Nat)

/-- The physical pieces of a range, each with its virtual address, or the first fault. -/
def State.xlRange (s : State) (who : Asker) (t : TlbOf) (asid : Nat) (acc : Acc) (ps : List (Nat × Nat)) :
    State × List (Nat × Nat × Nat) × Option (Nat × Nat) :=
  ps.foldl (fun (x : State × List (Nat × Nat × Nat) × Option (Nat × Nat)) p =>
    match x.2.2 with
    | some _ => x
    | none =>
      match x.1.translateFor who t asid p.1 acc with
      | (s, .ok pa _ _) => (s, x.2.1 ++ [(p.1, pa, p.2)], none)
      | (s, .bad k) => (s, x.2.1, some (k, p.1))) (s, [], none)

/-- Requests sent for the pieces in a peer's memory that have none; the flag tells whether an answer is still to come, and then the translations of the
range are kept (R297). -/
def State.askRange (s : State) (who : Asker) (team asid region : Nat) (ps : List (Nat × Nat × Nat)) : State × Bool :=
  let (t, waits) := ps.foldl (fun (x : State × Bool) p =>
    if isPeer p.2.1 then
      match x.1.findReq who p.2.1 p.2.2 with
      | some r => (x.1, x.2 || r.answer.isNone)
      | none => (x.1.request who team asid region (peerPacket 0 p.2.1) p.2.1 p.2.2, true)
    else x) (s, false)
  (if waits then t.pin who (ps.map fun p => (p.1, p.2.1)) else t, waits)

/-- Physical pieces read, the answers of peers being there. -/
def State.gatherRange (s : State) (who : Asker) (team asid region : Nat) (ps : List (Nat × Nat × Nat))
    (read : State → (pa n : Nat) → List Nat → State × List Nat × List Byte × Bool) : RangeGot :=
  let out := ps.foldl (fun (x : State × List Nat × List Byte × Option Nat) p =>
    let (s, seen, bs, bad) :=
      if isPeer p.2.1 then
        match x.1.peerRead who team asid region p.2.1 p.2.2 x.2.1 with
        | .wait s => (s, x.2.1, bytesOf p.2.2 0, false)
        | .bytes s seen bs bad => (s, seen, bs, bad)
      else read x.1 p.2.1 p.2.2 x.2.1
    (s, seen, x.2.2.1 ++ bs, if bad && x.2.2.2.isNone then some p.1 else x.2.2.2)) (s, [], [], none)
  .bytes out.1 out.2.2.1 out.2.2.2

/-- A range read through `read`, which reads a piece at a physical address. -/
def State.readRange (s : State) (who : Asker) (team asid region : Nat) (t : TlbOf) (va n : Nat)
    (read : State → (pa n : Nat) → List Nat → State × List Nat × List Byte × Bool) : RangeGot :=
  match s.xlRange who t asid .load (piecesOf va n) with
  | (s, _, some (k, a)) => .fault s k a
  | (t, ps, none) =>
    match t.askRange who team asid region ps with
    | (t, true) => .wait (s.defer t who asid)
    | (s, false) =>
      s.gatherRange who team asid region ps read

/-- The walks that the device makes for pieces of a range, page by page (R347). -/
def State.overWalks (s : State) (asid : Nat) (ps : List (Nat × Nat)) : State :=
  (dedup (ps.map fun p => p.1 / 65536 * 65536)).foldl (fun (s : State) va => s.overWalk asid va) s

/-- A range read by the device itself at the home slices, with a walk that leaves nothing cached: overhead of the partition (R347). -/
def State.sysRead (s : State) (who : Asker) (asid va n : Nat) : RangeGot :=
  let ps := piecesOf va n
  let xl := fun (va : Nat) =>
    if 2 ^ 57 ≤ va then Xl.bad 7 else s.walkXl (s.walkOf asid va).2 va .load
  match ps.findSome? fun p => match xl p.1 with
    | .bad k => some (k, p.1)
    | .ok _ _ _ => none with
  | some (k, a) => .fault (s.overWalks asid (ps.takeWhile fun p => p.1 ≤ a)) k a
  | none =>
    let ps := ps.map fun p => match xl p.1 with
      | .ok pa _ _ => (p.1, pa, p.2)
      | .bad _ => (p.1, 0, p.2)
    match s.askRange who 0 asid 0 ps with
    | (s, true) => .wait s
    | (s, false) =>
      let s := s.overWalks asid (ps.map fun p => (p.1, p.2.2))
      s.gatherRange who 0 asid 0 ps fun s pa n seen => let (bs, bad) := s.memBytes asid pa n; (s.overLine asid pa, seen, bs, bad)

/-- A range written by the device itself, piece by piece at the home slices; nothing is written when a piece takes no write. -/
def State.sysPut (s : State) (asid va : Nat) (bs : List Byte) : State × Option (Nat × Nat) :=
  let ps := piecesOf va bs.length
  let xl := fun (va : Nat) =>
    if 2 ^ 57 ≤ va then Xl.bad 7 else s.walkXl (s.walkOf asid va).2 va .store
  match ps.findSome? fun p => match xl p.1 with
    | .bad k => some (k, p.1)
    | .ok _ _ _ => none with
  | some e => (s.overWalks asid (ps.takeWhile fun p => p.1 ≤ e.2), some e)
  | none =>
    let s := s.overWalks asid ps
    (ps.foldl (fun (s : State) p => match xl p.1 with
      | .ok pa _ _ =>
        let b := (bs.drop (p.1 - va)).take p.2
        if isPeer pa then s.peerWrite (.sched asid 0) 0 asid 0 pa b else (s.overLine asid pa).putFor asid pa b
      | .bad _ => s) s, none)

end Sys2Proof.Machine
end

