-- ==== Sys2Proof/Machine/Launch.lean ====
section
/-!
DEFINITION. Launch records (R92, R93), LAUNCH (R216) and the reading of host-fed queues (R317 to R323).
-/

namespace Sys2Proof.Machine

/-! ### Launch records -/

def LaunchRec.of (b : List Byte) : LaunchRec where
  entry := numAt b 0 8
  lcbase := numAt b 8 8
  gangs := byteAt b 16
  teams := byteAt b 17
  cx := numAt b 20 4
  cy := numAt b 24 4
  cz := numAt b 28 4
  regs := numAt b 32 2
  tags := byteAt b 34
  rows := byteAt b 35
  tiles := byteAt b 36
  tdepth := byteAt b 37
  scratch := numAt b 40 4
  ntb := byteAt b 48
  ncb := byteAt b 49
  nkb := byteAt b 50
  nxb := byteAt b 51
  cor := bit (byteAt b 56) 0
  waitmask := BitVec.ofNat 256 (numAt b 64 32)
  setmask := BitVec.ofNat 256 (numAt b 96 32)
  kbase := numAt b 128 8
  klen := numAt b 136 4

/-- Clusters of a grid. -/
def LaunchRec.total (r : LaunchRec) : Nat := r.cx * r.cy * r.cz

/-- Gangs a team starts with (R210). -/
def LaunchRec.starts (r : LaunchRec) : Nat := if r.tdepth = 0 then r.gangs else 1

/-- Bytes of a launch record that must be zero: 18–19, 38–39, 44–47, 52–55, 56[7:1], 57–63 and 140–191 (R92). -/
def recordZero (b : List Byte) : Bool :=
  numAt b 18 2 = 0 && numAt b 38 2 = 0 && numAt b 44 4 = 0 && numAt b 52 4 = 0 && byteAt b 56 < 2 && numAt b 57 7 = 0 &&
    numAt b 140 52 = 0

/-- Whether every field is in its range (R92). -/
def LaunchRec.inRange (r : LaunchRec) : Bool :=
  r.entry % 4 = 0 && r.entry < 2 ^ 57 && r.lcbase % 16 = 0 && r.lcbase < 2 ^ 57 &&
    1 ≤ r.gangs && r.gangs ≤ 16 && 1 ≤ r.teams && r.teams ≤ 8 &&
    1 ≤ r.cx && 1 ≤ r.cy && 1 ≤ r.cz && r.total ≤ 2 ^ 32 - 1 &&
    1 ≤ r.regs && r.regs ≤ 256 && r.tags ≤ 64 && r.rows ≤ 8 && r.tiles ≤ 64 && r.tdepth ≤ 3 && r.scratch % 128 = 0 &&
    r.ntb ≤ 16 && r.ncb ≤ 8 && r.nkb ≤ 4 && r.nxb ≤ 4 && (r.nxb = 0 || r.cor) &&
    r.kbase % 128 = 0 && r.kbase < 2 ^ 57 && r.klen % 128 = 0 && (r.kbase ≠ 0 || r.klen = 0)

/-- The status of a record at a virtual address, apart from the queue's (R93). -/
def State.recordStatus (s : State) (p va : Nat) (b : List Byte) : Nat :=
  let r := LaunchRec.of b
  if va % 64 ≠ 0 || !recordZero b || !r.inRange then 2
  else if 2 ^ 20 < r.gangs * r.regs * 128 + r.scratch + 65536 then 3
  else if r.cor && s.capacity p r.teams r.shape < r.total then 4
  else 0

/-! ### Queues -/

/-- Whether a queue has no slot left for its producer. -/
def Queue.full (q : Queue) : Bool := 2 ^ q.log2s ≤ (q.tail - q.head).toNat

/-- An accepted record becomes a grid with the context's next identifier (R323); no cluster of it is placed. -/
def State.acceptGrid (s : State) (asid q slot : Nat) (r : LaunchRec) (launcher : Option Nat) (owes : List Nat) : State :=
  let c := s.ctx asid
  let gr : Grid := { Grid.blank with
    asid := asid, gid := c.nextGid.toNat, rcd := r, queue := q, qslot := slot, launcher := launcher, owes := owes
    xb := (List.range r.nxb).map fun i => (i, { Barrier.blank with exp := r.starts * r.teams * r.total }) }
  let s : State := { s with grids := Tbl.put s.grids s.uid gr, uid := s.uid + 1 }
  s.modCtx asid fun c => { c with nextGid := if c.nextGid + 1 = 0 then 1 else c.nextGid + 1 }

/-- A record written by LAUNCH into the queue's next slot; FERR is set when the slot does not take it (R322). -/
def State.appendRecord (s : State) (asid q : Nat) (b : List Byte) : State × Bool :=
  let qq := Tbl.atD (s.ctx asid).queues q Queue.blank
  match s.sysPut asid (qq.slotVa qq.tail.toNat) b with
  | (s, some (k, _)) => (s.queueFault asid q (qq.slotVa qq.tail.toNat) k, false)
  | (s, none) => (s, true)

/-- The bindings of a queue (R78). -/
def isQueue (asid q : Nat) (x : Binding) : Bool := x.kind = kQueue && x.owner = asid && x.name = q

/-- The launcher's writes that the creation of its grid's gangs waits for: those on the way to another device, where a binding of the queue widens the
token to domain scope or beyond (R254). The writes of the context's other gangs that the launcher has observed are among them (R252;
notes/assumptions/96.md). -/
def State.tokenOwes (s : State) (u q : Nat) : List Nat :=
  if s.widest (s.asidOf (s.gang u)) 3 (isQueue (s.asidOf (s.gang u)) q) < 4 then []
  else (s.requests.filter fun r => r.asid = s.asidOf (s.gang u) && (r.ptype = 1 || r.ptype = 5) && match r.who with
    | .scalar _ | .lane _ _ => true
    | _ => false).map (·.tag)

def State.modQueue (s : State) (asid q : Nat) (f : Queue → Queue) : State :=
  s.modCtx asid fun c => { c with queues := Tbl.upd c.queues q f }

/-- LAUNCH (R216). -/
def execLaunch (d a : SReg) (q : BitVec 3) (s : State) : Host.Outcome State Fault Refusal :=
  s.issue fun u g =>
    let s := s.drainScalar u
    let asid := s.asidOf g
    let qq := Tbl.atD (s.ctx asid).queues q.toNat Queue.blank
    let put := fun (s : State) (v : Nat) => (s.modGang u fun g => g.setS d (BitVec.ofNat 64 v)).advance u
    let x := g.seg 0
    let o := (g.sreg a).toNat
    let va := x.baseN + o
    let core := s.coreOf g
    if !qq.prod || !qq.en || qq.ferr || qq.full then put s 1
    else if x.limit < o + 192 then s.scalarTrap u cSBOUND (x.address o) 0 accLoad
    else match s.readRange (.scalar u) g.team asid (s.regOf g) (.core core) va 192 fun s pa n seen => s.coreRead core asid pa n seen with
      | .wait s => s.stall u .other
      | .fault s k va => s.scalarFault u k va accLoad
      | .bytes s _ (some va) => s.scalarTrap u cPOISON va 0 accLoad
      | .bytes s bs none =>
        let st := s.recordStatus (s.ctx asid).part va bs
        if st ≠ 0 then put s st
        else match s.appendRecord asid q.toNat bs with
          | (s, false) => put s 1
          | (s, true) =>
            let i := qq.tail.toNat
            let s := s.slotStatus asid q.toNat i 0 0 0 0
            let s := s.modQueue asid q.toNat fun x => { x with tail := x.tail + 1, read := x.tail + 1 }
            put (s.acceptGrid asid q.toNat i (LaunchRec.of bs) (some (s.regOf g)) (s.tokenOwes u q.toNat)) 0

/-- HOST_RECORD_READ: the next appended record of a host-fed queue is captured and checked (R322). -/
def execHostRecordRead (asid q : Nat) (s : State) : Host.Outcome State Fault Refusal :=
  match Tbl.at? s.ctxs asid with
  | none => .next s
  | some c =>
    let qq := Tbl.atD c.queues q Queue.blank
    if q < 8 && qq.en && !qq.prod && !qq.ferr && qq.read ≠ qq.tail then
      let i := qq.read.toNat
      let va := qq.slotVa i
      match s.sysRead (.sched asid q) asid va 192 with
      | .fault s k _ => .next (s.queueFault asid q va k)
      | .wait s => .next s
      | .bytes s _ (some _) => .next (s.queueFault asid q va 100)
      | .bytes s bs none =>
        let st := s.recordStatus c.part va bs
        let s := s.modQueue asid q fun x => { x with read := x.read + 1, appended := x.appended.filter fun e => e.1 ≠ x.read + 1 }
        let s := s.slotStatus asid q i st 0 0 0
        .next (if st = 0 then s.acceptGrid asid q i (LaunchRec.of bs) none [] else s)
    else .next s

end Sys2Proof.Machine
end

