-- ==== Sys2Proof/Machine/Reset.lean ====
section
/-!
DEFINITION. Bring-up (R405, R411) and the resets that need nothing of a context (R410).
-/

namespace Sys2Proof.Machine

/-- Whether an image may run: both signatures verify, and its version is not below the minimum (R405). -/
def imageRuns (minver : Nat) (x : FwImage) : Bool := x.ed25519 && x.mldsa65 && minver ≤ x.version

/-- A partition under a worker image, with what the image sets (R328, R330, R362, R372). -/
def Partition.run (y : Partition) (x : FwImage) : Partition :=
  { y with
    fwver := x.version
    fwdigest := x.digest
    readint := x.readint.getD 62500
    epochLen := x.epoch.getD 1024
    sliceLen := 16000 * x.slice.getD 128
    trimThr := x.trimThr.getD Config.trimThreshold }

/-- A partition created as the operator configured it (R411 step 5); its FPID comes with step 7. -/
def PartPlan.create (x : PartPlan) : Partition :=
  { Partition.blank with tenant := x.tenant, pool := x.pool, poolTotal := x.pool.length, point := x.point }.run x.worker

/-- A partition with the FPID that the operator restores (R411 step 7). -/
def PartPlan.bindFpid (x : PartPlan) (y : Partition) : Partition := { y with fpid := x.fpid, fpidCtx := x.fpidCtx, fmembers := x.fmembers }

/-- A region of a partition at its creation: at the partition's operating point (R14). -/
def Region.start (x : Region) (p point : Nat) : Region :=
  { x with part := some p, req := point, freq := point, uv := 1000 * mvOf point }

/-- Whether the bring-up step in hand fails: what the hardware fails, a queen patch that may not run in step 1, and a worker image that may not run in
step 5 (R405, R411, notes/assumptions/39.md). -/
def State.bootFails (s : State) : Bool :=
  s.broken.contains s.boot || (s.boot = 1 && !imageRuns s.minPatch s.patch) ||
    (s.boot = 5 && s.plan.any fun x => !imageRuns s.minver x.worker)

/-- The generation a port trains at with what is at its far end: none when training fails (R384). -/
def portGen (far : Option Nat) (gen2ok : Bool) : Option Nat :=
  match far with
  | some 2 => some (if gen2ok then 2 else 1)
  | some 1 => some 1
  | _ => none

/-- The ports trained, each with its far end (R384). -/
def trainedPorts (ends : Tbl FarEnd) : Tbl Nat := ends.filterMap fun e => (portGen e.2.far e.2.gen2ok).map fun n => (e.1, n)

/-- One step of bring-up (R411). Step 3 leaves device memory zero, and step 7 trains the ports. -/
def State.bootStep (s : State) : State :=
  if s.bootFailed.isSome then s
  else if s.boot < 8 && s.bootFails then { s with bootFailed := some s.boot }
  else match s.boot with
    | 3 => { s with boot := 4, mem := s.mem.filter fun e => 2 ^ 39 ≤ e.1, memBad := s.memBad.filter fun a => 2 ^ 39 ≤ a }
    | 5 =>
      { s with
        boot := 6
        parts := s.plan.foldl (fun t x => Tbl.put t x.id x.create) []
        regions := Tbl.each s.regions fun r x =>
          match s.plan.find? fun y => y.regions.contains r with
          | some y => x.start y.id y.point
          | none => x }
    | 7 =>
      { s with
        boot := 8
        ports := trainedPorts s.farEnds
        parts := Tbl.each s.parts fun p y => match s.plan.find? fun x => x.id = p with
          | some x => x.bindFpid y
          | none => y }
    | n => if n < 8 then { s with boot := n + 1 } else s

/-- The state after a reset: what R410 keeps, host memory, what has left the device, and the swarm group the operator names (notes/assumptions/3.md). -/
def State.rebooted (s : State) : State :=
  { State.resetWith (s.bootCount + 1) s.plan with
    mem := s.mem.filter fun e => 2 ^ 39 ≤ e.1
    memBad := s.memBad.filter fun a => 2 ^ 39 ≤ a
    minver := s.minver
    minPatch := s.minPatch
    patch := s.patch
    broken := s.broken
    farEnds := s.farEnds
    ide := s.ide
    hottest := s.hottest
    swarm := { (State.resetWith 0 []).swarm with self := s.swarm.self, members := s.swarm.members, crack := s.swarm.crack }
    spares := s.spares
    regions := (List.range 48).map fun r => (r, { Region.reset with offline := (s.region r).offline })
    outbox := s.outbox
    uid := s.uid
    agenda := s.agenda
    turn := s.turn
    free := s.free }

/-- COLD_RESET (R410). -/
def execColdReset (s : State) : Host.Outcome State Fault Refusal := .next s.rebooted

/-- PERST (R410): a warm reset without final readings. -/
def execPerst (s : State) : Host.Outcome State Fault Refusal := .next s.rebooted

end Sys2Proof.Machine
end

