-- ==== Sys2Proof/Machine/Service.lean ====
section
/-!
DEFINITION. What waits until a partition holds no room: a worker firmware update and the swap of a spare region (R406, R407).
-/

namespace Sys2Proof.Machine

/-- The contexts of a partition. -/
def State.ctxsOf (s : State) (p : Nat) : List Nat := Tbl.keysOf s.ctxs fun c => c.part = p

/-- Whether no cluster of a partition holds room. -/
def State.quiesced (s : State) (p : Nat) : Bool :=
  (s.ctxsOf p).all fun a => (s.clustersOfCtx a).all fun c => match (s.cluster c).st with
    | .absent | .ready => true
    | _ => false

/-- Every context of a partition pre-empted with PCAUSE 7, reason 0 (R406). -/
def State.quiesce (s : State) (p : Nat) : State := (s.ctxsOf p).foldl (fun (s : State) a => s.preempt a 7 0) s

/-- The verification of a new worker image, which runs if it verifies; else the old one resumes (R405, R406). -/
def State.verifyWorker (s : State) (p : Nat) : State :=
  match (s.part p).updating with
  | some x => s.modPart p fun y => { (if imageRuns s.minver x then y.run x else y) with updating := none }
  | none => s

/-- The dirty home lines of a slice written back, with a poisoned line where one cannot be read (R407): partition overhead. -/
def State.saveSlice (s : State) (r : Nat) (lost : List Nat) : State :=
  let mine := fun (line : Nat) => homeOf (128 * line) = r
  let dirty := (s.home.filter fun e => mine e.1 && e.2.dirty).map (·.1)
  let s := dirty.foldl (fun (s : State) line =>
    let s := (s.chargeOver (s.region r).part r wHome).chargeOver (s.region r).part (stackIsland (stackOf (128 * line))) (2 * wHbm)
    if lost.contains line then { s with memBad := addPoison s.memBad (128 * line) 128 } else s) s
  { s with home := s.home.filter fun e => !mine e.1 }

/-- What a region's slices, L1 and TLBs hold is gone. -/
def State.clearRegion (s : State) (r : Nat) : State :=
  { s with
    l1 := s.l1.filter fun e => e.1 / 8 ≠ r
    near := Tbl.del s.near r
    tlb := s.tlb.filter fun e => e.1 / 8 ≠ r
    walk := Tbl.del s.walk r }

/-- Whether the spare of a region's die stands in for a region (R407). -/
def State.spareUsed (s : State) (r : Nat) : Bool := s.spares.any fun k => k / 12 = r / 12

/-- The spare of the die takes a failed region's number; where it is in use already, the region stays offline (R407). -/
def State.swapSpare (s : State) (r : Nat) : State :=
  if s.spareUsed r then s.modRegion r fun x => { x with offline := true }
  else
    ({ s with spares := s.spares ++ [r] }.modRegion r fun x =>
      { Region.reset with part := x.part, req := x.req, imposed := x.imposed, cycles := x.cycles, trimAt := x.trimAt }).aimRegion r

/-- A failed region replaced: its slice saved, what it held gone, the spare in its place (R407). -/
def State.replaceRegion (s : State) (r : Nat) (lost : List Nat) : State := ((s.saveSlice r lost).clearRegion r).swapSpare r

/-- What a partition that holds no room was quiesced for. -/
def State.service (s : State) (p : Nat) : State :=
  if s.quiesced p then
    let s := s.verifyWorker p
    match (s.part p).failing with
    | some (r, lost) => (s.replaceRegion r lost).modPart p fun y => { y with failing := none }
    | none => s
  else s

end Sys2Proof.Machine
end

