-- ==== Sys2Proof/Machine/Place.lean ====
section
/-!
DEFINITION. The scheduler: queue heads, admission, the order of placement, blocked heads, slices and swaps (R254, R306, R323 to R332, R343).
-/

namespace Sys2Proof.Machine

/-! ### Queue heads -/

/-- The oldest accepted record of a queue that has not been wholly placed (R324). -/
def State.headOf (s : State) (asid q : Nat) : Option Nat :=
  let qq := Tbl.atD (s.ctx asid).queues q Queue.blank
  let age := fun n => (BitVec.ofNat 32 (s.grid n).qslot - qq.head).toNat
  let l := Tbl.keysOf s.grids fun g => g.asid = asid && g.queue = q && g.placed < g.rcd.total && !(g.killed && !g.admitted)
  (sortBy (fun a b => age a ≤ age b) l).head?

/-- Whether every bit of a record's WAITMASK is set, or the record has begun (R324). -/
def State.admissible (s : State) (n : Nat) : Bool :=
  let g := s.grid n
  g.admitted || (g.rcd.waitmask &&& ~~~ (s.ctx g.asid).events) = 0

/-- Clusters that a head places in one step (R324). -/
def Grid.batch (g : Grid) : Nat := if g.rcd.cor then g.rcd.total - g.placed else 1

/-- A unit of work to be placed (R329). -/
inductive Work where
  | back (c : Nat)
  | head (asid q n : Nat)
  deriving DecidableEq, Repr

/-- Whether a region is kept for aged heads, and not for this unit (R327). -/
def State.keptFrom (s : State) (p r : Nat) (w : Work) : Bool :=
  let frozen := s.ctxs.flatMap fun e =>
    if e.2.part = p then
      (e.2.queues.filter fun x => match x.2.frozen with
        | some none => true
        | some (some k) => k = r
        | none => false).map fun x => (e.1, x.1)
    else []
  match w with
  | .head a q _ => !frozen.isEmpty && !frozen.contains (a, q)
  | .back _ => !frozen.isEmpty

/-- The rooms of a partition's regions. -/
def State.partRooms (s : State) (p : Nat) (drop : Nat → Bool) : Tbl (List Room) :=
  (s.regionsOf p).map fun r => (r, s.rooms drop r)

/-- Where a unit goes, if it fits, given the regions it may use: the region and grants of each of its clusters (R309, R324, R325). -/
def State.fit (s : State) (p : Nat) (drop : Nat → Bool) (kept : Nat → Bool) (w : Work) : Option (List (Nat × List Grant)) :=
  let rooms := s.partRooms p drop
  match w with
  | .back c =>
    let x := s.cluster c
    let rc := (s.grid x.grid).rcd
    let ok := fun r => !kept r && r / 6 = x.cohort
    placeAll ok x.teams.length rc.shape 1 rooms
  | .head _ _ n =>
    let g := s.grid n
    placeAll (fun r => !kept r) g.rcd.teams g.rcd.shape g.batch rooms

/-! ### Order of placement -/

/-- Whether context `a` precedes context `b` (R328). -/
def State.precedes (s : State) (a b : Nat) : Bool :=
  let x := (s.ctx a).epoch * (s.ctx b).cw
  let y := (s.ctx b).epoch * (s.ctx a).cw
  x < y || (x = y && a ≤ b)

def Ctx.eligible? (c : Ctx) : Bool := c.st = .eligible && !c.empty

/-- Whether the absence of a cluster holds a barrier at which a resident gang waits (R309). -/
def State.holdsBarrier (s : State) (c : Nat) : Bool :=
  let mine := s.gangsOfCluster c
  s.gangs.any fun e => match e.2.wait with
    | .bar b =>
      (s.clusterOfTeam e.2.team).onCore && s.phaseOpen e.2 b &&
        mine.any fun u => s.sameBarrier e.2 (s.gang u) b && !s.arrivedAt (s.gang u) b
    | _ => false

/-- The units of a context in the order of R329. -/
def State.unitsOf (s : State) (asid : Nat) : List Work :=
  let ready := sortBy (fun a b => (s.cluster a).readyAt ≤ (s.cluster b).readyAt)
    ((s.clustersOfCtx asid).filter fun c => (s.cluster c).st = .ready)
  let held := ready.filter s.holdsBarrier
  let rest := ready.filter fun c => !s.holdsBarrier c
  let qs := sortBy (fun a b => a.2.prio < b.2.prio || (a.2.prio = b.2.prio && a.1 ≤ b.1))
    ((s.ctx asid).queues.filter fun e => e.2.en)
  (held ++ rest).map Work.back ++ qs.filterMap fun e => (s.headOf asid e.1).map fun n => .head asid e.1 n

/-- The units of a partition in the order of R329. -/
def State.units (s : State) (p : Nat) : List Work :=
  (sortBy s.precedes ((s.ctxsOf p).filter fun a => (s.ctx a).eligible?)).flatMap s.unitsOf

/-- Whether the launcher's writes that a grid's token releases are performed (R254). -/
def State.tokenPaid (s : State) (n : Nat) : Bool := (s.grid n).owes.all fun k => s.requests.all fun r => r.tag ≠ k

/-- Whether a unit may be placed when there is room. -/
def State.mayPlace (s : State) (w : Work) : Bool :=
  match w with
  | .back _ => true
  | .head _ _ n => s.admissible n && s.tokenPaid n

/-! ### Admission -/

/-- The scope of the acquire of a created gang (R254). -/
def acquireScope (launcher : Option Nat) (r : Nat) : Nat :=
  match launcher with
  | none => 5
  | some l => if l = r then 1 else if l / 6 = r / 6 then 2 else 3

/-- A gang created in a team at its admission (R14, R92, R418). -/
def State.createGang (s : State) (t idx slot wbase : Nat) : State :=
  let u := s.uid
  let r := (s.gridOfTeam t).rcd
  let g : Gang := { Gang.blank with
    team := t, idx := idx, slot := slot, wbase := wbase, spc := BitVec.ofNat 64 r.entry, segs := s.createSegs t }
  ({ s with uid := u + 1, gangs := Tbl.put s.gangs u g } : State).emitSync u 1

/-- A team admitted to a core with its grant, which is zeroed: an error may have marked it since its last release (R14, R37, R210, R219, R288). -/
def State.createTeam (s : State) (n c idx : Nat) (x : Grant) : State :=
  let t := s.uid
  let gr := s.grid n
  let r := gr.rcd
  let tm : Team := { Team.blank with
    grid := n, cluster := c, idx := idx, core := x.core, slots := x.slots, wbases := x.wbases, sbase := x.sbase,
    tagBase := x.tagBase, tileBase := x.tileBase, placed := t
    tb := (List.range r.ntb).map fun i => (i, { Barrier.blank with exp := r.starts }) }
  let s := { s with uid := t + 1, teams := Tbl.put s.teams t tm }
  let s := s.modCluster c fun y => { y with teams := y.teams ++ [t] }
  let s := s.shrinkL1 x.core (s.l1Lines x.core)
  -- A launch that waited on events acquires at device scope what the grids that set them released (R250).
  let scope := acquireScope gr.launcher (regionOfCore x.core)
  let scope := if r.waitmask ≠ 0 && scope < 3 then 3 else scope
  let s := s.acquire x.core scope fun _ => true
  let s := s.acquireBound x.core gr.asid scope (isQueue gr.asid gr.queue)
  let s := s.zeroTeam t
  ((List.range r.starts).zip (x.slots.zip x.wbases)).foldl (fun (s : State) e => s.createGang t e.1 e.2.1 e.2.2) s

/-- The next cluster of a grid created in a region; its first admission there counts it in the kb barriers of the cohort (R210, R323). -/
def State.createCluster (s : State) (n r : Nat) (grants : List Grant) : State :=
  let gr := s.grid n
  let rc := gr.rcd
  let c := s.uid
  let count := rc.starts * rc.teams
  let cl : Cluster := { Cluster.blank with
    grid := n, idx := gr.placed, region := r, cohort := r / 6
    cb := (List.range rc.ncb).map fun i => (i, { Barrier.blank with exp := count }) }
  let s := { s with uid := c + 1, clusters := Tbl.put s.clusters c cl }
  let s := s.modGrid n fun g =>
    { g with
      placed := g.placed + 1
      kb := (List.range rc.nkb).foldl (fun kb i =>
        let k := 4 * (r / 6) + i
        let b := Tbl.atD kb k Barrier.blank
        Tbl.put kb k { b with exp := b.exp + count }) g.kb }
  (((List.range grants.length).zip grants).foldl (fun (s : State) e => s.createTeam n c e.1 e.2) s).drowseAim r

/-- What the placement of a record's first cluster does besides (R324). -/
def State.admitGrid (s : State) (n : Nat) : State :=
  let gr := s.grid n
  if gr.admitted then s
  else
    let s := s.modCtx gr.asid fun c => { c with events := c.events &&& ~~~ gr.rcd.waitmask }
    let s := s.modGrid n fun g => { g with admitted := true, tadm := s.now }
    s.slotStatus gr.asid gr.queue gr.qslot 5 gr.gid s.now 0

/-- The slice clock starts at 0 when a context gets its first resident cluster (R330). -/
def State.startSlice (s : State) (asid : Nat) (had : Bool) : State :=
  if had then s else s.modCtx asid fun c => { c with slice := some 0 }

/-- A queue whose head has been placed is no longer blocked (R326). -/
def State.unblock (s : State) (asid q : Nat) : State :=
  s.modQueue asid q fun x => { x with blocked := false, age := 0, blockNs := 0, aged := none, frozen := none }

/-- A unit placed where it fits. -/
def State.placeUnit (s : State) (w : Work) (l : List (Nat × List Grant)) : State :=
  match w with
  | .back c =>
    match l.head? with
    | some (r, g) => s.beginRestore c r g
    | none => s
  | .head asid q n =>
    let had := s.hasResident asid
    let s := s.admitGrid n
    let s := l.foldl (fun (s : State) e => s.createCluster n e.1 e.2) s
    (s.unblock asid q).startSlice asid had

/-! ### Blocked heads (R326) -/

/-- The region in which an aged head waits for room: the one with the most cores able to take one of its teams; the whole partition for a record with
COR. -/
def State.candidate (s : State) (p n : Nat) : Option Nat :=
  let g := s.grid n
  if g.rcd.cor then none
  else
    let l := (s.partRooms p fun _ => false).map fun e => (e.1, ableCores e.2 g.rcd.shape)
    (l.foldl (fun (best : Option (Nat × Nat)) e => match best with
      | some b => if b.2 < e.2 then some e else some b
      | none => some e) none).map (·.1)

/-- A head that fits no region it may use has its candidate frozen once its age is 16 (R326). -/
def State.freezeHead (s : State) (p asid q n : Nat) : State :=
  let x := Tbl.atD (s.ctx asid).queues q Queue.blank
  if x.blocked && x.aged = some (n, (s.grid n).placed) && 16 ≤ x.age && x.frozen.isNone then
    let k := s.candidate p n
    s.modQueue asid q fun x => { x with frozen := some k }
  else s

/-- Where a unit goes among the regions that are not kept from it (R327). -/
def State.fitOpen (s : State) (p : Nat) (w : Work) : Option (List (Nat × List Grant)) :=
  s.fit p (fun _ => false) (fun r => s.keptFrom p r w) w

/-- The head of one queue marked as blocked, or not, with the age that belongs to it, when nothing more is placed: the age starts at 0 when a head becomes
blocked, and a candidate whose time has come is frozen. -/
def State.markHead (s : State) (p asid q : Nat) : State :=
  match s.headOf asid q with
  | none => s.unblock asid q
  | some n =>
    let name := some (n, (s.grid n).placed)
    if s.admissible n && (s.fitOpen p (.head asid q n)).isNone then
      let s := s.modQueue asid q fun x =>
        if x.blocked && x.aged = name then x
        else { x with blocked := true, age := 0, blockNs := 0, aged := name, frozen := none }
      s.freezeHead p asid q n
    else s.unblock asid q

/-- The heads of a partition, whether or not their context is eligible, marked as blocked or not. -/
def State.markBlocked (s : State) (p : Nat) : State :=
  (s.ctxsOf p).foldl (fun (s : State) a => (List.range 8).foldl (fun (s : State) q => s.markHead p a q) s) s

/-- The first unit that fits, in the order given; a head passed over on the way is frozen if its age is 16, so that no later unit takes its room (R326,
R327, R329). -/
def State.tryUnits (s : State) (p : Nat) (l : List Work) : State × Option (Work × List (Nat × List Grant)) :=
  match l with
  | [] => (s, none)
  | w :: l =>
    if s.mayPlace w then
      match s.fitOpen p w with
      | some x => (s, some (w, x))
      | none => (match w with
        | .head a q n => s.freezeHead p a q n
        | .back _ => s).tryUnits p l
    else s.tryUnits p l

/-- A queue of the partition's contexts whose blocked head has waited another 64 µs (R326). -/
def State.ageDue (s : State) (p : Nat) : Option Instr :=
  (s.ctxsOf p).findSome? fun a =>
    ((s.ctx a).queues.find? fun e => e.2.blocked && 64000 ≤ e.2.blockNs).map fun e => Instr.ageStep a e.1

/-- A gang or a team of the partition that is ready to end. -/
def State.endDue (s : State) (p : Nat) : Option Instr :=
  let gang := (s.gangs.find? fun e => (s.ctx (s.asidOf e.2)).part = p && s.retireReady e.2 && !s.gangWritesOut e.1).map
    fun e => Instr.gangRetire e.1
  gang <|> (s.teams.find? fun e => (s.ctx (s.asidOfTeam e.1)).part = p && s.exitReady e.2).map fun e => Instr.teamExit e.1

/-- Whether an age step, a retirement or a team's end that is due comes before the scheduler's next decision (R343). -/
def State.decisionWaits (s : State) (p : Nat) : Bool := (s.ageDue p).isSome || (s.endDue p).isSome

/-- The contexts of a partition that hold no room any more leave PREEMPTING before a decision (R331). -/
def State.preemptsDone (s : State) (p : Nat) : State := (s.ctxsOf p).foldl (fun (s : State) a => s.preemptDone a) s

/-- The first unit a decision places; none, while the partition is being quiesced (R406, R407). -/
def State.tryPlace (s : State) (p : Nat) : State × Option (Work × List (Nat × List Grant)) :=
  s.tryUnits p (if (s.part p).updating.isSome || (s.part p).failing.isSome then [] else s.units p)

/-- Whether a decision would place a unit, or find a head blocked or no longer, or freeze a candidate: it comes before time passes (R329). -/
def State.decisionDue (s : State) (p : Nat) : Bool :=
  match (s.preemptsDone p).tryPlace p with
  | (_, some _) => true
  | (t, none) => (t.markBlocked p).ctxs ≠ s.ctxs

/-- What comes before time passes in a partition: an age step that is due, and a decision, after what it waits for (R329, R343). -/
def State.dueFirst (s : State) (p : Nat) : Option Instr :=
  s.ageDue p <|> if s.decisionDue p then s.endDue p <|> some (.clusterPlace p) else none

/-- CLUSTER_PLACE: the first unit that fits is placed, and the next decision starts again (R329). -/
def execClusterPlace (p : Nat) (s : State) : Host.Outcome State Fault Refusal :=
  if s.decisionWaits p then .next s
  else
    match ((s.preemptsDone p).service p).tryPlace p with
    | (s, some (w, l)) => .next (s.placeUnit w l)
    | (s, none) => .next (s.markBlocked p)

/-- AGE_STEP: a blocked head has waited 64 µs more (R326, R341). The decision that follows freezes its candidate region at age 16. -/
def execAgeStep (asid q : Nat) (s : State) : Host.Outcome State Fault Refusal :=
  match Tbl.at? s.ctxs asid with
  | none => .next s
  | some c =>
    match Tbl.at? c.queues q with
    | none => .next s
    | some x =>
      if x.blocked && 64000 ≤ x.blockNs then
        .next (s.modQueue asid q fun x => { x with age := if x.age < 31 then x.age + 1 else 31, blockNs := x.blockNs - 64000 })
      else .next s

/-- QSTAT (R320). -/
def State.qstat (s : State) (asid q : Nat) : Nat :=
  let x := Tbl.atD (s.ctx asid).queues q Queue.blank
  let age := fun n => (BitVec.ofNat 32 (s.grid n).qslot - x.head).toNat
  let waiting := sortBy (fun a b => age a ≤ age b) (Tbl.keysOf s.grids fun g => g.asid = asid && g.queue = q && g.placed = 0)
  let qadm := match waiting.head? with
    | some n => (s.grid n).qslot
    | none => x.read.toNat
  let inadmissible := match s.headOf asid q with
    | some n => !s.admissible n
    | none => false
  qadm * 2 ^ 32 + (if x.blocked then x.age else 0) * 2 ^ 8 + b2n (x.blocked || inadmissible) * 4 + b2n x.ferr * 2 + b2n x.terr

/-! ### Epochs, slices and swaps -/

/-- EPOCH_START: every context's E becomes 0 (R328). -/
def execEpochStart (p : Nat) (s : State) : Host.Outcome State Fault Refusal :=
  match Tbl.at? s.parts p with
  | none => .next s
  | some x =>
    if x.epochLen ≤ x.epochPos then
      let s := s.modPart p fun x => { x with epochPos := 0 }
      .next ((s.ctxsOf p).foldl (fun (s : State) a => s.modCtx a fun c => { c with epoch := 0 }) s)
    else .next s

/-- Whether a unit of work is there that fits no region it may use. -/
def State.unplaceable (s : State) (p : Nat) (w : Work) : Bool :=
  s.mayPlace w && (s.fitOpen p w).isNone

/-- SLICE_END: the clock of a context has reached SLICE; the context is pre-empted for one that precedes it, or the clock restarts (R330). A tick and an
epoch start that are due come first (R341). -/
def execSliceEnd (asid : Nat) (s : State) : Host.Outcome State Fault Refusal :=
  match Tbl.at? s.ctxs asid with
  | none => .next s
  | some c =>
    match c.slice with
    | some ns =>
      if (s.part c.part).sliceLen ≤ ns && s.now < s.tickEnd && (s.part c.part).epochPos < (s.part c.part).epochLen && c.st = .eligible &&
          s.hasResident asid then
        let rival := (s.ctxsOf c.part).any fun b =>
          b ≠ asid && (s.ctx b).eligible? && s.precedes b asid && (s.unitsOf b).any (s.unplaceable c.part)
        if rival then .next (s.preempt asid 7 0) else .next (s.modCtx asid fun c => { c with slice := some 0 })
      else .next s
    | none => .next s

/-- Whether room given up by cluster `c` would let waiting work of an eligible context in (R306). -/
def State.swapHelps (s : State) (p c : Nat) : Bool :=
  (s.units p).any fun w =>
    s.unplaceable p w && (s.fit p (fun n => n = c) (fun r => s.keptFrom p r w) w).isSome

/-- The stalled clusters whose room would help, and how much time may pass before each is saved: its PARKT and 2 µs from the moment it stalled (R306;
notes/assumptions/126.md). -/
def State.swapTimes (s : State) : List (Nat × Nat) :=
  s.clusters.filterMap fun e =>
    let k := s.ctx (s.grid e.2.grid).asid
    if e.2.st = .stalled && k.parkt ≠ 0 && s.swapHelps k.part e.1 then some (e.1, k.parkt * 1000 + 2000 - e.2.stallNs) else none

/-- SWAP_BEGIN: a cluster that has been stalled for PARKT, and whose room would help, is saved (R306, R307). -/
def execSwapBegin (c : Nat) (s : State) : Host.Outcome State Fault Refusal :=
  match Tbl.at? s.clusters c with
  | none => .next s
  | some x =>
    let k := s.ctx (s.grid x.grid).asid
    if x.st = .stalled && s.clusterStalled c && k.parkt ≠ 0 && k.parkt * 1000 ≤ x.stallNs && s.swapHelps k.part c then
      .next ((s.gangsOfCluster c).foldl (fun (s : State) u => s.modGang u Gang.force)
        (s.modCluster c fun y => { y with st := .swapping }))
    else .next s

end Sys2Proof.Machine
end

