-- ==== Sys2Proof/Machine/Contexts.lean ====
section
/-!
DEFINITION. Contexts and partitions: creation and destruction, function level resets, kills, updates, region moves and spares (R291, R339, R357, R395,
R398, R406 to R410).
-/

namespace Sys2Proof.Machine

/-! ### Kills of grids (R339) -/

/-- Every team of a grid is killed, resident or absent, and its unplaced clusters are discarded. -/
def State.killGrid (s : State) (n : Nat) : State :=
  let s := s.modGrid n fun g => { g with killed := true, placed := g.rcd.total }
  let s := (s.teamsOf n).foldl (fun (s : State) t => s.killTeam t) s
  match Tbl.at? s.grids n with
  | some _ => if (s.clustersOf n).length = 0 then s.gridEnd n else s
  | none => s

/-- The TDISP state of a function. -/
def State.tdispOf (s : State) (f : Nat) : Tdisp := Tbl.atD s.tdisp f .unlocked

/-- Whether the pages of a function take an access of the host: a function in RUN takes those of its selective IDE stream alone (R402). -/
def State.fnStreamOk (s : State) (f : Nat) : Bool := s.tdispOf f ≠ .run || s.ide = f

/-- Whether the page of a context takes an access of the host. -/
def State.streamOk (s : State) (asid : Nat) : Bool := s.fnStreamOk (s.ctx asid).fn

/-- Whether the page of a context takes a write of the host: not while the context is being destroyed (R408). -/
def State.writeOk (s : State) (asid : Nat) : Bool := s.streamOk asid && (s.ctx asid).doomed.isNone

/-- KILL: the grid named is killed; a number that names no live grid of the context is ignored. -/
def execKill (asid : Nat) (v : Word64) (s : State) : Host.Outcome State Fault Refusal :=
  let name := v.toNat % 2 ^ 32
  if !s.writeOk asid then .next s else
  match (s.gridsOf asid).find? fun n => (s.grid n).gid = name with
  | some n => .next (s.killGrid n)
  | none => .next s

/-! ### Destruction (R357, R398, R408) -/

/-- The end of a context's accounts: 1 eu for each residual of 8,192 or more, and the final reading (R357). -/
def State.closeAccounts (s : State) (a : Nat) : State :=
  (s.modCtx a fun c =>
    { c with account := c.account + (c.resid.filter fun e => 8192 ≤ e.2).length, resid := [] }).issueReading a 1

/-- What was written under a key slot can no longer be read: its lines stand under slot 4,096, which no context has, and no copy of them serves anyone
(R404). -/
def State.loseKey (s : State) (k : Nat) : State :=
  let mine := (s.keyed.filter fun e => e.2 = k).map (·.1)
  let gone := fun (line : Nat) => mine.contains line
  { s with
    keyed := Tbl.each s.keyed fun _ x => if x = k then 4096 else x
    l1 := Tbl.each s.l1 fun _ t => t.filter fun e => !gone e.1
    near := Tbl.each s.near fun _ t => t.filter fun e => !gone e.1 }

/-- A context's key slot zeroised when no other context uses it (R404). -/
def State.dropKey (s : State) (a : Nat) : State :=
  let k := (s.ctx a).key
  if s.ctxs.any fun e => e.1 ≠ a && e.2.key = k then s
  else { s.loseKey k with zeroised := (s.zeroised.filter fun x => x ≠ k) ++ [k] }

/-- What the page of a context that is gone reports (R398), with the signal of vector 3p + 2. -/
def State.pageGone (s : State) (a why : Nat) : State :=
  let c := s.ctx a
  { s with
    pages := (s.pages.filter fun x => !(x.fn = c.fn && x.page = c.page)) ++
      [{ fn := c.fn, page := c.page, asid := a, why := why, disc := c.disc }]
    outbox := s.outbox ++ [.msix c.fn (3 * c.page + 2)] }

/-- A context taken from the device with all that it holds there. -/
def State.removeCtx (s : State) (a why : Nat) : State :=
  let s := (s.ctx a).shadows.foldl (fun (s : State) x => s.dropShadow a x.base) s
  let s := (s.dropKey a).pageGone a why
  let off := fun (w : HdmWin) => if w.asid = a then { w with en := false } else w
  { s with
    tlb := Tbl.each s.tlb fun _ l => l.filter fun e => e.asid ≠ a
    walk := Tbl.each s.walk fun _ l => l.filter fun e => e.asid ≠ a
    trace := Tbl.each s.trace fun _ t => Tbl.del t a
    requests := s.requests.filter fun r => r.asid ≠ a
    parts := Tbl.each s.parts fun _ p =>
      { p with wins := Tbl.each p.wins fun _ w => off w, fpidCtx := if p.fpidCtx = a then 0 else p.fpidCtx }
    lastPart := Tbl.put s.lastPart a (s.ctx a).part
    ctxs := Tbl.del s.ctxs a }

/-- The contexts under destruction none of whose grids has a chunk or a step left to end: the partial tick is closed for them only (R373), their final
readings are issued, and they are gone (R408). -/
def State.reap (s : State) : State :=
  let l := (Tbl.keysOf s.ctxs fun c => c.doomed.isSome).filter fun a => (s.gridsOf a).isEmpty
  if l.isEmpty then s
  else
    let (s, _) := s.closeFigures [] { ctx := fun a => l.contains a, part := fun _ => false, all := false }
    let s := l.foldl (fun (s : State) a => s.closeAccounts a) s
    l.foldl (fun (s : State) a => s.removeCtx a ((s.ctx a).doomed.getD 1)) s

/-- A context whose destruction begins: its queues stop (R408). -/
def Ctx.doom (c : Ctx) (why : Nat) : Ctx :=
  if c.doomed.isSome then c else { c with doomed := some why, queues := Tbl.each c.queues fun _ q => { q with en := false } }

/-- Contexts destroyed for a reason: their queues stop and their work is killed; they are gone once their engine work has reached its boundaries. -/
def State.destroy (s : State) (l : List Nat) (why : Nat) : State :=
  let s := l.foldl (fun (s : State) a => s.modCtx a fun c => c.doom why) s
  (l.foldl (fun (s : State) a => (s.gridsOf a).foldl (fun (s : State) n => s.killGrid n) s) s).reap

/-- What follows the end of a chunk or a step of a team: the end of its kill, and of its context, where they waited for it (R38, R337, R408). -/
def State.workEnded (s : State) (t : Nat) : State := if (s.team t).dying then (s.killCheck t).reap else s

/-- The contexts of a function. -/
def State.ctxsOfFn (s : State) (f : Nat) : List Nat := Tbl.keysOf s.ctxs fun c => c.fn = f

/-- Whether changes to a function's configuration and binding are refused (R402). -/
def State.locked (s : State) (f : Nat) : Bool := s.tdispOf f = .locked || s.tdispOf f = .run

/-- CONTEXT_DESTROY, on request (R357, R398). -/
def execContextDestroy (a : Nat) (s : State) : Host.Outcome State Fault Refusal :=
  match Tbl.at? s.ctxs a with
  | some c => .next (if s.locked c.fn then s else s.destroy [a] 1)
  | none => .next s

/-- FLR (R408); of the physical function, a warm reset (R410). -/
def execFlr (f : Nat) (s : State) : Host.Outcome State Fault Refusal :=
  .next (if f = 0 then s.rebooted else s.destroy (s.ctxsOfFn f) 2)

/-- TDISP_ERROR: every context of the function is destroyed (R402). -/
def execTdispError (f : Nat) (s : State) : Host.Outcome State Fault Refusal :=
  if 1 ≤ f && f ≤ 64 then .next ({ s with tdisp := Tbl.put s.tdisp f .error }.destroy (s.ctxsOfFn f) 4) else .next s

/-- WARM_RESET_REQUEST: final readings, then the reset (R410). -/
def execWarmResetRequest (s : State) : Host.Outcome State Fault Refusal :=
  let (s, _) := s.closeTick []
  .next ((Tbl.keys s.ctxs).foldl (fun (s : State) a => s.closeAccounts a) s).rebooted

/-! ### Creation (R14, R291, R395) -/

/-- Whether a context may be created from a descriptor. -/
def State.creatable (s : State) (x : CtxDesc) : Bool :=
  6 ≤ s.boot && s.bootFailed.isNone && 1 ≤ x.asid && x.asid < 65536 && (Tbl.at? s.ctxs x.asid).isNone &&
    (Tbl.at? s.parts x.part).isSome && 1 ≤ x.fn && x.fn ≤ 64 && x.page < 64 &&
    !(s.ctxs.any fun e => e.2.fn = x.fn && e.2.page = x.page) && 1 ≤ x.cw && x.cw ≤ 15 && x.key < 4096 && x.parkt < 2 ^ 20 &&
    !(s.ctxs.any fun e => e.2.key = x.key && e.2.part ≠ x.part) && s.tdispOf x.fn = .unlocked

/-- A context as created at `now`, in a tick that ends at `tickEnd`. -/
def Ctx.create (x : CtxDesc) (now tickEnd readint : Nat) : Ctx :=
  { Ctx.blank with
    part := x.part, fn := x.fn, page := x.page, l1 := x.l1, parkt := x.parkt, key := x.key, cw := x.cw
    gseg := segOf x.gbase x.glim, kseg := segOf x.kbase x.klim, ectr := x.ectr.toNat, depth := x.depth % 2 ^ 48
    refill := x.refill % 2 ^ 48, bal := (x.depth % 2 ^ 48 : Nat), pbudget := x.pbudget, iv := Interval.from now
    readAt := tickEnd + 16000 * (readint - 1) }

/-- CONTEXT_CREATE. -/
def execContextCreate (x : CtxDesc) (s : State) : Host.Outcome State Fault Refusal :=
  if s.creatable x then
    .next { s with
      ctxs := Tbl.put s.ctxs x.asid (Ctx.create x s.now s.tickEnd (s.part x.part).readint)
      pages := s.pages.filter fun y => !(y.fn = x.fn && y.page = x.page)
      zeroised := s.zeroised.filter fun k => k ≠ x.key }
  else .next s

/-! ### Partitions (R406, R407) -/

/-- WORKER_FIRMWARE_UPDATE: the partition is quiesced; the image is verified once it holds no room (R406). -/
def execWorkerFirmwareUpdate (p : Nat) (x : FwImage) (s : State) : Host.Outcome State Fault Refusal :=
  match Tbl.at? s.parts p with
  | some y =>
    if y.updating.isSome then .next s
    else .next (((s.modPart p fun y => { y with updating := some x }).quiesce p).service p)
  | none => .next s

/-- Whether a cluster is placed, recorded or awaited on a region. -/
def State.regionUsed (s : State) (r : Nat) : Bool := s.clusters.any fun e => e.2.region = r || e.2.target = some r

/-- REGION_MOVE: an unused region moves to another partition; the tick is closed for both (R406). A partition's last region may go (DESIGN CHOICE,
notes/assumptions/127.md). -/
def execRegionMove (r p : Nat) (s : State) : Host.Outcome State Fault Refusal :=
  match (s.region r).part with
  | some q =>
    if r < 48 && q ≠ p && (Tbl.at? s.parts p).isSome && !(s.region r).offline && !s.regionUsed r then
      let both := fun (k : Nat) => k = p || k = q
      let (s, _) := s.closeFigures [] { ctx := fun a => both (s.ctx a).part, part := both, all := false }
      .next (((s.clearRegion r).modRegion r fun x => { x with part := some p, req := (s.part p).point }).aimRegion r)
    else .next s
  | none => .next s

/-- SPARE_REGION_SWAP: the partition is quiesced, and a region replaced once it holds no room; one of no partition is replaced at once (R407). -/
def execSpareRegionSwap (r : Nat) (lost : List Nat) (s : State) : Host.Outcome State Fault Refusal :=
  match (s.region r).part with
  | some p =>
    if (s.part p).failing.isSome || (s.region r).offline then .next s
    else .next (((s.modPart p fun y => { y with failing := some (r, lost) }).quiesce p).service p)
  | none => .next (if r < 48 && !(s.region r).offline then s.replaceRegion r lost else s)

end Sys2Proof.Machine
end

