-- ==== Sys2Proof/Machine/LaneInt.lean ====
section
/-!
DEFINITION. The integer lane words (R124 to R128).
-/

namespace Sys2Proof.Machine

/-! ### Values -/

/-- The integer a code of type `t` stands for (R52). -/
def Ty.int (t : Ty) (x : Nat) : Int := if Ty.signed t then sext (Ty.width t) x else (x % 2 ^ Ty.width t : Nat)

/-- An exact value without flags. -/
def plain (t : Ty) (r : Int) : FRes := ⟨wrapN (Ty.width t) r, 0⟩

/-- VDIV (R125). -/
def divQ (t : Ty) (a b : Int) : Int := if b = 0 then (if Ty.signed t then -1 else 2 ^ Ty.width t - 1) else Int.tdiv a b
/-- VREM (R125). -/
def remQ (a b : Int) : Int := if b = 0 then a else Int.tmod a b

/-- Integer comparisons by FN (R127). -/
def icmp (c : Nat) (a b : Int) : Bool :=
  match c with
  | 0 => a = b | 1 => a ≠ b | 2 => a < b | 3 => a ≤ b | 4 => b < a | _ => b ≤ a

/-- VBFX (R126). -/
def bfx (t : Ty) (a ctl : Nat) : Int :=
  let pos := ctl % 64
  let len := bits ctl 14 8
  let whole : Int := if Ty.signed t then sext (Ty.width t) a else (a : Int)
  if len = 0 then 0
  else
    let field := wrapN len (whole / 2 ^ pos)
    if Ty.signed t then sext len field else (field : Int)

/-- VBFI (R126). -/
def bfi (w a b ctl : Nat) : Nat :=
  let pos := ctl % 64
  let len := bits ctl 14 8
  (List.range w).foldl (fun n i => n + 2 ^ i * b2n (if pos ≤ i && i < pos + len then bit b (i - pos) else bit a i)) 0

/-- The sum of four products of 8-bit elements (R128). -/
def dot4 (t : Ty) (a b : Nat) : Int :=
  let e := fun (x i : Nat) => let y := x / 2 ^ (8 * i) % 256; if Ty.signed t then sext 8 y else (y : Int)
  (List.range 4).foldl (fun n i => n + e a i * e b i) 0

/-! ### Shapes of words -/

/-- An integer word of `n` sources read at the type's width. -/
def State.intWord (s : State) (opc : Nat) (w : LaneOp) (n : Nat) (f : Gang → List Nat → FRes) : Host.Outcome State Fault Refusal :=
  s.perLane opc w wCell (fun g l => ([w.sa, w.sb, w.sc].take n).map fun x => s.srcInt g l (Ty.width w.ty) w.imm x)
    (fun g _ v => f g v) fun s u l v => s.putTy u l w.ty w.dst v

/-- An integer word whose second source is a 32-bit control. -/
def State.shiftWord (s : State) (opc : Nat) (w : LaneOp) (f : Gang → Nat → Nat → FRes) : Host.Outcome State Fault Refusal :=
  s.perLane opc w wCell (fun g l => [s.srcInt g l (Ty.width w.ty) w.imm w.sa, s.srcInt g l 32 w.imm w.sb])
    (fun g _ v => match v with
      | [a, b] => f g a b
      | _ => ⟨0, 0⟩) fun s u l v => s.putTy u l w.ty w.dst v

def State.int1 (s : State) (opc : Nat) (w : LaneOp) (f : Gang → Int → FRes) : Host.Outcome State Fault Refusal :=
  s.intWord opc w 1 fun g v => match v with
    | [a] => f g (Ty.int w.ty a)
    | _ => ⟨0, 0⟩

def State.int2 (s : State) (opc : Nat) (w : LaneOp) (f : Gang → Int → Int → FRes) : Host.Outcome State Fault Refusal :=
  s.intWord opc w 2 fun g v => match v with
    | [a, b] => f g (Ty.int w.ty a) (Ty.int w.ty b)
    | _ => ⟨0, 0⟩

def State.int3 (s : State) (opc : Nat) (w : LaneOp) (f : Gang → Int → Int → Int → FRes) : Host.Outcome State Fault Refusal :=
  s.intWord opc w 3 fun g v => match v with
    | [a, b, c] => f g (Ty.int w.ty a) (Ty.int w.ty b) (Ty.int w.ty c)
    | _ => ⟨0, 0⟩

/-- Wrap or sat by SM (R124). -/
def Gang.fit (g : Gang) (w : LaneOp) (r : Int) : FRes := narrow (Ty.signed w.ty) (Ty.width w.ty) (g.satOf w.sm) r

/-- log2 of a type's width. -/
def shiftN (w : LaneOp) (b : Nat) : Nat := b % Ty.width w.ty

/-! ### Meanings -/

/-- VADD (R124). -/
def execVadd (w : LaneOp) (s : State) : Host.Outcome State Fault Refusal := s.int2 0x00 w fun g a b => g.fit w (a + b)
/-- VSUB (R124). -/
def execVsub (w : LaneOp) (s : State) : Host.Outcome State Fault Refusal := s.int2 0x01 w fun g a b => g.fit w (a - b)
/-- VMUL (R124). -/
def execVmul (w : LaneOp) (s : State) : Host.Outcome State Fault Refusal := s.int2 0x02 w fun g a b => g.fit w (a * b)
/-- VMULH (R124). -/
def execVmulh (w : LaneOp) (s : State) : Host.Outcome State Fault Refusal :=
  s.int2 0x03 w fun _ a b => plain w.ty (a * b / 2 ^ Ty.width w.ty)
/-- VMAD (R124). -/
def execVmad (w : LaneOp) (s : State) : Host.Outcome State Fault Refusal := s.int3 0x04 w fun g a b c => g.fit w (a * b + c)
/-- VDIV (R125). -/
def execVdiv (w : LaneOp) (s : State) : Host.Outcome State Fault Refusal := s.int2 0x05 w fun _ a b => plain w.ty (divQ w.ty a b)
/-- VREM (R125). -/
def execVrem (w : LaneOp) (s : State) : Host.Outcome State Fault Refusal := s.int2 0x06 w fun _ a b => plain w.ty (remQ a b)
/-- VABS (R124). -/
def execVabs (w : LaneOp) (s : State) : Host.Outcome State Fault Refusal := s.int1 0x07 w fun g a => g.fit w a.natAbs
/-- VNEG (R124). -/
def execVneg (w : LaneOp) (s : State) : Host.Outcome State Fault Refusal := s.int1 0x08 w fun g a => g.fit w (-a)
/-- VMIN (R124). -/
def execVmin (w : LaneOp) (s : State) : Host.Outcome State Fault Refusal := s.int2 0x09 w fun _ a b => plain w.ty (if b < a then b else a)
/-- VMAX (R124). -/
def execVmax (w : LaneOp) (s : State) : Host.Outcome State Fault Refusal := s.int2 0x0A w fun _ a b => plain w.ty (if a < b then b else a)

/-- A bitwise word of two sources. -/
def State.bitWord (s : State) (opc : Nat) (w : LaneOp) (f : Nat → Nat → Nat) : Host.Outcome State Fault Refusal :=
  s.intWord opc w 2 fun _ v => match v with
    | [a, b] => ⟨f a b, 0⟩
    | _ => ⟨0, 0⟩

/-- VAND (R124). -/
def execVand (w : LaneOp) (s : State) : Host.Outcome State Fault Refusal := s.bitWord 0x0B w Nat.land
/-- VOR (R124). -/
def execVor (w : LaneOp) (s : State) : Host.Outcome State Fault Refusal := s.bitWord 0x0C w Nat.lor
/-- VXOR (R124). -/
def execVxor (w : LaneOp) (s : State) : Host.Outcome State Fault Refusal := s.bitWord 0x0D w Nat.xor
/-- VNOT (R124). -/
def execVnot (w : LaneOp) (s : State) : Host.Outcome State Fault Refusal := s.int1 0x0E w fun _ a => plain w.ty (-a - 1)

/-- VSHL (R126). -/
def execVshl (w : LaneOp) (s : State) : Host.Outcome State Fault Refusal :=
  s.shiftWord 0x0F w fun g a b => g.fit w (Ty.int w.ty a * 2 ^ shiftN w b)
/-- VSHR (R126). -/
def execVshr (w : LaneOp) (s : State) : Host.Outcome State Fault Refusal :=
  s.shiftWord 0x10 w fun _ a b => ⟨a / 2 ^ shiftN w b, 0⟩
/-- VSRA (R126). -/
def execVsra (w : LaneOp) (s : State) : Host.Outcome State Fault Refusal :=
  s.shiftWord 0x11 w fun _ a b => plain w.ty (sext (Ty.width w.ty) a / 2 ^ shiftN w b)
/-- VROT (R126). -/
def execVrot (w : LaneOp) (s : State) : Host.Outcome State Fault Refusal :=
  s.shiftWord 0x12 w fun _ a b =>
    let n := shiftN w b
    let k := Ty.width w.ty
    ⟨(a * 2 ^ n + a / 2 ^ (k - n)) % 2 ^ k, 0⟩
/-- VPOPC (R124). -/
def execVpopc (w : LaneOp) (s : State) : Host.Outcome State Fault Refusal :=
  s.intWord 0x13 w 1 fun _ v => ⟨popcount (Ty.width w.ty) ((v.head?).getD 0), 0⟩
/-- VCLZ (R124). -/
def execVclz (w : LaneOp) (s : State) : Host.Outcome State Fault Refusal :=
  s.intWord 0x14 w 1 fun _ v => ⟨clz (Ty.width w.ty) ((v.head?).getD 0), 0⟩
/-- VBFX (R126). -/
def execVbfx (w : LaneOp) (s : State) : Host.Outcome State Fault Refusal :=
  s.shiftWord 0x15 w fun _ a b => plain w.ty (bfx w.ty a b)
/-- VBFI (R126). -/
def execVbfi (w : LaneOp) (s : State) : Host.Outcome State Fault Refusal :=
  s.perLane 0x16 w wCell
    (fun g l => [s.srcInt g l (Ty.width w.ty) w.imm w.sa, s.srcInt g l (Ty.width w.ty) w.imm w.sb, s.srcInt g l 32 w.imm w.sc])
    (fun _ _ v => match v with
      | [a, b, c] => ⟨bfi (Ty.width w.ty) a b c, 0⟩
      | _ => ⟨0, 0⟩) fun s u l v => s.putTy u l w.ty w.dst v

/-- VCMP (R127). -/
def execVcmp (w : LaneOp) (s : State) : Host.Outcome State Fault Refusal :=
  s.perLane 0x17 w wCell (fun g l => [w.sa, w.sb].map fun x => s.srcInt g l (Ty.width w.ty) w.imm x)
    (fun _ _ v => match v with
      | [a, b] => ⟨b2n (icmp w.fn.toNat (Ty.int w.ty a) (Ty.int w.ty b)), 0⟩
      | _ => ⟨0, 0⟩) fun s u l v => s.putPred u l w.dst (v = 1)

/-- VSEL (R127). -/
def execVsel (w : LaneOp) (s : State) : Host.Outcome State Fault Refusal :=
  s.perLane 0x18 w wCell (fun g l => [w.sa, w.sb].map fun x => s.srcInt g l (Ty.width w.ty) w.imm x)
    (fun g l v => match v with
      | [a, b] => ⟨if (g.lane l).pred (w.fn.toNat % 8) != bit w.fn.toNat 3 then a else b, 0⟩
      | _ => ⟨0, 0⟩) fun s u l v => s.putTy u l w.ty w.dst v

/-- VADC (R127). The result carries its carry-out above the type's width. -/
def execVadc (w : LaneOp) (s : State) : Host.Outcome State Fault Refusal :=
  s.perLane 0x19 w wCell (fun g l => [w.sa, w.sb].map fun x => s.srcInt g l (Ty.width w.ty) w.imm x)
    (fun g l v => match v with
      | [a, b] => ⟨a + b + b2n ((g.lane l).pred w.fn.toNat), 0⟩
      | _ => ⟨0, 0⟩) fun s u l v =>
      (s.putTy u l w.ty w.dst v).modGang u fun g => g.modLane l fun x => x.setPred w.fn.toNat (2 ^ Ty.width w.ty ≤ v)

/-- VSAD (R128). -/
def execVsad (w : LaneOp) (s : State) : Host.Outcome State Fault Refusal :=
  s.int3 0x1A w fun _ a b c => plain w.ty (c + (a - b).natAbs)

/-- VDOT4 (R128). -/
def execVdot4 (w : LaneOp) (s : State) : Host.Outcome State Fault Refusal :=
  s.intWord 0x1B w 3 fun g v => match v with
    | [a, b, c] => g.fit w (Ty.int w.ty c + dot4 w.ty a b)
    | _ => ⟨0, 0⟩

end Sys2Proof.Machine
end

