-- ==== Sys2Proof/Machine/LaneConv.lean ====
section
/-!
DEFINITION. The conversions: CVT (R134), CVTB (R135), CVTX (R136) and VAMAX (R137).
-/

namespace Sys2Proof.Machine

/-- The value of a source code of a type: an integer, or a floating value read under DM where DM governs the type (R46, R134). -/
def Ty.source (t : Ty) (flush : Bool) (x : Nat) : FVal :=
  match Ty.fmt? t with
  | some f => f.read (flush && t.binary) x
  | none => let v := Ty.int t x; .fin (v < 0) v.natAbs 0

/-- A value converted to a type (R134). An integer source of an integer destination is exact or narrowed; one of no smaller width whose value the
destination cannot hold wraps or saturates as a narrowing does (DESIGN CHOICE, notes/assumptions/116.md). -/
def convertTo (src dst : Ty) (rm : Rm) (satm flush : Bool) (x : Nat) : FRes :=
  let a := Ty.source src flush x
  match Ty.fmt? dst with
  | some f => if dst.binary then f.convert rm flush a else f.narrowTo rm satm a
  | none =>
    match Ty.fmt? src, a with
    | none, .fin n m _ => narrow dst.signed dst.width satm (if n then -(m : Int) else m)
    | _, _ => toInt dst.signed dst.width rm satm a

/-- A CVT source (R50, R84, R134). IMM20 of a narrow floating type is its F20 value rounded to that type by the word's effective rounding mode, without
saturation and without flags (DESIGN CHOICE, notes/assumptions/31.md). -/
def State.srcCvt (s : State) (g : Gang) (l : Nat) (t : Ty) (rm : Rm) (imm : BitVec 20) (x : Src) : Nat × Bool :=
  match Ty.fmt? t with
  | some f =>
    if t.binary then s.srcFlt g l f rm imm x
    else if x = .imm then ((f.narrowTo rm false (Fmt.f20.decode imm.toNat)).bits, false)
    else s.srcRaw g l t.width x
  | none => s.srcInt g l t.width imm x

/-- CVT (R134). -/
def execCvt (w : LaneOp) (s : State) : Host.Outcome State Fault Refusal :=
  let src := Ty.ofCode w.fn.toNat
  s.perLane 0x40 w wConv (fun g l => [s.srcCvt g l src (g.rmOf w.rm) w.imm w.sa])
    (fun g _ v => convertTo src w.ty (g.rmOf w.rm) (g.satOf w.sm) (g.flushOf w.dm) ((v.head?).getD 0))
    fun s u l v => s.putTy u l w.ty w.dst v

/-- The values of lane `l`'s block among the active lanes (R135). -/
def blockOf (ins : List (Nat × List Nat)) (l : Nat) : List Nat :=
  (ins.filter fun e => e.1 / 8 = l / 8).map fun e => (e.2.head?).getD 0

/-- One element of a scaled block (R55, R56, R59, R135). -/
def blockElem (t : MFmt) (rm : Rm) (satm : Bool) (scale : Nat) (a : FVal) : FRes :=
  let x : FVal := match a with
    | .fin n m e => .fin n m (e + 127 - scale)
    | v => v
  match t.flt with
  | none => toBx8 rm x
  | some f =>
    let r := f.narrowTo rm satm x
    if satm then ⟨r.bits, r.flags &&& ~~~ fOV⟩ else r

/-- The result of CVTB for an element `x` of a block of codes of format `f` (R59, R135). -/
def blockScale (f : Fmt) (t : MFmt) (rm : Rm) (satm flush : Bool) (block : List Nat) (x : Nat) : FRes :=
  let vals := block.map (f.read flush)
  let special := vals.any fun v => match v with
    | .fin _ _ _ => false
    | _ => true
  if special then
    ⟨0xFF00 + (match t with
      | .e4m3 => 0x7F | .bx8 => 0x80 | _ => 0), fNV⟩
  else
    let logs := vals.filterMap fun v => match v with
      | .fin _ m e => if m = 0 then none else some (e + bitLen m - 1 : Int)
      | _ => none
    let scale := match logs with
      | [] => 127
      | a :: rest => (sat (rest.foldl (fun x y => if x < y then y else x) a - t.emax + 127) 0 254).toNat
    let r := blockElem t rm satm scale (f.read flush x)
    ⟨scale * 256 + r.bits, r.flags⟩

/-- CVTB (R135). -/
def execCvtb (w : LaneOp) (s : State) : Host.Outcome State Fault Refusal :=
  let f := Ty.fmt w.ty
  s.acrossLanes 0x41 w wConv (fun g l => [s.srcFlt g l f (g.rmOf w.rm) w.imm w.sa])
    (fun g ins l =>
      let mine := (((ins.filter fun e => e.1 = l).map fun e => (e.2.head?).getD 0).head?).getD 0
      blockScale f ((MFmt.ofCode w.fn.toNat).getD .i8) (g.rmOf w.rm) (g.satOf w.sm) (g.flushOf w.dm) (blockOf ins l) mine)
    fun s u l v => s.putResult u l false w.dst v

/-- One element expanded (R58, R61, R136). -/
def expandElem (f : Fmt) (t : MFmt) (rm : Rm) (flush : Bool) (code scale : Nat) : FRes :=
  let c := if t.four then code % 16 else code % 256
  if scale % 256 = 255 || (t = .bx8 && c = 0x80) then ⟨f.qnan, fNV⟩
  else
    let v : FVal := match t.flt with
      | some g => g.decode (c % 2 ^ g.width)
      | none => let q := if t.four then sext 4 c else sext 8 c; .fin (q < 0) q.natAbs 0
    match v with
    | .fin n m e => f.round rm flush n m (e + (scale % 256 : Nat) - 127)
    | _ => ⟨f.qnan, 0⟩

/-- CVTX (R136). -/
def execCvtx (w : LaneOp) (s : State) : Host.Outcome State Fault Refusal :=
  s.perLane 0x42 w wConv (fun g l => [s.srcInt g l 32 w.imm w.sa, s.srcInt g l 32 w.imm w.sb])
    (fun g _ v => match v with
      | [a, b] => expandElem (Ty.fmt w.ty) ((MFmt.ofCode w.fn.toNat).getD .i8) (g.rmOf w.rm) (g.flushOf w.dm) a b
      | _ => ⟨0, 0⟩) fun s u l v => s.putTy u l w.ty w.dst v

/-- The largest magnitude of a block (R137); magnitudes order as their codes. -/
def blockMax (f : Fmt) (flush : Bool) (block : List Nat) : FRes :=
  let vals := block.map (f.read flush)
  if vals.any FVal.isNan then nanOf f vals
  else ⟨block.foldl (fun m x =>
    let y := if flush && f.isSub x then 0 else x % 2 ^ (f.width - 1)
    if m < y then y else m) 0, 0⟩

/-- VAMAX (R137). -/
def execVamax (w : LaneOp) (s : State) : Host.Outcome State Fault Refusal :=
  let f := Ty.fmt w.ty
  s.acrossLanes 0x43 w wConv (fun g l => [s.srcFlt g l f .rne w.imm w.sa])
    (fun g ins l => blockMax f (g.flushOf w.dm) (blockOf ins l)) fun s u l v => s.putTy u l w.ty w.dst v

end Sys2Proof.Machine
end

