-- ==== Sys2Proof/Machine/Residue.lean ====
section
/-!
DEFINITION. The residue accumulator: slots (R63), addition (R64), recon and check (R65), and the conversion of a slot (R69).
-/

namespace Sys2Proof.Machine

/-- The modulus of the residue channels, 8,191 × 16,383 × 32,767 (R65). -/
def accM : Nat := 8191 * 16383 * 32767
/-- The greatest magnitude of the exact range (R65). -/
def accMax : Nat := (accM - 1) / 2

/-- The fields of a slot (R63); a channel of all ones reads 0. -/
def slotC13 (e : Nat) : Nat := e % 2 ^ 13 % 8191
def slotC14 (e : Nat) : Nat := bits e 26 13 % 16383
def slotC15 (e : Nat) : Nat := bits e 41 27 % 32767
def slotC6 (e : Nat) : Nat := bits e 47 42
def slotPsn (e : Nat) : Bool := bit e 48
def slotOvf (e : Nat) : Bool := bit e 49

/-- A slot from its channels and marks (R63). -/
def mkSlot (c13 c14 c15 c6 : Nat) (psn ovf : Bool) : Nat :=
  c13 + c14 * 2 ^ 13 + c15 * 2 ^ 27 + c6 * 2 ^ 42 + b2n psn * 2 ^ 48 + b2n ovf * 2 ^ 49

/-- `q` modulo `m`, as a natural number. -/
def modI (q : Int) (m : Nat) : Nat := (q % (m : Int)).toNat

/-- A slot that holds the integer `q`. -/
def slotOf (q : Int) (ovf : Bool) : Nat := mkSlot (modI q 8191) (modI q 16383) (modI q 32767) (modI q 64) false ovf

/-- A slot with an exact sum `q` of products added, every channel by itself (R64). -/
def slotAdd (e : Nat) (q : Int) (psn : Bool) : Nat :=
  mkSlot (modI (slotC13 e + q) 8191) (modI (slotC14 e + q) 16383) (modI (slotC15 e + q) 32767) (modI (slotC6 e + q) 64)
    (slotPsn e || psn) (slotOvf e)

/-- recon (R65): the integer of least magnitude with the residues of the slot, channel by channel. 16,381 inverts 8,191 modulo 16,383, and 10,925
inverts 8,191 × 16,383 modulo 32,767. -/
def recon (e : Nat) : Int :=
  let a := slotC13 e
  let b := (slotC14 e + 16383 - a % 16383) * 16381 % 16383
  let ab := a + 8191 * b
  let c := (slotC15 e + 32767 - ab % 32767) * 10925 % 32767
  let x := ab + 8191 * 16383 * c
  if accMax < x then (x : Int) - accM else x

/-- check (R65). -/
def slotCheck (e : Nat) : Nat :=
  if modI (recon e) 64 ≠ slotC6 e && !slotOvf e then e + 2 ^ 49 else e

/-- Where a slot's value goes: a binary format with its flush, a narrow format or an integer type. -/
inductive ConvDst where
  | bin (f : Fmt) (flush : Bool)
  | narrow (f : Fmt)
  | int (signed : Bool) (w : Nat)
  deriving DecidableEq, Repr

/-- convert(e, u, D, rm, sat) (R69). DESIGN CHOICE (notes/assumptions/101.md): the check of R65 that a read makes sets OVF in the value it converts and
leaves the slot as it is. -/
def convSlot (e : Nat) (u : Int) (d : ConvDst) (rm : Rm) (satm : Bool) : FRes :=
  let e := slotCheck e
  let x := recon e
  if slotPsn e then
    match d with
    | .bin f _ | .narrow f => ⟨f.qnan, 0⟩
    | .int _ _ => ⟨0, fNV⟩
  else if slotOvf e then
    match d with
    | .bin f _ | .narrow f => ⟨f.maxCode (x < 0), fOF⟩
    | .int sg w => ⟨wrapN w (if x < 0 then intMin sg w else intMax sg w), fOF⟩
  else
    let v : FVal := .fin (x < 0) x.natAbs u
    match d with
    | .bin f fl => f.round rm fl (x < 0) x.natAbs u
    | .narrow f => f.narrowTo rm satm v
    | .int sg w => toInt sg w rm satm v

/-- TMODE values (R66). -/
def tmClear : Nat := 0
def tmResidue : Nat := 1
def tmPlane : Nat := 2
def tmF32 : Nat := 3
def tmI64 : Nat := 4

end Sys2Proof.Machine
end

