-- ==== Sys2Proof/Machine/LaneAcc.lean ====
section
/-!
DEFINITION. ACCRD and ACCWR (R204 to R207).
-/

namespace Sys2Proof.Machine

/-- The offset of a lane address source (R148). -/
def laneOffset (src : Nat) (imm : BitVec 20) : Nat := wrapN 64 ((src : Int) + sext 20 imm.toNat)

/-- A trap for the lanes that fail a check of the whole instruction: no lane performs (R150). `off` gives the address reported. -/
def State.laneCheckTrap (s : State) (u cause acc : Nat) (act who : List Nat) (addr : Nat → Nat) : State :=
  let t := s.chargeCells u wLaneMem (cellsOf act)
  t.laneTrap u cause 0 act who (addr ((who.head?).getD 0)) 0 acc

/-- Whether a lane of a tile must wait for a task enqueued before the block was appended (R207). -/
def State.tileBusy (s : State) (g : Gang) (tile : Nat) : Bool :=
  (s.team g.team).tasks.any fun k =>
    let r := TaskRec.of k.rcd
    k.enq < g.entry.enq && (r.writes.contains tile || r.reads.contains tile)

/-- What a word on the accumulator space checks beyond R204 (R206): `unit` names the lanes whose unit no tile takes, and `tile` the lanes, among the
active ones, that their tile's state turns away; none for ACCRD. -/
structure AccCheck where
  unit : Gang → Nat → Bool
  tile : Option (Gang → (Nat → Nat) → List Nat → Nat → Bool)

/-- The slots of the lanes of a word on the accumulator space, once the checks of R204 and R206 have passed in the order of R88 and no lane must wait
(R207). What a tile's state decides is known only when no lane waits for the tile (notes/assumptions/51.md). -/
def State.accWord (s : State) (opc : Nat) (w : LaneOp) (acc : Nat) (k : AccCheck)
    (f : State → Nat → Gang → List Nat → (Nat → Nat) → State) : Host.Outcome State Fault Refusal :=
  s.laneRun opc w fun u g act =>
    let off := fun l => laneOffset (s.srcAddr g l false w.sa).1 w.imm
    let within := act.filter fun l => off l < (s.recOf g).tiles * 8192
    let busy := within.any fun l => s.tileBusy g (off l / 8192)
    let turned := match k.tile with
      | some p => if busy then [] else within.filter (p g off within)
      | none => []
    let out := act.filter fun l => !within.contains l || k.unit g l || turned.contains l
    let odd := act.filter fun l => off l % 8 ≠ 0
    if !out.isEmpty then s.laneCheckTrap u cSBOUND acc act out off
    else if busy && k.tile.isSome then s.laneStall u .other
    else if !odd.isEmpty then s.laneCheckTrap u cALIGN acc act odd off
    else if busy then s.laneStall u .other
    else f s u g act off

/-- The distinct 128-byte pieces of the accumulator store that offsets touch. -/
def accLines (offs : List Nat) : Nat := (dedup (offs.map (· / 128))).length

/-- A slot read as type `t` (R205). -/
def slotRead (mword e : Nat) (t : Ty) (rm : Rm) (satm flush : Bool) : FRes :=
  let d : ConvDst := if t.binary then .bin (Ty.fmt t) flush else .int t.signed t.width
  match metaMode mword with
  | 0 => ⟨0, 0⟩
  | 1 | 2 => convSlot e (metaUnit mword) d rm satm
  | 3 => if t = .f32 then ⟨e % 2 ^ 32, 0⟩ else convertTo .f32 t rm satm flush (e % 2 ^ 32)
  | _ => if t = .i64 then ⟨e, 0⟩ else convertTo .i64 t rm satm flush e

/-- ACCRD (R205). -/
def execAccrd (w : LaneOp) (s : State) : Host.Outcome State Fault Refusal :=
  s.accWord 0xAA w 0 { unit := fun _ _ => false, tile := none } fun s u g act off =>
    let bad := act.filter fun l => (s.srcAddr g l false w.sa).2
    let ok := act.filter fun l => !bad.contains l
    let t := s.team g.team
    let core := s.coreOf g
    let s := s.chargeCells u wLaneMem (cellsOf act)
    let s := if g.unpaid s.cells then s else s.chargeGang u (wStore * accLines (ok.map off))
    let s := ok.foldl (fun (s : State) l =>
      let tile := t.tileBase + off l / 8192
      let r := slotRead (s.tileMeta core tile) (s.accSlot core tile (off l % 8192 / 8)) w.ty (g.rmOf w.rm) (g.satOf w.sm) (g.flushOf w.dm)
      (s.putTy u l w.ty w.dst r.bits).raise u r.flags) s
    s.lanePoison u bad bad

/-- The unit a lane of ACCWR names. -/
def State.accUnit (s : State) (w : LaneOp) (g : Gang) (l : Nat) : Int := sext 32 (s.srcInt g l 32 w.imm w.sc).1

/-- The tile of its core that an offset of a team's accumulator space names (R15, R204). -/
def State.accTile (s : State) (g : Gang) (o : Nat) : Nat := (s.team g.team).tileBase + o / 8192

/-- The unit of the lowest lane of `act` that names the tile of lane `l` (R206). -/
def State.accFirst (s : State) (w : LaneOp) (g : Gang) (off : Nat → Nat) (act : List Nat) (l : Nat) : Int :=
  ((act.find? fun k => off k / 8192 = off l / 8192).map fun k => s.accUnit w g k).getD 0

/-- What ACCWR asks of its unit and of the tile's state (R206). -/
def State.accwrCheck (s : State) (w : LaneOp) : AccCheck where
  unit := fun g l => !(-128 ≤ s.accUnit w g l && s.accUnit w g l ≤ 127)
  tile := some fun g off act l =>
    let m := s.tileMeta (s.coreOf g) (s.accTile g (off l))
    if metaMode m = 0 then s.accUnit w g l ≠ s.accFirst w g off act l else metaMode m ≠ 1 || metaUnit m ≠ s.accUnit w g l

/-- ACCWR (R206). A slot is written whole: OVF is 0 unless x lies outside the exact range (notes/assumptions/88.md). -/
def execAccwr (w : LaneOp) (s : State) : Host.Outcome State Fault Refusal :=
  s.accWord 0xAB w 1 (s.accwrCheck w) fun s u g act off =>
    let data := fun l => s.srcInt g l 64 w.imm w.sb
    let core := s.coreOf g
    let bad := act.filter fun l => (s.srcAddr g l false w.sa).2 || (data l).2 || (s.srcInt g l 32 w.imm w.sc).2
    let ok := act.filter fun l => !bad.contains l
    let s := s.chargeCells u wLaneMem (cellsOf act)
    let s := if g.unpaid s.cells then s else s.chargeGang u (wStore * accLines (ok.map off))
    let s := ok.foldl (fun (t : State) l =>
      let tile := s.accTile g (off l)
      let t := if metaMode (t.tileMeta core tile) = 0 then t.setMeta core tile (mkMeta tmResidue 0 0 0 (s.accFirst w g off act l)) else t
      let x := sext 64 (data l).1
      t.setAcc core tile (off l % 8192 / 8) (slotOf x (accMax < x.natAbs))) s
    s.lanePoison u bad bad

end Sys2Proof.Machine
end

