-- ==== Sys2Proof/Machine/LaneFloat.lean ====
section
/-!
DEFINITION. The floating-point lane words but FTRN (R129 to R131, R133).
-/

namespace Sys2Proof.Machine

/-- The charge of an arithmetic word of a type (R123). -/
def floatEu (t : Ty) : Nat := if t = .f64 then wDouble else wFloat

/-- A floating word of `n` sources read at the type's format, under the flush DM selects. `rm` is the effective mode, rne for a word that does not
read RM (R50). -/
def State.fltWord (s : State) (opc : Nat) (w : LaneOp) (n eu : Nat) (rounds : Bool)
    (f : Fmt → Rm → Bool → List FVal → FRes) : Host.Outcome State Fault Refusal :=
  let fmt := Ty.fmt w.ty
  let rm := fun (g : Gang) => if rounds then g.rmOf w.rm else .rne
  s.perLane opc w eu (fun g l => ([w.sa, w.sb, w.sc].take n).map fun x => s.srcFlt g l fmt (rm g) w.imm x)
    (fun g _ v => f fmt (rm g) (g.flushOf w.dm) (v.map fun x => fmt.read (g.flushOf w.dm) x))
    fun s u l v => s.putTy u l w.ty w.dst v

def State.flt1 (s : State) (opc : Nat) (w : LaneOp) (eu : Nat) (f : Fmt → Rm → Bool → FVal → FRes) : Host.Outcome State Fault Refusal :=
  s.fltWord opc w 1 eu true fun fmt rm fl v => match v with
    | [a] => f fmt rm fl a
    | _ => ⟨0, 0⟩

def State.flt2 (s : State) (opc : Nat) (w : LaneOp) (eu : Nat) (f : Fmt → Rm → Bool → FVal → FVal → FRes) :
    Host.Outcome State Fault Refusal :=
  s.fltWord opc w 2 eu true fun fmt rm fl v => match v with
    | [a, b] => f fmt rm fl a b
    | _ => ⟨0, 0⟩

/-- FADD (R129). -/
def execFadd (w : LaneOp) (s : State) : Host.Outcome State Fault Refusal := s.flt2 0x30 w (floatEu w.ty) Fmt.add
/-- FSUB (R129). -/
def execFsub (w : LaneOp) (s : State) : Host.Outcome State Fault Refusal :=
  s.flt2 0x31 w (floatEu w.ty) fun f rm fl a b => f.add rm fl a b.negate
/-- FMUL (R129). -/
def execFmul (w : LaneOp) (s : State) : Host.Outcome State Fault Refusal := s.flt2 0x32 w (floatEu w.ty) Fmt.mul
/-- FFMA (R129). -/
def execFfma (w : LaneOp) (s : State) : Host.Outcome State Fault Refusal :=
  s.fltWord 0x33 w 3 (floatEu w.ty) true fun f rm fl v => match v with
    | [a, b, c] => f.dot rm fl [(a, b)] c
    | _ => ⟨0, 0⟩
/-- FDIV (R129). -/
def execFdiv (w : LaneOp) (s : State) : Host.Outcome State Fault Refusal := s.flt2 0x38 w wRoot Fmt.div
/-- FSQRT (R129). -/
def execFsqrt (w : LaneOp) (s : State) : Host.Outcome State Fault Refusal := s.flt1 0x39 w wRoot Fmt.sqrt
/-- FRND (R133). -/
def execFrnd (w : LaneOp) (s : State) : Host.Outcome State Fault Refusal := s.flt1 0x3E w (floatEu w.ty) Fmt.rint

/-- A word on the codes themselves, with sources read under R50 by rne. -/
def State.codeWord (s : State) (opc : Nat) (w : LaneOp) (n : Nat) (f : Gang → List Nat → FRes) (put : State → Nat → Nat → Nat → State) :
    Host.Outcome State Fault Refusal :=
  s.perLane opc w wCell (fun g l => ([w.sa, w.sb].take n).map fun x => s.srcFlt g l (Ty.fmt w.ty) .rne w.imm x) (fun g _ v => f g v) put

/-- FMIN and FMAX (R130). -/
def State.minmaxWord (s : State) (opc : Nat) (w : LaneOp) (isMax : Bool) : Host.Outcome State Fault Refusal :=
  s.codeWord opc w 2 (fun g v => match v with
    | [a, b] => (Ty.fmt w.ty).minmax isMax (w.fn = 1) (g.flushOf w.dm) a b
    | _ => ⟨0, 0⟩) fun s u l v => s.putTy u l w.ty w.dst v

/-- FMIN (R130). -/
def execFmin (w : LaneOp) (s : State) : Host.Outcome State Fault Refusal := s.minmaxWord 0x34 w false
/-- FMAX (R130). -/
def execFmax (w : LaneOp) (s : State) : Host.Outcome State Fault Refusal := s.minmaxWord 0x35 w true
/-- FABS (R130). -/
def execFabs (w : LaneOp) (s : State) : Host.Outcome State Fault Refusal :=
  s.codeWord 0x36 w 1 (fun _ v => ⟨(v.head?).getD 0 % 2 ^ (w.ty.width - 1), 0⟩) fun s u l v => s.putTy u l w.ty w.dst v
/-- FNEG (R130). -/
def execFneg (w : LaneOp) (s : State) : Host.Outcome State Fault Refusal :=
  s.codeWord 0x37 w 1 (fun _ v => ⟨((v.head?).getD 0 + 2 ^ (w.ty.width - 1)) % 2 ^ w.ty.width, 0⟩) fun s u l v => s.putTy u l w.ty w.dst v

/-- A comparison by FN[2:0] (R131). -/
def fcmp (c : Nat) (a b : FVal) : Bool :=
  let un := a.isNan || b.isNan
  match c with
  | 0 => feq a b
  | 1 => un || !feq a b
  | 2 => fltB false a b
  | 3 => fltB false a b || feq a b
  | 4 => fltB false b a
  | 5 => fltB false b a || feq a b
  | 6 => !un
  | _ => un

/-- FCMP (R131). -/
def execFcmp (w : LaneOp) (s : State) : Host.Outcome State Fault Refusal :=
  s.codeWord 0x3B w 2 (fun g v => match v with
    | [a, b] =>
      let x := (Ty.fmt w.ty).read (g.flushOf w.dm) a
      let y := (Ty.fmt w.ty).read (g.flushOf w.dm) b
      let nv := if 8 ≤ w.fn.toNat then x.isNan || y.isNan else x = .nan true || y = .nan true
      ⟨b2n (fcmp (w.fn.toNat % 8) x y), if nv then fNV else 0⟩
    | _ => ⟨0, 0⟩) fun s u l v => s.putPred u l w.dst (v = 1)

/-- FCLASS (R131). -/
def execFclass (w : LaneOp) (s : State) : Host.Outcome State Fault Refusal :=
  s.codeWord 0x3C w 1 (fun _ v => ⟨2 ^ (Ty.fmt w.ty).class_ ((v.head?).getD 0), 0⟩) fun s u l v => s.putResult u l false w.dst v

/-- FSCALE (R133). -/
def execFscale (w : LaneOp) (s : State) : Host.Outcome State Fault Refusal :=
  let f := Ty.fmt w.ty
  s.perLane 0x3D w (floatEu w.ty) (fun g l => [s.srcFlt g l f (g.rmOf w.rm) w.imm w.sa, s.srcInt g l 32 w.imm w.sb])
    (fun g _ v => match v with
      | [a, b] => f.scaleb (g.rmOf w.rm) (g.flushOf w.dm) (f.read (g.flushOf w.dm) a) (sext 32 b)
      | _ => ⟨0, 0⟩) fun s u l v => s.putTy u l w.ty w.dst v

/-- A source of two 16-bit elements. One that names IMM20 reads it under R50 in the element's format, the upper element 0
(notes/assumptions/32.md). -/
def State.srcPair (s : State) (g : Gang) (l : Nat) (f : Fmt) (rm : Rm) (imm : BitVec 20) (x : Src) : Nat × Bool :=
  if x = .imm then (immFloat f rm imm, false) else s.srcRaw g l 32 x

/-- FDOT2 (R133). -/
def execFdot2 (w : LaneOp) (s : State) : Host.Outcome State Fault Refusal :=
  let f := Ty.fmt w.ty
  s.perLane 0x3F w (floatEu w.ty)
    (fun g l => [s.srcPair g l f (g.rmOf w.rm) w.imm w.sa, s.srcPair g l f (g.rmOf w.rm) w.imm w.sb,
      s.srcFlt g l .f32 (g.rmOf w.rm) w.imm w.sc])
    (fun g _ v => match v with
      | [a, b, c] =>
        let fl := g.flushOf w.dm
        let el := fun (x i : Nat) => f.read fl (x / 2 ^ (16 * i) % 2 ^ 16)
        Fmt.f32.dot (g.rmOf w.rm) fl [(el a 0, el b 0), (el a 1, el b 1)] (Fmt.f32.read fl c)
      | _ => ⟨0, 0⟩) fun s u l v => s.putResult u l false w.dst v

end Sys2Proof.Machine
end

