-- ==== Sys2Proof/Machine/LaneMove.lean ====
section
/-!
DEFINITION. Moving data between lanes: VMOV (R138), VPERM and VBCAST (R139), VREDS and VSCAN (R140), VVOTE (R141) and VPOP (R142).
-/

namespace Sys2Proof.Machine

/-- VMOV (R138). -/
def execVmov (w : LaneOp) (s : State) : Host.Outcome State Fault Refusal :=
  s.perLane 0x60 w wCell (fun g l => [s.srcTy g l w.ty .rne w.imm w.sa]) (fun _ _ v => ⟨(v.head?).getD 0, 0⟩)
    fun s u l v => s.putTy u l w.ty w.dst v

/-- A word that gives each lane the value of `a` in the lane that `b` names (R139). Of a poisoned `a` TCLANES names the lanes that read it (DESIGN CHOICE,
notes/assumptions/132.md). -/
def State.permWord (s : State) (opc : Nat) (w : LaneOp) : Host.Outcome State Fault Refusal :=
  s.acrossLanes opc w wCell (fun g l =>
      let b := s.srcInt g l 32 w.imm w.sb
      [b, s.srcTy g (b.1 % 32) w.ty .rne w.imm w.sa])
    (fun _ ins l => ⟨(((ins.find? fun e => e.1 = l).bind fun e => e.2[1]?)).getD 0, 0⟩) fun s u l v => s.putTy u l w.ty w.dst v

/-- VPERM (R139). -/
def execVperm (w : LaneOp) (s : State) : Host.Outcome State Fault Refusal := s.permWord 0x61 w
/-- VBCAST (R139). -/
def execVbcast (w : LaneOp) (s : State) : Host.Outcome State Fault Refusal := s.permWord 0x62 w

/-- One combination of VREDS and VSCAN by op (R140). -/
def combine (t : Ty) (op : Nat) (rm : Rm) (flush : Bool) (a b : Nat) : FRes :=
  if t.binary then
    let f := Ty.fmt t
    match op with
    | 0 => f.add rm flush (f.read flush a) (f.read flush b)
    | 1 | 6 => f.minmax false (op = 6) flush a b
    | _ => f.minmax true (op = 7) flush a b
  else
    let x := Ty.int t a
    let y := Ty.int t b
    match op with
    | 0 => plain t (x + y)
    | 1 => plain t (if y < x then y else x)
    | 2 => plain t (if x < y then y else x)
    | 3 => ⟨Nat.land a b, 0⟩
    | 4 => ⟨Nat.lor a b, 0⟩
    | _ => ⟨Nat.xor a b, 0⟩

/-- Two partials combined: one that is absent passes the other unchanged (R140). -/
def combine? (f : Nat → Nat → FRes) (a b : Option FRes) : Option FRes :=
  match a, b with
  | some x, some y => let r := f x.bits y.bits; some ⟨r.bits, x.flags ||| y.flags ||| r.flags⟩
  | some x, none => some x
  | none, y => y

/-- The pairwise tree over `2^n` lanes from `lo` (R140). -/
def redTree (f : Nat → Nat → FRes) (v : Nat → Option FRes) : (n lo : Nat) → Option FRes
  | 0, lo => v lo
  | n + 1, lo => combine? f (redTree f v n lo) (redTree f v n (lo + 2 ^ n))

/-- The charge of VREDS and VSCAN (R123). -/
def redEu (w : LaneOp) (op : Nat) : Nat := if w.ty.binary && op = 0 then floatEu w.ty else wCell

/-- The identity an exclusive scan gives its first lane (R140). -/
def scanId (t : Ty) (op : Nat) : Nat :=
  if t.binary then
    let f := Ty.fmt t
    match op with
    | 0 => signBit f true
    | 1 | 6 => f.infCode false
    | _ => f.infCode true
  else
    match op with
    | 1 => wrapN t.width (intMax t.signed t.width)
    | 2 => wrapN t.width (intMin t.signed t.width)
    | 3 => 2 ^ t.width - 1
    | _ => 0

/-- VREDS (R140). -/
def execVreds (w : LaneOp) (s : State) : Host.Outcome State Fault Refusal :=
  let op := w.fn.toNat
  s.acrossLanes 0x63 w (redEu w op) (fun g l => [s.srcTy g l w.ty (g.rmOf w.rm) w.imm w.sa])
    (fun g ins _ =>
      let v := fun l => (ins.find? fun e => e.1 = l).map fun e => (⟨(e.2.head?).getD 0, 0⟩ : FRes)
      (redTree (combine w.ty op (g.rmOf w.rm) (g.flushOf w.dm)) v 5 0).getD ⟨0, 0⟩)
    fun s u l v => s.putTy u l w.ty w.dst v

/-- The combination of the active lanes up to lane `l`, `incl` telling whether lane `l` takes part (R140). DESIGN CHOICE (notes/assumptions/103.md): a
single value is combined with nothing and passes unchanged, without flush, quieting or flags. -/
def scanUpTo (f : Nat → Nat → FRes) (ins : List (Nat × List Nat)) (incl : Bool) (l : Nat) : Option FRes :=
  (ins.filter fun e => e.1 < l || (incl && e.1 = l)).foldl (fun a e => combine? f a (some ⟨(e.2.head?).getD 0, 0⟩)) none

/-- VSCAN (R140). -/
def execVscan (w : LaneOp) (s : State) : Host.Outcome State Fault Refusal :=
  let op := w.fn.toNat % 8
  let excl := 8 ≤ w.fn.toNat
  s.acrossLanes 0x64 w (redEu w op) (fun g l => [s.srcTy g l w.ty (g.rmOf w.rm) w.imm w.sa])
    (fun g ins l => (scanUpTo (combine w.ty op (g.rmOf w.rm) (g.flushOf w.dm)) ins (!excl) l).getD ⟨scanId w.ty op, 0⟩)
    fun s u l v => s.putTy u l w.ty w.dst v

/-- VVOTE (R141). -/
def execVvote (w : LaneOp) (s : State) : Host.Outcome State Fault Refusal :=
  s.acrossLanes 0x65 w wCell (fun g l => [s.srcInt g l 32 w.imm w.sa])
    (fun _ ins _ =>
      let v := ins.map fun e => (e.1, (e.2.head?).getD 0)
      ⟨match w.fn.toNat with
        | 0 => b2n (v.all fun e => e.2 ≠ 0)
        | 1 => b2n (v.any fun e => e.2 ≠ 0)
        | 2 => maskOf ((v.filter fun e => e.2 ≠ 0).map (·.1))
        | _ => b2n (v.all fun e => e.2 = ((v.head?).getD (0, 0)).2), 0⟩)
    fun s u l v => s.putResult u l false w.dst v

/-- VPOP.set (R142). -/
def execVpopSet (w : LaneOp) (s : State) : Host.Outcome State Fault Refusal :=
  s.perLane 0x66 { w with fn := 0 } wCell (fun g l => [s.srcInt g l 32 w.imm w.sa]) (fun _ _ v => ⟨b2n ((v.head?).getD 0 ≠ 0), 0⟩)
    fun s u l v => s.putPred u l w.dst (v = 1)

/-- VPOP.get (R142). -/
def execVpopGet (w : LaneOp) (s : State) : Host.Outcome State Fault Refusal :=
  s.perLane 0x66 { w with fn := 1 } wCell (fun _ _ => []) (fun g l _ => ⟨Nat.lor (g.lane l).p.toNat 1, 0⟩)
    fun s u l v => s.putResult u l false w.dst v

/-- VPOP.put (R142): no lane result. -/
def execVpopPut (w : LaneOp) (s : State) : Host.Outcome State Fault Refusal :=
  s.perLane 0x66 { w with fn := 2 } wCell (fun g l => [s.srcInt g l 32 w.imm w.sa]) (fun _ _ v => ⟨(v.head?).getD 0, 0⟩)
    fun s u l v => s.modGang u fun g => g.modLane l fun x => { x with p := BitVec.ofNat 8 (Nat.lor v 1) }

end Sys2Proof.Machine
end

