-- ==== Sys2Proof/Machine/LaneMem.lean ====
section
/-!
DEFINITION. The lane memory words (R148 to R165, R170): the checks of a pass, translation, the elements, and the charges of R162.
-/

namespace Sys2Proof.Machine

/-! ### A pass (R150, R151) -/

/-- Where a lane's element lies once its checks have passed: a physical address, an offset of its segment, or an offset of the gang's own window; or the
fault kind of its translation. The answer of another device stands beside its address once it has come. -/
inductive Target where
  | pa (a : Nat)
  | got (a : Nat) (bs : List Byte) (bad : Bool)
  | off (o : Nat)
  | window (w : Nat)
  | fault (fk : Nat)
  deriving DecidableEq, Repr

/-- What a pass asks other devices for: nothing, the lines of its elements, each once (R162, R385), or a packet of its own for each lane. -/
inductive Ask where
  | nothing
  | lines
  | each (packet : Nat → Nat → Packet)

/-- How a pass deals with its elements. -/
structure Pass where
  seg : Nat
  /-- A store, for the checks of R31. -/
  store : Bool
  /-- ACC of a fault record (R301). -/
  acc : Nat
  /-- The permission a translation needs (R294). -/
  need : Acc
  /-- Lanes whose element fails SBOUND beyond the segment's bounds. -/
  forbid : State → Gang → Nat → Nat → Bool
  /-- The requests that elements in other devices' memories wait for. -/
  ask : Ask
  /-- What leaves the buffers before the pass asks or performs, for its targets (R152, R155). -/
  first : State → Nat → List (Nat × Target) → State := fun s _ _ => s

/-- The bytes of a lane access of a type (R148). -/
def accBytes (t : Ty) : Nat := t.width / 8

/-- The offset of lane `l` in the word's segment (R148). -/
def State.laneOff (s : State) (g : Gang) (w : LaneOp) (isG : Bool) (l : Nat) : Nat := laneOffset (s.srcAddr g l isG w.sa).1 w.imm

/-- The virtual address of an offset of segment `sg`, as a trap reports it (R225). -/
def Gang.reportAddr (g : Gang) (sg o : Nat) : Nat := (g.seg sg).address o

/-- The translations of a pass, in lane order. -/
def State.laneTargets (s : State) (g : Gang) (need : Acc) (places : List (Nat × Place)) : State × List (Nat × Target) :=
  places.foldl (fun (x : State × List (Nat × Target)) e =>
    match e.2 with
    | .va va =>
      match x.1.translateFor (.lane s.cur e.1) (.core (s.coreOf g)) (s.asidOf g) va need with
      | (t, .ok pa _ _) => (t, x.2 ++ [(e.1, .pa pa)])
      | (t, .bad k) => (t, x.2 ++ [(e.1, .fault k)])
    | .off o => (x.1, x.2 ++ [(e.1, .off o)])
    | .window w => (x.1, x.2 ++ [(e.1, .window w)])
    | .bad _ _ => x) (s, [])

/-- The lanes whose elements lie in other devices' memories, with their addresses. -/
def peerTargets (ts : List (Nat × Target)) : List (Nat × Nat) :=
  ts.filterMap fun e => match e.2 with
    | .pa a => if isPeer a then some (e.1, a) else none
    | _ => none

/-- A request of a pass: the lane that it is made for, its first address and its length. -/
structure PassReq where
  lane : Nat
  pa : Nat
  n : Nat
  packet : Packet

/-- The requests of a pass of `n`-byte elements. A line that several lanes name is asked for once, for the lowest of them, from the first byte that they
name to the last (R162, R385). -/
def Ask.requests (a : Ask) (n : Nat) (peers : List (Nat × Nat)) : List PassReq :=
  match a with
  | .nothing => []
  | .each f => peers.map fun e => { lane := e.1, pa := e.2, n := n, packet := f e.1 e.2 }
  | .lines => (distinctBy lineOf (peers.map (·.2))).map fun line =>
      let mine := peers.filter fun e => lineOf e.2 = line
      let lo := mine.foldl (fun m e => if e.2 < m then e.2 else m) (128 * line + 127)
      let hi := mine.foldl (fun m e => if m < e.2 + n then e.2 + n else m) 0
      { lane := ((mine.head?).map (·.1)).getD 0, pa := lo, n := hi - lo, packet := peerPacket 0 lo }

/-- The request of a pass that answers lane `l` at an address. -/
def Ask.serves (a : Ask) (l pa : Nat) (r : PassReq) : Bool :=
  match a with
  | .lines => lineOf r.pa = lineOf pa
  | _ => r.lane = l

/-- Requests of a pass sent where they have not been; the flag tells whether an answer is still to come. -/
def State.askPeers (s : State) (u : Nat) (g : Gang) (rs : List PassReq) : State × Bool :=
  rs.foldl (fun (x : State × Bool) r =>
    match x.1.findReq (.lane u r.lane) r.pa r.n with
    | some q => (x.1, x.2 || q.answer.isNone)
    | none => (x.1.request (.lane u r.lane) g.team (s.asidOf g) (s.regOf g) r.packet r.pa r.n, true)) (s, false)

/-- The targets with the answers that have come for `n`-byte elements, which are used up. -/
def State.takeAnswers (s : State) (u n : Nat) (a : Ask) (rs : List PassReq) (ts : List (Nat × Target)) : State × List (Nat × Target) :=
  let answer := fun (l pa : Nat) => do
    let r ← rs.find? (a.serves l pa)
    let q ← s.findReq (.lane u r.lane) r.pa r.n
    let (bs, bad) ← q.answer
    pure (Target.got pa ((bs.drop (pa - r.pa)).take n) (badAt bad pa n))
  (rs.foldl (fun (s : State) r =>
    match s.findReq (.lane u r.lane) r.pa r.n with
    | some q => s.dropReq q.tag
    | none => s) s,
   ts.map fun e => match e.2 with
    | .pa pa => (e.1, (if isPeer pa then answer e.1 pa else none).getD e.2)
    | _ => e)

/-- The translations of a pass that waits, kept until it performs (R297). -/
def State.pinLanes (s : State) (u : Nat) (places : List (Nat × Place)) (ts : List (Nat × Target)) : State :=
  ts.foldl (fun (s : State) e =>
    match e.2, (places.find? fun p => p.1 = e.1).map (·.2) with
    | .pa pa, some (.va va) => s.pin (.lane u e.1) [(va, pa)]
    | _, _ => s) s

/-- The trap that ends a pass in which lanes did not perform (R150, R288, R300): the first cause in the order of R88, its lanes, and their lowest address. -/
def State.passTrap (s : State) (u acc : Nat) (faults : List (Nat × Nat)) (poison srcBad : List Nat) (addr : Nat → Nat) : State :=
  let pend := (List.range 32).filter fun l => faults.any (fun e => e.1 = l) || poison.contains l || srcBad.contains l
  let of_ := fun (c : Nat) => faults.filter fun e => fkCause e.2 = c
  let raise := fun (c : Nat) (es : List (Nat × Nat)) =>
    let e := (es.head?).getD (0, 0)
    s.laneTrap u c 0 pend (es.map (·.1)) (addr e.1) e.2 acc
  if !(of_ cXLAT).isEmpty then raise cXLAT (of_ cXLAT)
  else if !(of_ cOWN).isEmpty then raise cOWN (of_ cOWN)
  else
    let who := (List.range 32).filter fun l => poison.contains l || srcBad.contains l
    let low := (who.head?).getD 0
    s.laneTrap u cPOISON 0 pend who (if srcBad.contains low then 0 else addr low) 0 acc

/-- A lane memory word: the checks of the whole instruction, the translations, the waits, and `go` on each element in ascending lane order, which gives
the state, the lines charged, and whether the element is poisoned (R150 to R153). The sources `srcs` of a lane are read in its turn, when the lanes before
it have stored (R153). `after` makes what the pass does as a whole from its targets. -/
def State.memWord (s : State) (opc : Nat) (w : LaneOp) (p : Pass) (srcs : State → Gang → Nat → List (Nat × Bool))
    (go : State → Nat → Gang → List Nat → Nat → Target → State × List Nat × Bool)
    (after : State → Gang → List (Nat × Target) → State) : Host.Outcome State Fault Refusal :=
  s.laneRun opc w fun u g act =>
    let n := accBytes w.ty
    let isG := p.seg = 0
    let off := s.laneOff g w isG
    let addr := fun l => g.reportAddr p.seg (off l)
    let place := fun l => if p.forbid s g (off l) n then Place.bad cSBOUND (addr l) else g.place (s.regsOf g) p.seg (off l) n p.store
    let places := act.map fun l => (l, place l)
    let failing := fun (c : Nat) => (places.filter fun e => match e.2 with
      | .bad d _ => d = c
      | _ => false).map (·.1)
    if !(failing cSBOUND).isEmpty then s.laneCheckTrap u cSBOUND p.acc act (failing cSBOUND) addr
    else if !(failing cALIGN).isEmpty then s.laneCheckTrap u cALIGN p.acc act (failing cALIGN) addr
    else
      let addrBad := act.filter fun l => (s.srcAddr g l isG w.sa).2
      let bad := fun (s : State) (l : Nat) => addrBad.contains l || (srcs s g l).any (·.2)
      -- Poison comes after the faults of the translation, which judges every lane (R88).
      let reached := fun (ts : List (Nat × Target)) => ts.filter fun e => match e.2 with
        | .fault _ => false
        | _ => true
      let sound := fun (ts : List (Nat × Target)) => (reached ts).filter fun e => !bad s e.1
      -- What leaves the buffers is charged as it leaves, whether or not the word waits (R346).
      let s := p.first s u (sound (s.laneTargets g p.need places).2)
      let (t, ts) := s.laneTargets g p.need places
      let ok := sound ts
      let faults := ts.filterMap fun e => match e.2 with
        | .fault k => some (e.1, k)
        | _ => none
      let settle := fun (r : State) => if g.unpaid s.cells then r.keepAccount s (s.asidOf g) else r
      let rs := p.ask.requests n (peerTargets ok)
      let (t, waits) := t.askPeers u g rs
      if waits then
        ((s.defer (settle t) (.lane u (4 * (s.cells.head?).getD 0)) (s.asidOf g)).pinLanes u places ok).laneStall u .other
      else
        let (t, ts) := t.takeAnswers u n p.ask rs (reached ts)
        let t := after (t.chargeCells u wLaneMem (cellsOf act)) g ok
        let done := ts.foldl (fun (x : State × List Nat × List Nat × List Nat) e =>
          if bad x.1 e.1 then (x.1, x.2.1, x.2.2.1, x.2.2.2 ++ [e.1])
          else
            let (t, seen, poison) := go x.1 u g x.2.1 e.1 e.2
            (t, seen, if poison then x.2.2.1 ++ [e.1] else x.2.2.1, x.2.2.2)) (t, [], [], [])
        let poison := done.2.2.1
        let srcBad := done.2.2.2
        let t := settle done.1
        if faults.isEmpty && poison.isEmpty && srcBad.isEmpty then t.laneNext u s.cells
        else t.passTrap u p.acc faults poison srcBad addr

/-- Nothing that the pass does as a whole. -/
def noAfter (s : State) (_ : Gang) (_ : List (Nat × Target)) : State := s

/-! ### Elements -/

/-- The charge of one access to a line of a core's store (R162). -/
def State.chargeStoreLine (s : State) (g : Gang) (seen : List Nat) (space o : Nat) : State × List Nat :=
  s.chargeOnce seen (2 ^ 64 * (space + 1) + o / 128) (s.asidOf g) (s.regOf g) wStore

/-- `n` bytes of an element outside G, and whether one is poisoned. A D offset of a team that has exited names no scratchpad: the spec states no
value there, and the bytes are free (notes/assumptions/41.md). -/
def State.localRead (s : State) (g : Gang) (sg n : Nat) (t : Target) : State × List Byte × Bool :=
  match t with
  | .window w => (s, s.readWindow g w n)
  | .off o =>
    match sg with
    | 1 => (s, s.readScratch g.team o n)
    | 2 => match s.dTeam g o with
      | some (t, o) => (s, s.readScratch t o n)
      | none =>
        let (bs, s) := s.freshBytes n
        (s, bs, false)
    | _ => (s, s.mRead (s.asidOf g) o n)
  | _ => (s, bytesOf n 0, false)

/-- Bytes written to an element outside G (R158, R219, R220). -/
def State.localWrite (s : State) (u : Nat) (g : Gang) (sg : Nat) (bs : List Byte) (t : Target) : State :=
  match t with
  | .window w => s.writeWindow u w bs
  | .off o =>
    match sg with
    | 1 => s.writeScratch u g.team o bs
    | 2 => match s.dTeam g o with
      | some (t, o) => s.writeScratch u t o bs
      | none => s
    | _ =>
      let s' := s.mWrite (s.asidOf g) o bs
      match s.mScratch (s.asidOf g) o with
      | some (t, o) => s'.markFrozen u t o bs.length
      | none => s'
  | _ => s

/-- The key that tells charges of a target's line apart. -/
def Target.place (t : Target) (sg : Nat) : Nat × Nat :=
  match t with
  | .window w => (6, w)
  | .off o => (sg, o)
  | .pa a | .got a _ _ => (0, a)
  | .fault _ => (0, 0)

/-- The bytes of an element and whether one is poisoned, through the copies unless `home` is set, or from a peer's answer. -/
def State.elemRead (s : State) (u l : Nat) (g : Gang) (sg n : Nat) (home : Bool) (seen : List Nat) (t : Target) :
    State × List Nat × List Byte × Bool :=
  match t with
  | .got pa bs bad =>
    let (s, seen) := if home then (s, seen) else s.chargeL1 seen (s.coreOf g) (s.asidOf g) pa
    (s, seen, wcLoad (Tbl.atD g.wcl (l / 4) []) pa bs bad)
  | .pa pa =>
    match s.readPa (.lane u l) g.team (s.coreOf g) (s.asidOf g) pa n home seen with
    | .wait s => (s, seen, bytesOf n 0, false)
    | .bytes s seen bs bad => (s, seen, wcLoad (Tbl.atD g.wcl (l / 4) []) pa bs bad)
  | t =>
    let (s, seen) := s.chargeStoreLine g seen (t.place sg).1 (t.place sg).2
    let (s, bs, bad) := s.localRead g sg n t
    (s, seen, bs, bad)

/-- The data source of a store, at the width of the type (R149). -/
def State.dataSrc (s : State) (w : LaneOp) (g : Gang) (l : Nat) : Nat × Bool := s.srcTy g l w.ty .rne w.imm w.sb

/-- Whether a store would write a line frozen against the gang (R220). -/
def State.frozenAtOff (s : State) (g : Gang) (sg o n : Nat) : Bool :=
  match sg with
  | 1 => o < 0x100000 && s.frozenHit g g.team o n
  | 2 => match s.dTeam g o with
    | some (t, o) => s.frozenHit g t o n
    | none => false
  | 5 => match s.mScratch (s.asidOf g) o with
    | some (t, o) => s.frozenHit g t o n
    | none => false
  | _ => false

def loadPass (sg : Nat) : Pass :=
  { seg := sg, store := false, acc := accLoad, need := .load, forbid := fun _ _ _ _ => false, ask := .lines }
def storePass (sg : Nat) : Pass :=
  { seg := sg, store := true, acc := accStore, need := .store, forbid := fun s g o n => s.frozenAtOff g sg o n, ask := .nothing }

/-- A load word: each lane that performs writes its destination and its latch (R150). -/
def State.loadWord (s : State) (opc : Nat) (w : LaneOp) (p : Pass) (home : Bool) (after : State → Gang → List (Nat × Target) → State) :
    Host.Outcome State Fault Refusal :=
  s.memWord opc w p (fun _ _ _ => []) (fun s u g seen l t =>
    let (s, seen, bs, bad) := s.elemRead u l g p.seg (accBytes w.ty) home seen t
    if bad then (s, seen, true) else (s.putTy u l w.ty w.dst (natOf bs), seen, false)) after

/-! ### Loads and stores -/

/-- LDV (R153). -/
def execLdv (w : LaneOp) (s : State) : Host.Outcome State Fault Refusal := s.loadWord 0xA0 w (loadPass w.fn.toNat) false noAfter

/-- The stores of a pass to other devices' memories: one write for each line, with a later lane's bytes over an earlier one's, after what the lanes' cells
have buffered for the line (R152, R155, R162, R385). -/
def State.sendStores (s : State) (u : Nat) (g : Gang) (peers : List (Nat × Nat)) (data : Nat → List Byte) : State :=
  (distinctBy lineOf (peers.map (·.2))).foldl (fun (s : State) line =>
    let mine := peers.filter fun e => lineOf e.2 = line
    let s := mine.foldl (fun (s : State) e => s.drainLine u (e.1 / 4) line) s
    s.drainToPeer (.lane u (((mine.head?).map (·.1)).getD 0)) g.team (s.coreOf g) (s.asidOf g)
      { line := line, nt := false, bytes := mine.foldl (fun t e => putBytes t (e.2 % 128) (data e.1)) [] }) s

/-- A store word through `put`: each lane stores its data source as it is in its turn (R153). Each lane's access alone clears poison (DESIGN CHOICE,
notes/assumptions/104.md). -/
def State.storeWord (s : State) (opc : Nat) (w : LaneOp) (p : Pass) (after : State → Gang → List (Nat × Target) → State)
    (put : State → Nat → Gang → List Nat → Nat → Nat → List Byte → State × List Nat) : Host.Outcome State Fault Refusal :=
  s.memWord opc w p (fun t g l => [t.dataSrc w g l]) (fun t u g seen l x =>
    let bs := bytesOf (accBytes w.ty) (t.dataSrc w g l).1
    match x with
    | .pa pa => let (t, seen) := put t u g seen l pa bs; (t, seen, false)
    | x =>
      let (t, seen) := t.chargeStoreLine g seen (x.place p.seg).1 (x.place p.seg).2
      (t.localWrite u g p.seg bs x, seen, false)) after

/-- What a pass of STV or STPK through G sends to other devices: nothing where its stores are buffered. -/
def State.storesAway (s : State) (w : LaneOp) (t : State) (g : Gang) (ts : List (Nat × Target)) : State :=
  if (g.seg 0).wc then t else t.sendStores t.cur g (peerTargets ts) fun l => bytesOf (accBytes w.ty) (s.dataSrc w g l).1

/-- STV (R153). -/
def execStv (w : LaneOp) (s : State) : Host.Outcome State Fault Refusal :=
  s.storeWord 0xA1 w (storePass w.fn.toNat) (s.storesAway w) fun t u g seen l pa bs =>
    if isPeer pa && !(g.seg 0).wc then (t, seen) else t.laneStore u l (g.seg 0).wc false pa bs seen

/-- The device addresses among the targets of a pass. -/
def devTargets (ts : List (Nat × Target)) : List Nat :=
  ts.filterMap fun e => match e.2 with
    | .pa a => if isDev a then some a else none
    | _ => none

/-- An element read at the home slice or below without allocation; the packet's charges are made apart (R154). -/
def State.packedRead (s : State) (u l : Nat) (g : Gang) (n : Nat) (t : Target) : State × List Byte × Bool :=
  match t with
  | .pa pa =>
    let (bs, bad) := s.memBytes (s.asidOf g) pa n
    (s, wcLoad (Tbl.atD g.wcl (l / 4) []) pa bs bad)
  | t =>
    let (s, _, bs, bad) := s.elemRead u l g 0 n true [] t
    (s, bs, bad)

/-- LDPK (R154). -/
def execLdpk (w : LaneOp) (s : State) : Host.Outcome State Fault Refusal :=
  s.memWord 0xA2 w (loadPass 0) (fun _ _ _ => []) (fun s u g seen l t =>
    let (s, bs, bad) := s.packedRead u l g (accBytes w.ty) t
    if bad then (s, seen, true) else (s.putTy u l w.ty w.dst (natOf bs), seen, false))
    fun s g ts => s.gatherCharge (s.asidOf g) (accBytes w.ty) (devTargets ts) false

/-- STPK (R154): through the cell's buffers when G has WC. -/
def execStpk (w : LaneOp) (s : State) : Host.Outcome State Fault Refusal :=
  s.storeWord 0xA3 w (storePass 0)
    (fun t g ts =>
      let t := s.storesAway w t g ts
      if (g.seg 0).wc then t else t.gatherCharge (t.asidOf g) (accBytes w.ty) (devTargets ts) true)
    fun t u g seen l pa bs =>
      if isPeer pa && !(g.seg 0).wc then (t, seen)
      else if (g.seg 0).wc || !isDev pa then t.laneStore u l (g.seg 0).wc false pa bs seen
      else
        let t := t.drainLine u (l / 4) (lineOf pa)
        ((t.updateCopies (t.coreOf g) (t.asidOf g) pa bs).putFor (t.asidOf g) pa bs, seen)

/-- STNT (R156). -/
def execStnt (w : LaneOp) (s : State) : Host.Outcome State Fault Refusal :=
  s.storeWord 0xA4 w (storePass 0) noAfter fun t u _ seen l pa bs => t.laneStore u l true true pa bs seen

/-- A page that PREF may walk for: a translation is cached, or its tables map it (R157: a page that is not resident starts no walk). -/
def State.prefPage (s : State) (core asid : Nat) (p : Place) : Bool :=
  match p with
  | .va va =>
    ((s.tlbEntries (.core core)).any fun e => e.covers asid va) ||
      match s.peek asid va with
      | .unmapped _ _ _ => false
      | _ => true
  | _ => true

/-- PREF (R157): a lane that would raise a cause is dropped. A register that is poisoned drops its lane as well (notes/assumptions/33.md). -/
def execPref (w : LaneOp) (s : State) : Host.Outcome State Fault Refusal :=
  s.laneRun 0xAC w fun u g act =>
    let n := accBytes w.ty
    let sg := w.fn.toNat
    let core := s.coreOf g
    let asid := s.asidOf g
    let good := act.filter fun l => !(s.srcAddr g l (sg = 0) w.sa).2
    let places := good.map fun l => (l, g.place (s.regsOf g) sg (s.laneOff g w (sg = 0) l) n false)
    let (t, ts) := (s.chargeCells u wLaneMem (cellsOf act)).laneTargets g .load (places.filter fun e => s.prefPage core asid e.2)
    let t := (ts.foldl (fun (x : State × List Nat) e =>
      match e.2 with
      | .pa pa =>
        if isDev pa && !poisoned s.memBad pa n then
          let (t, seen, _) := x.1.coreRead core asid pa n x.2
          (t, seen)
        else x
      | _ => x) (t, [])).1
    t.laneNext u s.cells

/-- LDMAP (R158). -/
def execLdmap (w : LaneOp) (s : State) : Host.Outcome State Fault Refusal := s.loadWord 0xAD w (loadPass 5) false noAfter

/-- STMAP (R158): SBOUND for a lane that names a read-only place or a frozen line. -/
def execStmap (w : LaneOp) (s : State) : Host.Outcome State Fault Refusal :=
  s.storeWord 0xAE w
    { storePass 5 with forbid := fun s g o n => o + n ≤ (g.seg 5).limit && (s.mReadOnly (s.asidOf g) o || s.frozenAtOff g 5 o n) }
    noAfter fun t _ _ seen _ _ _ => (t, seen)

/-! ### Atomics (R159, R160) -/

/-- The update of an atomic of FN[2:0] `op` (R159, R160). -/
def atomNew (t : Ty) (op old b c : Nat) : Nat :=
  if op = 6 then b
  else if op = 7 then (if old = b then c else old)
  else (combine t op .rne false old b).bits

/-- OP of an atomic or contribution packet (R385; notes/assumptions/34.md). -/
def opByte (op : Nat) (t : Ty) : BitVec 8 := BitVec.ofNat 8 (op % 8 + 16 * t.code)

/-- What a cell has buffered for a peer's line leaves before its atomic to that line does (R152, R155). -/
def State.drainForAtoms (s : State) (u : Nat) (ts : List (Nat × Target)) : State :=
  ts.foldl (fun (s : State) e =>
    match e.2 with
    | .pa pa => if isPeer pa then s.drainLine u (e.1 / 4) (lineOf pa) else s
    | _ => s) s

/-- ATOM and ATOMN (R159): the old value goes to the destination when `ret` is set. A lane's operands are read in its turn (R153). -/
def State.atomWord (s : State) (opc : Nat) (w : LaneOp) (ret : Bool) : Host.Outcome State Fault Refusal :=
  let sg := w.fn.toNat / 8
  let op := w.fn.toNat % 8
  let n := accBytes w.ty
  let b := fun (t : State) (g : Gang) l => t.srcTy g l w.ty .rne w.imm w.sb
  let c := fun (t : State) (g : Gang) l => if op = 7 then t.srcTy g l w.ty .rne w.imm w.sc else (0, false)
  let g0 := s.gang s.cur
  let ask := fun (l pa : Nat) =>
    { peerPacket 3 pa with value := BitVec.ofNat 64 (b s g0 l).1, cval := BitVec.ofNat 64 (c s g0 l).1, op := opByte op w.ty }
  s.memWord opc w { storePass sg with acc := accAtomic, need := .atomic, ask := .each ask, first := State.drainForAtoms }
    (fun t g l => [b t g l, c t g l])
    (fun t u g seen l x =>
      let fin := fun (t : State) (seen : List Nat) (old : Nat) =>
        (if ret then t.putTy u l w.ty w.dst old else t, seen, false)
      let new := fun (old : Nat) => bytesOf n (atomNew w.ty op old (b t g l).1 (c t g l).1)
      match x with
      | .got pa bs bad =>
        let (t, seen, bs, bad) := t.elemRead u l g 0 n true seen (.got pa bs bad)
        if bad then (t, seen, true) else fin t seen (natOf bs)
      | .pa pa =>
        let (t, seen, bs, bad) := (t.drainLine u (l / 4) (lineOf pa)).homeRead (t.asidOf g) pa n seen
        if bad then (t, seen, true)
        else
          let (t, seen) := t.homeWrite (t.coreOf g) (t.asidOf g) pa (new (natOf bs)) seen
          fin t seen (natOf bs)
      | x =>
        let (t, seen) := t.chargeStoreLine g seen (x.place sg).1 (x.place sg).2
        let (t, bs, bad) := t.localRead g sg n x
        if bad then (t, seen, true) else fin (t.localWrite u g sg (new (natOf bs)) x) seen (natOf bs)) noAfter

/-- ATOM (R159). -/
def execAtom (w : LaneOp) (s : State) : Host.Outcome State Fault Refusal := s.atomWord 0xA5 w true
/-- ATOMN (R159). -/
def execAtomn (w : LaneOp) (s : State) : Host.Outcome State Fault Refusal := s.atomWord 0xA6 w false

/-- The contribution key of a lane (R391). -/
def State.contribKey (s : State) (g : Gang) (l : Nat) : Nat :=
  s.swarm.self % 4096 * 2 ^ 18 + s.regOf g % 64 * 2 ^ 12 + s.coreOf g % 8 * 2 ^ 9 + g.slot % 16 * 2 ^ 5 + l % 32

/-- A contribution sent (R161, R385, R390): dropped at egress unless its group is set up here under the partition's FPID; it goes to the group's
root (notes/assumptions/35.md). -/
def State.contribute (s : State) (u l : Nat) (g : Gang) (w : LaneOp) (pa v : Nat) : State :=
  let o := pa % 2 ^ 39
  let p := s.part (s.ctxOf g).part
  let group := Tbl.at? s.groups (o / 2 ^ 27)
  let known := group.any fun d => d.desc.part = p.fpid && p.fpid ≠ 0
  let x : Packet :=
    { ptype := 5, part := 0, cw := 0, src := 0, dst := (group.map fun d => d.desc.root).getD 0, addr := o, value := BitVec.ofNat 64 v, cval := 0,
      key := BitVec.ofNat 32 (s.contribKey g l), op := opByte w.fn.toNat w.ty, mask := 0, data := [], bad := 0 }
  let s := if known then s.sendPacket (s.asidOf g) (s.regOf g) x else { s with violations := s.violations + 1 }
  { s with
    uid := s.uid + 1
    requests := s.requests ++
      [{ tag := s.uid, ptype := 5, who := .lane u l, team := g.team, asid := s.asidOf g, addr := pa, n := accBytes w.ty,
         key := s.contribKey g l, sent := s.now, depth := g.depth, answer := none }] }

/-- REDMC (R161). -/
def execRedmc (w : LaneOp) (s : State) : Host.Outcome State Fault Refusal :=
  s.memWord 0xA7 w { storePass 0 with acc := accAtomic, need := .redmc } (fun t g l => [t.dataSrc w g l])
    (fun t u g seen l x => match x with
      | .pa pa => (t.contribute u l g w pa (s.dataSrc w g l).1, seen, false)
      | _ => (t, seen, false)) noAfter

/-! ### Row slots (R165) -/

/-- A lane's slot and its place in the row. -/
def rowSlotOf (o : Nat) : Nat := o / 1024

/-- A word on row slots: SBOUND for a FREE slot, a wait while one is OPENING (R165). -/
def State.rowWordRun (s : State) (opc : Nat) (w : LaneOp) (p : Pass) (srcs : State → Gang → Nat → List (Nat × Bool))
    (held : State → Nat → Gang → List Nat → Nat → Nat → State × List Nat × Bool) (lost : State → Nat → Nat → State) :
    Host.Outcome State Fault Refusal :=
  let slot := fun (g : Gang) (o : Nat) => (s.team g.team).row (rowSlotOf o)
  let g0 := s.gang s.cur
  let waits := (g0.active s.cells w).any fun l => (slot g0 (s.laneOff g0 w false l)).st = .opening
  let run := s.memWord opc w { p with seg := 4, forbid := fun _ g o n => o + n ≤ (g.seg 4).limit && (slot g o).st = .free } srcs
    (fun t u g seen l x => match x with
      | .off o =>
        if (slot g o).st = .held then
          let pa := 1024 * (slot g o).row + o % 1024
          let t := match t.heldFor (t.asidOf g) pa with
            | some _ => t
            | none => t.openFor (t.asidOf g) g.team (rowSlotOf o) (rowOf pa) (BitVec.ofNat 8 (2 ^ rowSegOf pa))
          let (t, seen) := t.chargeOnce seen (4 * (pa / 64) + 1) (t.asidOf g) (stackIsland (stackOf pa)) wHbm
          held t u g seen l pa
        else ((lost t u l).raise u fROWLOST, seen, false)
      | _ => (t, seen, false)) noAfter
  -- A word that waits for a slot performs nothing; one that traps does so first.
  if waits && laneOk opc w && laneFits opc w (s.regsOf g0) then
    match Tbl.at? s.gangs s.cur with
    | some g =>
      let off := s.laneOff g w false
      let n := accBytes w.ty
      let act := g.active s.cells w
      let traps := fun l => (slot g (off l)).st = .free ||
        match g.place (s.regsOf g) 4 (off l) n p.store with
        | .bad _ _ => true
        | _ => false
      if act.any traps then run else .next (s.laneStall s.cur .other)
    | none => run
  else run

/-- ROWLD (R165). -/
def execRowld (w : LaneOp) (s : State) : Host.Outcome State Fault Refusal :=
  let n := accBytes w.ty
  s.rowWordRun 0xA8 w (loadPass 4) (fun _ _ _ => [])
    (fun t u g seen l pa =>
      let got := t.memBytes (t.asidOf g) pa n
      let (bs, bad) := wcLoad (Tbl.atD g.wcl (l / 4) []) pa got.1 got.2
      if bad then (t, seen, true) else (t.putTy u l w.ty w.dst (natOf bs), seen, false))
    fun t u l => t.putTy u l w.ty w.dst 0

/-- ROWST (R165). -/
def execRowst (w : LaneOp) (s : State) : Host.Outcome State Fault Refusal :=
  s.rowWordRun 0xA9 w (storePass 4) (fun t g l => [t.dataSrc w g l])
    (fun t u g seen l pa =>
      let bs := bytesOf (accBytes w.ty) (s.dataSrc w g l).1
      let t := (t.drainLine u (l / 4) (lineOf pa)).dirtyRow (rowOf pa) (rowSegOf pa)
      ((t.updateCopies (t.coreOf g) (t.asidOf g) pa bs).putFor (t.asidOf g) pa bs, seen, false))
    fun t _ _ => t

/-! ### VFENCE -/

/-- VFENCE (R170, R250): the cells' buffers drain, from domain scope outward the writes of the context have been acknowledged, and every range is acquired. -/
def execVfence (w : LaneOp) (s : State) : Host.Outcome State Fault Refusal :=
  s.laneRun 0xAF w fun u _ act =>
    let cells := cellsOf act
    let sc := w.fn.toNat
    let t := cells.foldl (fun (t : State) c => t.drainCell u c) s
    if cells.isEmpty then s.laneNext u s.cells
    else if 4 ≤ sc && t.ctxWritesOut (t.asidOf (t.gang u)) then t.laneStall u .other
    else ((t.chargeCells u wLaneMem cells).acquireAll u sc).laneNext u s.cells

end Sys2Proof.Machine
end

