-- ==== Sys2Proof/Machine/Copies.lean ====
section
/-!
DEFINITION. The copy engines (R180 to R186, R208, R336), and the faults of engine work (R183, R300).
-/

namespace Sys2Proof.Machine

/-! ### Which work runs -/

/-- Whether a team's engine work may run on: the team is on its core and not killed, no swap saves it, and in a save some gang of it is not saved yet (R209, R332). -/
def State.enginesRun (s : State) (t : Nat) : Bool :=
  let c := s.clusterOfTeam t
  s.teamOnCore t && c.executes && !(c.beingSaved && s.gangsSaved t) && !(s.team t).dying

/-- A team's place in a region's rotation: by core number, then in the order of placement (R336). -/
def State.rotKey (s : State) (t : Nat) : Nat := (s.team t).core * 2 ^ 64 + (s.team t).placed

/-- The teams of a region whose work may run, from the one after `last` on. -/
def State.rotation (s : State) (r last : Nat) : List Nat :=
  let l := sortBy (fun a b => s.rotKey a ≤ s.rotKey b)
    (Tbl.keysOf s.teams fun t => regionOfCore t.core = r) |>.filter s.enginesRun
  l.filter (fun t => last < s.rotKey t) ++ l.filter fun t => s.rotKey t ≤ last

def State.modCopy (s : State) (t q : Nat) (f : Copy → Copy) : State :=
  s.modTeam t fun x => { x with copies := x.copies.map fun (k : Copy) => if k.seq = q then f k else k }

/-- The command that engine `e` of a region runs. -/
def State.copyOn (s : State) (r e : Nat) : Option (Nat × Copy) :=
  (Tbl.keysOf s.teams fun t => regionOfCore t.core = r).findSome? fun t =>
    ((s.team t).copies.find? fun (k : Copy) => k.engine = some e).map fun k => (t, k)

/-- The next command for a free copy engine: of the next team in rotation, the command accepted first (R180). -/
def State.nextCopyFor (s : State) (r : Nat) : Option (Nat × Copy) :=
  (s.rotation r (s.region r).rotCopy).findSome? fun t =>
    ((s.team t).copies.find? fun (k : Copy) => k.engine.isNone && k.fault.isNone).map fun k => (t, k)

/-! ### Engine translation and faults -/

/-- A translation for an engine through the region's walk-ahead TLB; a first touch is mapped as MAPF maps it (R183, R295, R300). -/
def State.engineXl (s : State) (who : Asker) (r asid va : Nat) (acc : Acc) : State × Xl :=
  match s.translateFor who (.region r) asid va acc with
  | (s, .bad 1) =>
    match s.mapFirst asid va with
    | (0, s) => (s.charge asid r (wScalar + zeroCharge)).translate (.region r) asid va acc
    | (_, s) => (s, .bad 1)
  | x => x

/-- Pages that work to come will touch, translated ahead of it: a walk that meets a fault ends silently (R295). -/
def State.walkAhead (s : State) (r asid : Nat) (acc : Acc) (vas : List Nat) : State :=
  vas.foldl (fun (s : State) va => (s.translate (.region r) asid va acc).1) s

/-- What a chunk or step that faults has asked for is dropped: it starts again from its beginning (R183). -/
def State.dropAsks (s : State) (who : Asker) : State :=
  { s with requests := s.requests.filter fun r => !(r.who = who && r.ptype = 0), pins := s.pins.filter fun x => x.who ≠ who }

/-- The fault of a chunk or step: it waits for the reply to its slot, and first for a slot when none is free (R183, R300, R301). -/
def State.engineFault (s : State) (t gidx : Nat) (owner : SlotOwner) (origin fk acc va : Nat) : State :=
  let s := match owner with
    | .copy t q => s.dropAsks (.copy t q)
    | .task t q => s.dropAsks (.task t q)
    | _ => s
  let info : FaultInfo :=
    { origin := origin, cause := fkCause fk, fkind := fk, acc := acc, va := va, lanes := 0, cluster := (s.clusterOfTeam t).idx,
      gang := gidx, team := (s.team t).idx, tspc := 0 }
  let a := s.asidOfTeam t
  match s.takeSlot a owner info with
  | some (n, s) => s.workFault owner (some n)
  | none => (s.modCtx a fun c => { c with waiting := c.waiting ++ [(owner, info)] }).workFault owner (some 1024)

/-! ### Pieces of a chunk -/

/-- A range cut at multiples of `unit`. -/
def cutsOf (unit a n : Nat) : List (Nat × Nat) :=
  if n = 0 then []
  else
    (List.range ((a + n - 1) / unit - a / unit + 1)).map fun i =>
      let lo := (a / unit + i) * unit
      let x := if lo < a then a else lo
      let y := if a + n < lo + unit then a + n else lo + unit
      (x, y - x)

/-- A piece of a chunk: its offset in the chunk, where it lies, and its length. -/
structure Piece where
  at_ : Nat
  place : Target
  len : Nat
  deriving DecidableEq, Repr

/-- A destination byte in a live shadowed range lies in its twin (R186). -/
def Ctx.redirect (c : Ctx) (va : Nat) : Nat :=
  match c.shadows.find? fun x => x.base ≤ va && va < x.base + x.len with
  | some x => va - x.base + x.twin
  | none => va

/-- The pieces of `n` bytes at `a` of segment `sg`, translated, with the first fault. -/
def State.copyPieces (s : State) (who : Asker) (r asid sg a n : Nat) (dst : Bool) : State × List Piece × Option (Nat × Nat) :=
  if sg = 0 || sg = 3 then
    (cutsOf 128 a n).foldl (fun (x : State × List Piece × Option (Nat × Nat)) p =>
      match x.2.2 with
      | some _ => x
      | none =>
        let va := if dst then (s.ctx asid).redirect p.1 else p.1
        match x.1.engineXl who r asid va (if dst then .store else .load) with
        | (s, .ok pa _ _) => (s, x.2.1 ++ [{ at_ := p.1 - a, place := .pa pa, len := p.2 }], none)
        | (s, .bad k) => (s, x.2.1, some (k, va))) (s, [], none)
  else
    let unit := if sg = 5 then 8 else 128
    (s, (cutsOf unit a n).map fun p =>
      { at_ := p.1 - a, place := if sg = 1 && 0x100000 ≤ p.1 then .window (p.1 - 0x100000) else .off p.1, len := p.2 }, none)

/-- The gang whose segments a command names; where it has retired, its team still names the scratchpads. -/
def State.copyGang (s : State) (t u : Nat) : Gang := (Tbl.at? s.gangs u).getD { Gang.blank with team := t }

/-- The charge of a line of a core's store that a chunk reaches (R208). -/
def State.copyStoreLine (s : State) (r asid : Nat) (seen : List Nat) (p : Piece) (sg : Nat) : State × List Nat :=
  let (a, b) := p.place.place sg
  s.chargeOnce seen (2 ^ 64 * (a + 1) + b / 128) asid r wStore

/-- A piece read: the bytes, and whether one is poisoned. A window of a gang that has retired holds nothing the spec names: the bytes are free. -/
def State.readPiece (s : State) (who : Asker) (t u r asid sg : Nat) (seen : List Nat) (p : Piece) :
    State × List Nat × List Byte × Bool :=
  match p.place with
  | .pa pa =>
    if isPeer pa then
      match s.peerRead who t asid r pa p.len seen with
      | .wait s => (s, seen, bytesOf p.len 0, false)
      | .bytes s seen bs bad => (s, seen, bs, bad)
    else s.homeRead asid pa p.len seen
  | .window w =>
    let (s, seen) := s.copyStoreLine r asid seen p sg
    match Tbl.at? s.gangs u with
    | some g =>
      let (bs, bad) := s.readWindow g w p.len
      (s, seen, bs, bad)
    | none =>
      let (bs, s) := s.freshBytes p.len
      (s, seen, bs, false)
  | x =>
    let (s, seen) := s.copyStoreLine r asid seen p sg
    let (s, bs, bad) := s.localRead (s.copyGang t u) sg p.len x
    (s, seen, bs, bad)

/-- A line of device memory marked poisoned, and a row of a core's store (R183, R288). -/
def State.poisonLine (s : State) (pa : Nat) : State := { s with memBad := addPoison s.memBad (lineOf pa * 128) 128 }
def State.poisonRow (s : State) (a : Nat) : State := { s with storeBad := addPoison s.storeBad (a / 128 * 128) 128 }

/-- The registers of a window marked poisoned. -/
def State.poisonRegs (s : State) (g : Gang) (w n : Nat) : State :=
  let a := coreBase (s.coreOf g) + g.wbase * 128 + w
  { s with storeBad := addPoison s.storeBad (a / 4 * 4) (ceilDiv (a % 4 + n) 4 * 4) }

/-- The row of a core's store that an offset of S, D or M names, if it names one a copy may write. -/
def State.rowAt (s : State) (g : Gang) (sg o : Nat) : Option Nat :=
  match sg with
  | 1 => some (s.scratchAddr g.team o)
  | 2 => (s.dTeam g o).map fun e => s.scratchAddr e.1 e.2
  | _ =>
    match s.mPlace (s.asidOf g) o with
    | some (core, w) => if w < 0x100000 && s.rowOwned (s.asidOf g) core (w / 128) then some (coreBase core + w) else none
    | none => none

/-- A destination piece marked poisoned: its line, its row, or the registers it covers (R183). -/
def State.poisonPiece (s : State) (t u sg : Nat) (p : Piece) : State :=
  match p.place with
  | .pa pa => if isPeer pa then s else s.poisonLine pa
  | .window w =>
    match Tbl.at? s.gangs u with
    | some g => s.poisonRegs g w p.len
    | none => s
  | .off o =>
    match s.rowAt (s.copyGang t u) sg o with
    | some a => s.poisonRow a
    | none =>
      if sg = 5 then
        match s.mPlace (s.asidOfTeam t) o with
        | some (core, w) =>
          match (if 0x200000 ≤ w && w < 0x280000 then s.gangInSlot (s.asidOfTeam t) core ((w - 0x200000) / 0x8000) else none) with
          | some v => if w % 0x8000 / 128 < s.regsOf (s.gang v) then s.poisonRegs (s.gang v) (w % 0x8000) p.len else s
          | none => s
        | none => s
      else s
  | .fault _ | .got _ _ _ => s

/-- A piece written at the point of its destination; no copy in L1 or in a near slice is brought up to date (R255). -/
def State.writePiece (s : State) (who : Asker) (t u r asid sg : Nat) (seen : List Nat) (p : Piece) (bs : List Byte) :
    State × List Nat :=
  match p.place with
  | .pa pa =>
    if isPeer pa then (s.peerWrite who t asid r pa bs, seen)
    else if !isDev pa then (s.putMem pa bs, seen)
    else
      let (s, seen) := s.touchHome asid pa true seen
      (s.putFor asid pa bs, seen)
  | .window w =>
    let (s, seen) := s.copyStoreLine r asid seen p sg
    match Tbl.at? s.gangs u with
    | some _ => (s.writeWindow u w bs, seen)
    | none => (s, seen)
  | x =>
    let (s, seen) := s.copyStoreLine r asid seen p sg
    (s.localWrite u (s.copyGang t u) sg bs x, seen)

/-! ### A chunk -/

/-- Bytes of the chunk in hand. -/
def Copy.chunkLen (k : Copy) : Nat := if k.count < (k.prog + 1) * 65536 then k.count - k.prog * 65536 else 65536

/-- The type and the operation of a reduction code (R79, R178). -/
def bredOp (op : Nat) : Ty × Nat :=
  match op with
  | 0 => (.f32, 0) | 1 => (.bf16, 0) | 2 => (.i32, 0) | 3 => (.i64, 0) | 4 => (.f32, 1)
  | 5 => (.f32, 2) | 6 => (.i32, 1) | 7 => (.i32, 2) | 8 => (.i64, 1) | _ => (.i64, 2)

/-- Whether bytes `o` to `o + n` of a chunk have a poisoned byte. -/
def hitsBad (bad : List (Nat × Nat)) (o n : Nat) : Bool := bad.any fun b => overlap o n b.1 b.2

/-- The parts of pieces that make up bytes `o` to `o + n` of a chunk. -/
def partsOf (ps : List Piece) (o n : Nat) : List Piece :=
  ps.filterMap fun p =>
    if overlap p.at_ p.len o n then
      let lo := if p.at_ < o then o else p.at_
      let hi := if p.at_ + p.len < o + n then p.at_ + p.len else o + n
      let d := lo - p.at_
      let place := match p.place with
        | .pa a => .pa (a + d)
        | .off a => .off (a + d)
        | .window a => .window (a + d)
        | x => x
      some { at_ := lo, place := place, len := hi - lo }
    else none

/-- One element of a reduction (R184): read at its point, combined and written back. A poisoned element, at the source or the destination, leaves the
destination's line poisoned. -/
def State.bredElem (s : State) (who : Asker) (t u r asid sg op : Nat) (ps : List Piece) (data : List Byte) (bad : List (Nat × Nat))
    (x : List Nat × Bool) (o : Nat) : State × List Nat × Bool :=
  let e := bredSize op
  let (ty, code) := bredOp op
  let src := numAt data o e
  let parts := partsOf ps o e
  let peer := parts.find? fun p => match p.place with
    | .pa a => isPeer a
    | _ => false
  match peer with
  | some { place := .pa pa, .. } =>
    if hitsBad bad o e then (s.peerPoison who t asid r pa e, x.1, true)
    else
      (s.request who t asid r { peerPacket 3 pa with value := BitVec.ofNat 64 src, op := opByte code ty } pa e, x.1, x.2)
  | _ =>
    let (s, seen, old, oldBad) := parts.foldl (fun (y : State × List Nat × List Byte × Bool) p =>
      let (s, seen, bs, b) := y.1.readPiece who t u r asid sg y.2.1 p
      (s, seen, y.2.2.1 ++ bs, y.2.2.2 || b)) (s, x.1, [], false)
    if oldBad || hitsBad bad o e then
      (parts.foldl (fun (s : State) p => s.poisonPiece t u sg p) s, seen, true)
    else
      let new := bytesOf e (combine ty code .rne false (natOf old) src).bits
      let (s, seen) := parts.foldl (fun (y : State × List Nat) p =>
        match p.place with
        | .pa pa =>
          -- 150 eu more for each home-slice line updated (R208).
          let (s, seen) :=
            if isDev pa then y.1.chargeOnce y.2 (2 ^ 80 + lineOf pa) asid (homeOf pa) wHome else (y.1, y.2)
          s.writePiece who t u r asid sg seen p ((new.drop (p.at_ - o)).take p.len)
        | _ => y.1.writePiece who t u r asid sg y.2 p ((new.drop (p.at_ - o)).take p.len)) (s, seen)
      (s, seen, x.2)

/-- The bytes of a chunk written to its destination; the flag tells whether the chunk met poison (R182 to R184). -/
def State.writeChunk (s : State) (t r : Nat) (k : Copy) (seen : List Nat) (ps : List Piece) (data : List Byte)
    (bad : List (Nat × Nat)) : State × Bool :=
  let asid := s.asidOfTeam t
  let who : Asker := .copy t k.seq
  match k.op with
  | none =>
    let (s, _) := ps.foldl (fun (x : State × List Nat) p =>
      let hit := hitsBad bad p.at_ p.len
      match p.place with
      | .pa pa =>
        if hit && isPeer pa then (x.1.peerPoison who t asid r pa p.len, x.2)
        else
          let (s, seen) := x.1.writePiece who t k.gang r asid k.dseg x.2 p ((data.drop p.at_).take p.len)
          (if hit then s.poisonPiece t k.gang k.dseg p else s, seen)
      | _ =>
        let (s, seen) := x.1.writePiece who t k.gang r asid k.dseg x.2 p ((data.drop p.at_).take p.len)
        (if hit then s.poisonPiece t k.gang k.dseg p else s, seen)) (s, seen)
    (s, !bad.isEmpty)
  | some op =>
    let e := bredSize op.toNat
    let (s, _, b) := ((List.range (data.length / e)).map (· * e)).foldl (fun (x : State × List Nat × Bool) o =>
      x.1.bredElem who t k.gang r asid k.dseg op.toNat ps data bad x.2 o) (s, seen, !bad.isEmpty)
    (s, b)

/-- Whether a command still waits for a peer's acknowledgement. -/
def State.copyOut (s : State) (t q : Nat) : Bool :=
  s.requests.any fun r => r.who = .copy t q && (r.ptype = 1 || r.ptype = 3)

/-- The virtual ranges a command writes: its destination, and the twins of shadowed ranges it touches (R186). -/
def State.copyDests (s : State) (t : Nat) (k : Copy) : List (Nat × Nat) :=
  if k.dseg = 0 then
    (k.dst, k.count) ::
      ((s.ctx (s.asidOfTeam t)).shadows.filter fun x => overlap k.dst k.count x.base x.len).map fun x => (x.twin, x.len)
  else []

/-- The end of a chunk (R182): PROGRESS and the tag follow once its writes have been performed. -/
def State.endChunk (s : State) (t : Nat) (k : Copy) (err : Bool) : State :=
  if s.copyOut t k.seq then s.modCopy t k.seq fun k => { k with landing := some err }
  else
    let n := k.chunkLen
    let last := k.count ≤ (k.prog + 1) * 65536
    let dests := s.copyDests t k
    let s :=
      if last then s.modTeam t fun x => { x with copies := x.copies.filter fun (j : Copy) => j.seq ≠ k.seq }
      else s.modCopy t k.seq fun k => { k with prog := k.prog + 1, landing := none }
    s.tagSub t k.tag n err dests

/-- The pages of a command's next chunk translated ahead (R295). -/
def State.copyAhead (s : State) (r t : Nat) (k : Copy) : State :=
  let asid := s.asidOfTeam t
  let o := (k.prog + 1) * 65536
  let n := { k with prog := k.prog + 1 }.chunkLen
  let ahead := fun (s : State) (sg a : Nat) (dst : Bool) =>
    if sg = 0 || sg = 3 then
      s.walkAhead r asid (if dst then .store else .load) ((pagesOf (a + o) n).map fun p => if dst then (s.ctx asid).redirect p else p)
    else s
  if k.count ≤ o then s else ahead (ahead s k.sseg k.src false) k.dseg k.dst true

/-- The chunk in hand of a command: every address is translated and every source byte read before the first write (R182, R183). -/
def State.runChunk (s : State) (t r : Nat) (k : Copy) : State :=
  let asid := s.asidOfTeam t
  let o := k.prog * 65536
  let n := k.chunkLen
  let who : Asker := .copy t k.seq
  let stop := fun (s : State) (e : Nat × Nat) (acc : Nat) => s.engineFault t k.gidx (.copy t k.seq) 2 e.1 acc e.2
  match s.copyPieces who r asid k.sseg (k.src + o) n false with
  | (s, _, some e) => stop s e 4
  | (s, sp, none) =>
    match s.copyPieces who r asid k.dseg (k.dst + o) n true with
    | (s, _, some e) => stop s e 5
    | (s, dp, none) =>
      let peers := sp.filterMap fun p => match p.place with
        | .pa a => some (k.src + o + p.at_, a, p.len)
        | _ => none
      match s.askRange who t asid r peers with
      | (s, true) => s
      | (s, false) =>
        let got := sp.foldl (fun (x : State × List Nat × List Byte × List (Nat × Nat)) p =>
          let (s, seen, bs, bad) := x.1.readPiece who t k.gang r asid k.sseg x.2.1 p
          (s, seen, x.2.2.1 ++ bs, if bad then x.2.2.2 ++ [(p.at_, p.len)] else x.2.2.2)) (s, [], [], [])
        let s := got.1.charge asid r (wCopy * ceilDiv n 64)
        let (s, err) := s.writeChunk t r k got.2.1 dp got.2.2.1 got.2.2.2
        (s.copyAhead r t k).endChunk t k err

/-- A chunk run, or ended once its writes have been acknowledged; what it is charged lands with its end (R346). -/
def State.workChunk (s : State) (t r : Nat) (k : Copy) : State :=
  let s' := match k.landing with
    | some err => s.endChunk t k err
    | none => s.runChunk t r k
  let going := (s'.team t).copies.any fun (j : Copy) => j.seq = k.seq && j.prog = k.prog
  if going then s.defer s' (.copy t k.seq) (s.asidOfTeam t) else s'.finish (· = .copy t k.seq)

/-- COPY_CHUNK: engine `e` of region `r` runs the next chunk of its command, or takes a command (R180, R182). -/
def execCopyChunk (r e : Nat) (s : State) : Host.Outcome State Fault Refusal :=
  if s.stopped || 2 ≤ e then .next s
  else match s.copyOn r e with
    | some (t, k) =>
      if k.fault.isSome || !(s.enginesRun t || s.chunkBusy t k) then .next s else .next ((s.workChunk t r k).workEnded t)
    | none =>
      match s.nextCopyFor r with
      | none => .next s
      | some (t, k) =>
        let s := s.modRegion r fun x => { x with rotCopy := s.rotKey t }
        .next ((s.modCopy t k.seq fun k => { k with engine := some e }).workChunk t r { k with engine := some e })

end Sys2Proof.Machine
end

