-- ==== Sys2Proof/Machine/Errors.lean ====
section
/-!
DEFINITION. Errors of the arrays, refresh and scrub (R281, R286 to R289, R362, R363).
-/

namespace Sys2Proof.Machine

/-! ### Where an error lies -/

/-- The core a gang, or a team, is placed on. -/
def State.regionOfTeam (s : State) (t : Nat) : Nat := regionOfCore (s.team t).core

/-- The region island of a site; none for a stack, or for a structure of no island. -/
def State.siteRegion (s : State) (x : ErrSite) : Option Nat :=
  match x with
  | .l1 c _ | .scratch c _ | .reg c _ | .acc c _ | .directory _ c => some (regionOfCore c)
  | .near r _ => some r
  | .home l => some (homeOf (128 * l))
  | .latch g _ | .operand g _ _ | .laneQueue g => some (s.regOf (s.gang g))
  | .tag t _ | .barrier t => some (s.regionOfTeam t)
  | .victim _ | .held _ | .dram _ | .rowHold _ _ | .faultSlot _ _ => none

/-- Whether the controller of the trim counts the errors of a site: store, L2 slice and accumulator store (R362). -/
def siteTrims (x : ErrSite) : Bool :=
  match x with
  | .l1 _ _ | .near _ _ | .home _ | .scratch _ _ | .reg _ _ | .acc _ _ => true
  | _ => false

/-- The stack of a site in a base die. -/
def State.siteStack (s : State) (x : ErrSite) : Option Nat :=
  match x with
  | .victim l | .held l | .dram l => some (stackOf (128 * l))
  | .rowHold t n => some (stackOf (1024 * ((s.team t).row n).row))
  | _ => none

/-- The number under which the error rate of a site is kept: a region, 48 + a stack, or 60 for what lies in neither. -/
def State.siteKey (s : State) (x : ErrSite) : Nat :=
  match s.siteRegion x, s.siteStack x with
  | some r, _ => r
  | none, some k => 48 + k
  | none, none => 60

/-- CORRECTABLE_ERROR: corrected, and counted (R287). -/
def execCorrectableError (x : ErrSite) (s : State) : Host.Outcome State Fault Refusal :=
  let k := s.siteKey x
  let s : State := { s with errRate := Tbl.put s.errRate k (Tbl.atD s.errRate k 0 + 1) }
  .next (if siteTrims x then s.modRegion k fun r => { r with errs := r.errs + 1 } else s)

/-! ### Uncorrectable errors -/

/-- The owning team is killed, with a notice of cause POISON that names the structure's address, which the spec does not give (R288). -/
def State.structureKill (s : State) (t : Nat) : State :=
  match Tbl.at? s.teams t with
  | some _ =>
    let (a, s) := s.fresh
    (s.teamNotice t cPOISON a.toNat 0).killTeam t
  | none => s

/-- What an uncorrectable error does where it lies (R288). Of the teams that share a row-hold entry the one named is killed (DESIGN CHOICE,
notes/assumptions/133.md). -/
def State.markError (s : State) (x : ErrSite) : State :=
  match x with
  | .l1 c l => s.dropL1 c (· = l)
  | .near r l => s.dropNear r (· = l)
  | .home l => if (Tbl.at? s.home l).isSome then s.poisonLine (128 * l) else s
  | .victim l => if (Tbl.at? s.victim l).isSome then s.poisonLine (128 * l) else s
  | .held l => if (s.heldAt (128 * l)).isSome then s.poisonLine (128 * l) else s
  | .dram l => if l < 2 ^ 32 then s.poisonLine (128 * l) else s
  | .scratch c row => if row < 8192 then s.poisonRow (coreBase c + 128 * row) else s
  | .reg c off => if off < 2 ^ 20 then { s with storeBad := addPoison s.storeBad (coreBase c + off / 4 * 4) 4 } else s
  | .acc c i => if i < 65536 then s.setAcc c 0 i (mkSlot 0 0 0 0 true (slotOvf (s.accSlot c 0 i))) else s
  | .latch g l => s.modGang g fun g => g.modLane l fun x => { x with latchBad := true }
  | .operand g l i => s.modGang g fun g => g.modLane l fun x => { x with oBad := x.oBad ||| BitVec.ofNat 8 (2 ^ (i % 8)) }
  | .tag t _ | .barrier t | .rowHold t _ => s.structureKill t
  | .laneQueue g => if (Tbl.at? s.gangs g).isSome then s.structureKill (s.gang g).team else s
  | .faultSlot a _ | .directory a _ => if (Tbl.at? s.ctxs a).isSome then s.destroy [a] 3 else s

/-- The contexts with a resident cluster in a region. -/
def State.ctxsInRegion (s : State) (r : Nat) : List Nat :=
  dedup ((s.clusters.filter fun e => e.2.region = r && e.2.onCore).map fun e => (s.grid e.2.grid).asid)

/-- The emergency raise of a trimmed island (R363). -/
def Region.raise (x : Region) (now : Nat) : Region :=
  { x with
    raising := true, slewing := false, trim := 0, ceiling := x.ceiling - 5, holdoff := true, holdEnd := now + 1000000000
    switchTo := if x.switchTo = some x.freq then x.switchTo else none }

/-- What else an uncorrectable error does in an island whose trim is above 0 (R363). -/
def State.undervolt (s : State) (r : Nat) (x : ErrSite) : State :=
  let g := s.region r
  let s : State := { s with uvlog := s.uvlog ++ [(s.now, g.freq, g.trim, x)] }
  let s := s.modRegion r fun x => x.raise s.now
  (s.ctxsInRegion r).foldl (fun (s : State) a => s.modCtx a fun c => { c with iv := { c.iv with undervolt := true } }) s

/-- UNCORRECTABLE_ERROR (R288, R363). -/
def execUncorrectableError (x : ErrSite) (s : State) : Host.Outcome State Fault Refusal :=
  let s := match s.siteRegion x with
    | some r => if 0 < (s.region r).trim then s.undervolt r x else s
    | none => s
  .next (s.markError x)

/-! ### Refresh and scrub -/

/-- The partition of a context. -/
def State.partOfCtx (s : State) (a : Nat) : Option Nat := (Tbl.at? s.ctxs a).map fun c => c.part

/-- Overhead of a row's visit: its eight segments activated and its 1,024 bytes transferred (R345, R347; notes/assumptions/72.md). -/
def wScrub : Nat := 8 * wActivate + 16 * wHbm

/-- Corrections counted in the error rate of a stack, and what a visit cost the device (R287, R347). -/
def State.scrubbed (s : State) (stack corrected eu : Nat) : State :=
  let k := stackIsland stack
  ({ s with errRate := Tbl.put s.errRate k (Tbl.atD s.errRate k 0 + corrected) } : State).chargeOver none k eu

/-- The visits of rows that scrub met held, of those with `p`, made now at a cost of `eu` each (R287). -/
def State.scrubLate (s : State) (stack : Nat) (p : Nat → Bool) (eu : Nat) : State :=
  let l := s.scrubHeld.filter fun e => p e.1
  if l.isEmpty then s
  else ({ s with scrubHeld := s.scrubHeld.filter fun e => !p e.1 } : State).scrubbed stack ((l.map (·.2)).foldl (· + ·) 0) (eu * l.length)

/-- A held row refreshed: dirty segments written back, and the open ones activated again, as partition overhead (R281, R347), and a scrub that met it
acts on it (R287). What a refresh costs beyond that has no weight (DESIGN CHOICE, notes/assumptions/125.md). -/
def State.refreshRow (s : State) (stack : Nat) (e : RowEntry) : State :=
  let open_ := popcount 8 e.opens.toNat
  let eu := 2 * wHbm * popcount 8 e.dirty.toNat + wActivate * open_
  let s := (s.chargeOver (s.partOfCtx e.asid) (stackIsland stack) eu).modRow e.row fun e =>
    { e with slots := e.slots.map fun x => { x with dirty := 0 } }
  s.scrubLate stack (· = e.row) (wScrub - wActivate * open_)

/-- REFRESH of a pseudo-channel: its held rows, and the segments (row and segment number) that show an uncorrectable error at the re-activation (R281).
A pseudo-channel is taken as one bank (DESIGN CHOICE, notes/assumptions/123.md). It costs nothing where no row is held (DESIGN CHOICE,
notes/assumptions/125.md). -/
def execRefresh (stack pc : Nat) (bad : List (Nat × Nat)) (s : State) : Host.Outcome State Fault Refusal :=
  let held := s.rowTab.filter fun e => stackOf (1024 * e.row) = stack && pchanOf (1024 * e.row) = pc
  let s := held.foldl (fun (s : State) e => s.refreshRow stack e) s
  .next (bad.foldl (fun (s : State) b =>
    if b.2 < 8 && held.any fun e => e.row = b.1 && bit e.opens.toNat b.2 then s.poisonLine (1024 * b.1 + 128 * b.2) else s) s)

/-- The row of visit `n` of a stack: its rows in rising order (notes/assumptions/72.md). -/
def visitRow (stack n : Nat) : Nat :=
  let b := 8 * (n % stackRows)
  b + Nat.xor stack (stackOf (1024 * b))

def State.rowHeld (s : State) (row : Nat) : Bool := s.rowTab.any fun e => e.row = row

/-- PATROL_SCRUB: the next row of a stack is visited, each once in a day; what is found is corrected and counted, at its refresh where the row is held
(R287, R347). -/
def execPatrolScrub (stack corrected : Nat) (s : State) : Host.Outcome State Fault Refusal :=
  let n := Tbl.atD s.scrub stack 0
  if stack < 8 && n / stackRows * dayNs ≤ s.now && !s.stopped then
    let row := visitRow stack n
    -- The rows that it met held and that are held no more come with it.
    let s := { s.scrubLate stack (fun k => stackOf (1024 * k) = stack && !s.rowHeld k) wScrub with scrub := Tbl.put s.scrub stack (n + 1) }
    if s.rowHeld row then .next { s with scrubHeld := Tbl.put s.scrubHeld row (Tbl.atD s.scrubHeld row 0 + corrected) }
    else .next (s.scrubbed stack corrected wScrub)
  else .next s

end Sys2Proof.Machine
end

