-- ==== Sys2Proof/Machine/Fabric.lean ====
section
/-!
DEFINITION. Fabric packets at this device, time-outs, multicast-reduce rounds, ports and CXL.mem (R384 to R394, R401).
-/

namespace Sys2Proof.Machine

/-! ### Ingress (R387) -/

/-- The live context that serves what comes under an FPID. -/
def State.serving (s : State) (x : Packet) : Option Nat :=
  if x.part = 0 then none
  else
    match s.parts.find? fun e => e.2.fpid = x.part with
    | some (_, p) => if (Tbl.at? s.ctxs p.fpidCtx).isSome then some p.fpidCtx else none
    | none => none

/-- Whether a packet's FPID is that of a partition of this device. -/
def State.knownFpid (s : State) (x : Packet) : Bool := x.part ≠ 0 && s.parts.any fun e => e.2.fpid = x.part

/-- A packet that fails a check is dropped and counted. -/
def State.violate (s : State) : State := { s with violations := s.violations + 1 }

/-- Whether a packet under an FPID may leave for a device: a member of the fabric partition (R387). -/
def State.mayLeave (s : State) (fpid : BitVec 12) (dst : Nat) : Bool :=
  s.parts.any fun e => e.2.fpid = fpid && e.2.fmembers.contains dst

/-- A packet served in the context of its FPID at an offset of device memory. -/
def State.serve (s : State) (x : Packet) (f : (asid pa : Nat) → State) : Host.Outcome State Fault Refusal :=
  match s.serving x with
  | some a => .next (f a (x.addr % 2 ^ 39))
  | none => .next s.violate

/-- An answer to a packet, sent for the serving context from the die of a line's home (R389). -/
def State.answer (s : State) (asid pa ptype : Nat) (x : Packet) (f : Packet → Packet) : State :=
  s.sendPacket asid (homeOf pa) (f { peerPacket ptype 0 with dst := x.src, addr := x.addr, key := x.key })

/-- Bytes written at their home slice for another agent; poison marks the line. -/
def State.homePut (s : State) (asid pa : Nat) (bs : List Byte) (bad : Bool) : State :=
  let s := (cutsOf 128 pa bs.length).foldl (fun (s : State) p => (s.touchHome asid p.1 true []).1) s
  let s := s.putFor asid pa bs
  if bad then s.poisonLine pa else s

/-- READ_REQUEST: the bytes that the mask names, from the first to the last, or the whole line. -/
def execReadRequest (x : Packet) (s : State) : Host.Outcome State Fault Refusal :=
  s.serve x fun a pa =>
    let want := if x.mask = 0 then List.range 128 else setBits 128 x.mask.toNat
    let lo := (want.head?).getD 0
    let n := (want.getLast?).getD 0 + 1 - lo
    let at_ := pa / 128 * 128 + lo
    let (s, _, bs, _) := s.homeRead a at_ n []
    s.answer a pa 2 x fun y => { packetCarry y at_ bs with bad := s.badMask at_ n }

/-- The runs of a write: each byte of the line that the mask names, with its value (R385). -/
def packetWrites (x : Packet) : List (Nat × Byte) :=
  let l := setBits 128 x.mask.toNat
  let bs := if x.data.isEmpty then bytesOf 8 x.value.toNat else l.map fun i => (x.data[i]?).getD 0
  l.zip bs

/-- WRITE: merged at the home slice, and acknowledged. -/
def execWrite (x : Packet) (s : State) : Host.Outcome State Fault Refusal :=
  s.serve x fun a pa =>
    let line := pa / 128 * 128
    let s := (s.touchHome a pa true []).1.keyLines a line 128
    let s := (packetWrites x).foldl (fun (s : State) e => { s with mem := Mem.write s.mem (line + e.1) [e.2] }) s
    let whole := fun (i : Nat) => (List.range 8).all fun j => bit x.mask.toNat (i / 8 * 8 + j)
    let s : State := { s with memBad := s.memBad.filter fun b => !(b / 128 = lineOf pa && whole (b % 128)) }
    let s := if x.bad ≠ 0 then s.poisonLine pa else s
    s.answer a pa 4 x fun y => y

/-- The operation and the type of an OP byte (notes/assumptions/34.md). -/
def opOf (x : BitVec 8) : Nat × Ty := (x.toNat % 8, Ty.ofCode (x.toNat / 16))

/-- ATOMIC: performed at the home slice; the old value is the answer (R159, R385). -/
def execAtomic (x : Packet) (s : State) : Host.Outcome State Fault Refusal :=
  s.serve x fun a pa =>
    let (op, ty) := opOf x.op
    let n := accBytes ty
    let (s, seen, bs, bad) := s.homeRead a pa n []
    let s :=
      if bad then s
      else
        let new := atomNew ty op (natOf bs) (x.value.toNat % 2 ^ (8 * n)) (x.cval.toNat % 2 ^ (8 * n))
        (s.touchHome a pa true seen).1.putFor a pa (bytesOf n new)
    s.answer a pa 2 x fun y => { packetCarry y pa bs with bad := s.badMask pa n }

/-! ### Answers (R385, R388) -/

/-- Whether a packet came under the FPID of the context that asked. -/
def State.ownAnswer (s : State) (x : Packet) (r : Request) : Bool := (s.part (s.ctx r.asid).part).fpid = x.part

/-- An element of a reduction at a peer has been performed; one answered with poison marks the chunk (R184). -/
def State.elementDone (s : State) (r : Request) (bad : BitVec 128) : State :=
  let s := s.dropReq r.tag
  match r.who with
  | .copy t q => if bad ≠ 0 then s.modCopy t q fun k => { k with landing := k.landing.map fun _ => true } else s
  | _ => s

/-- A read or an atomic answered. -/
def State.answered (s : State) (r : Request) (bs : List Byte) (bad : BitVec 128) : State :=
  match r.who, r.ptype.toNat with
  | .copy _ _, 3 => s.elementDone r bad
  | _, _ => { s with requests := s.requests.map fun y => if y.tag = r.tag then { y with answer := some (bs, bad) } else y }

/-- READ_COMPLETION: data come to their requester; a late one is discarded. -/
def execReadCompletion (x : Packet) (s : State) : Host.Outcome State Fault Refusal :=
  if !s.knownFpid x then .next s.violate
  else
    match s.requests.find? fun r => r.tag % 2 ^ 32 = x.key.toNat && (r.ptype = 0 || r.ptype = 3) && r.answer.isNone &&
        s.ownAnswer x r && s.now < r.due with
    | some r => .next (s.answered r (packetCarried x r.addr r.n) x.bad)
    | none => .next { s with late := s.late + 1 }

/-- The request a write acknowledgement names, by the key it was sent with, while it has not timed out (R388). -/
def State.acked (s : State) (x : Packet) (r : Request) : Bool :=
  s.ownAnswer x r && s.now < r.due &&
    (r.ptype = 1 || r.ptype = 5) && r.key % 2 ^ 32 = x.key.toNat

/-- WRITE_ACKNOWLEDGEMENT: the write, or the contribution, has been performed; a late one is discarded. -/
def execWriteAcknowledgement (x : Packet) (s : State) : Host.Outcome State Fault Refusal :=
  if !s.knownFpid x then .next s.violate
  else
    match s.requests.find? (s.acked x) with
    | some r => .next (s.dropReq r.tag)
    | none => .next { s with late := s.late + 1 }

/-- The gang of an asker, as a notice names it. -/
def State.askerGang (s : State) (w : Asker) : Nat :=
  match w with
  | .scalar g | .lane g _ | .fetch g | .laneFetch g _ => (s.gang g).idx
  | _ => 0

/-- REQUEST_TIMEOUT: 1 ms without an answer. A read or an atomic completes poisoned; a write or a contribution kills its team (R388). -/
def execRequestTimeout (tag : Nat) (s : State) : Host.Outcome State Fault Refusal :=
  match s.requests.find? fun r => r.tag = tag with
  | none => .next s
  | some r =>
    if r.answer.isSome || s.now < r.due then .next s
    else if r.ptype = 0 || r.ptype = 3 then .next (s.answered r (bytesOf r.n 0) (BitVec.allOnes 128))
    else
      let s := s.dropReq tag
      match Tbl.at? s.teams r.team with
      | some _ => .next ((s.teamNotice r.team cPOISON r.addr (s.askerGang r.who)).killTeam r.team).reap
      | none => .next s

/-! ### Multicast-reduce (R390 to R392) -/

/-- MULTICAST_REDUCE_GROUP_SETUP. -/
def execMulticastReduceGroupSetup (x : GroupDesc) (s : State) : Host.Outcome State Fault Refusal :=
  if 1 ≤ x.nc && x.nc ≤ 65536 && x.members.length ≤ 256 then
    .next { s with groups := Tbl.put s.groups x.group.toNat { desc := x, parts := [] } }
  else .next s

/-- The value of a round, and whether it is poisoned: contributions sorted by key, combined by the tree of R140 (R391). -/
def roundOf (l : List (BitVec 32 × BitVec 8 × BitVec 64)) : Nat × Bool :=
  let l := sortBy (fun a b => a.1.toNat ≤ b.1.toNat) l
  match l with
  | [] => (0, true)
  | (_, op, v) :: rest =>
    if rest.all fun e => e.2.1 = op then
      let (code, ty) := opOf op
      let leaf := fun (i : Nat) => (l[i]?).map fun e => (⟨e.2.2.toNat % 2 ^ (8 * accBytes ty), 0⟩ : FRes)
      (((redTree (combine ty code .rne false) leaf (bitLen (l.length - 1)) 0).map fun r => r.bits).getD v.toNat, false)
    else (0, true)

/-- The delivery packets of a round, one to each member (R392); their flits are overhead of the partition under whose FPID the group is (R389). -/
def State.deliver (s : State) (d : GroupDesc) (off : Nat) (op : BitVec 8) (v : Nat × Bool) : State :=
  let p := (s.parts.find? fun e => e.2.fpid = d.part).map (·.1)
  d.members.foldl (fun (s : State) m =>
    if !s.mayLeave d.part m.1 then s.violate
    else
    let x : Packet :=
      { peerPacket 6 0 with
        part := d.part, cw := 15, src := BitVec.ofNat 12 s.swarm.self, dst := BitVec.ofNat 12 m.1, addr := m.2 + off
        value := BitVec.ofNat 64 v.1, op := op, bad := if v.2 then BitVec.allOnes 128 else 0 }
    ({ s with outbox := s.outbox ++ [.packet x] } : State).chargeOver p 56 wFlit) s

/-- A contribution taken into the round of its element; NC of them complete it (R391). -/
def State.takeContribution (s : State) (x : Packet) (g : Group) (n : Nat) : State :=
  let off := x.addr % 2 ^ 27
  let l := Tbl.atD g.parts off [] ++ [(x.key, x.op, x.value)]
  let done := g.desc.nc ≤ l.length
  let g' := { g with parts := if done then Tbl.del g.parts off else Tbl.put g.parts off l }
  let s : State := { s with groups := Tbl.put s.groups n g' }
  if done then s.deliver g.desc off x.op (roundOf l) else s

/-- REDUCE_CONTRIBUTION at the root, acknowledged to its sender. One that comes to another device than the group's root is dropped and counted
(notes/assumptions/70.md). -/
def execReduceContribution (x : Packet) (s : State) : Host.Outcome State Fault Refusal :=
  let n := x.addr % 2 ^ 39 / 2 ^ 27
  match Tbl.at? s.groups n with
  | none => .next s.violate
  | some g =>
    if g.desc.part ≠ x.part || !s.knownFpid x || g.desc.root.toNat ≠ s.swarm.self then .next s.violate
    else
      let s := s.takeContribution x g n
      match s.serving x with
      | some a => .next (s.answer a 0 4 x fun y => y)
      | none =>
        let y : Packet :=
          { peerPacket 4 0 with part := x.part, cw := 15, src := BitVec.ofNat 12 s.swarm.self, dst := x.src, addr := x.addr, key := x.key }
        .next (if s.mayLeave x.part x.src.toNat then
          ({ s with outbox := s.outbox ++ [.packet y] } : State).chargeOver ((s.parts.find? fun e => e.2.fpid = x.part).map (·.1)) 56 wFlit
        else s.violate)

/-- REDUCE_DELIVERY at a member: one write at the home slice (R392). -/
def execReduceDelivery (x : Packet) (s : State) : Host.Outcome State Fault Refusal :=
  s.serve x fun a pa => s.homePut a pa (bytesOf (accBytes (opOf x.op).2) x.value.toNat) (x.bad ≠ 0)

/-! ### Other packets -/

/-- FIRMWARE_MESSAGE: handed to firmware; it travels under FPID 0 alone (R387). -/
def execFirmwareMessage (x : Packet) (s : State) : Host.Outcome State Fault Refusal :=
  .next (if x.part = 0 then { s with outbox := s.outbox ++ [.firmware x] } else s.violate)

/-- UNKNOWN_PACKET_TYPE: dropped at ingress (R385). -/
def execUnknownPacketType (_ : Packet) (s : State) : Host.Outcome State Fault Refusal := .next s

/-! ### Ports (R384) -/

/-- PORT_TRAINING of a port with what is at its far end: at once when bring-up is complete, else in step 7 (R411; notes/assumptions/39.md). -/
def execPortTraining (port : Nat) (far : Option Nat) (gen2ok : Bool) (s : State) : Host.Outcome State Fault Refusal :=
  if port < 18 then
    .next { s with
      farEnds := Tbl.put s.farEnds port { far := far, gen2ok := gen2ok }
      ports := if s.boot < 8 then s.ports else match portGen far gen2ok with
        | some n => Tbl.put s.ports port n
        | none => Tbl.del s.ports port }
  else .next s

/-- PORT_FAILURE: the port is down, and its traffic takes the others (R388). -/
def execPortFailure (port : Nat) (s : State) : Host.Outcome State Fault Refusal := .next { s with ports := Tbl.del s.ports port }

/-! ### CXL.mem (R394, R401) -/

/-- The live window of a partition that holds `n` bytes at an address; the lowest-numbered one where windows overlap. -/
def Partition.window (p : Partition) (pa n : Nat) : Option HdmWin :=
  (p.wins.find? fun e =>
    let top := if e.2.base + e.2.len < 2 ^ 39 then e.2.base + e.2.len else 2 ^ 39
    e.2.en && e.2.base ≤ pa && pa + n ≤ top).map (·.2)

/-- The live window of the device that holds an address; of windows of two partitions, the one of the lower partition (notes/assumptions/70.md). -/
def State.window (s : State) (pa n : Nat) : Option HdmWin := s.parts.findSome? fun e => e.2.window pa n

/-- CXL_MEM_ACCESS: served at the home slice in the window's context; outside every window a read is poison and a write is dropped. -/
def execCxlMemAccess (x : CxlAccess) (s : State) : Host.Outcome State Fault Refusal :=
  let n := match x.write with
    | some bs => bs.length
    | none => x.n
  match s.window x.pa n, x.write with
  | some w, some bs => .next (s.homePut w.asid x.pa bs false)
  | none, some _ => .next s
  | some w, none =>
    let s := (cutsOf 128 x.pa n).foldl (fun (s : State) p => (s.touchHome w.asid p.1 false []).1) s
    let bad := poisoned s.memBad x.pa n
    let bs := Mem.read (s.memOf w.asid) x.pa n
    .next { s with outbox := s.outbox ++ [.cxl (if bad then none else some bs)] }
  | none, none => .next { s with outbox := s.outbox ++ [.cxl none] }

end Sys2Proof.Machine
end

