-- ==== Sys2Proof/Machine/HostRegs.lean ====
section
/-!
DEFINITION. The registers of the context pages and partition blocks (R318 to R320, R359, R396 to R401), the fault ring (R399), and the opening of row
slots (R164).
-/

namespace Sys2Proof.Machine

/-- What a host register write does to a live context; nothing where there is none, or where the write comes outside the function's stream (R402). -/
def State.onCtx (s : State) (asid : Nat) (f : Ctx → State) : Host.Outcome State Fault Refusal :=
  match Tbl.at? s.ctxs asid with
  | some c => .next (if s.writeOk asid then f c else s)
  | none => .next s

/-- What an operator register write does to a partition. -/
def State.onPart (s : State) (p : Nat) (f : Partition → State) : Host.Outcome State Fault Refusal :=
  match Tbl.at? s.parts p with
  | some x => .next (f x)
  | none => .next s

/-! ### Launch queues (R318 to R320) -/

/-- QBASE. -/
def execQbase (asid q : Nat) (v : Word64) (s : State) : Host.Outcome State Fault Refusal :=
  s.onCtx asid fun _ => s.modQueue asid q fun x => if x.en then x else { x with base := v.toNat % 2 ^ 57 / 4096 * 4096 }

/-- LOG2S as it is written (R318). -/
def log2sOf (n : Nat) : Nat := if n ≤ 1 || 13 ≤ n then 12 else n

/-- A queue after a write of its QCFG: while EN is 1 the write can only clear it. -/
def Queue.config (x : Queue) (v : Nat) : Queue :=
  if x.en then { x with en := bit v 9 }
  else { x with en := bit v 9, prod := bit v 8, prio := bits v 6 4, log2s := log2sOf (v % 16) }

/-- The records appended are to be read within 16 µs from now: their queue goes on (R322). -/
def Queue.resumed (x : Queue) (now : Nat) : Queue := { x with appended := x.appended.map fun e => (e.1, now) }

/-- QCFG. -/
def execQcfg (asid q : Nat) (v : Word64) (s : State) : Host.Outcome State Fault Refusal :=
  s.onCtx asid fun _ => s.modQueue asid q fun x => if x.en then x.config v.toNat else (x.config v.toNat).resumed s.now

/-- A queue after a write of its QTAIL (R319, R322). -/
def Queue.append (x : Queue) (v : BitVec 32) (now : Nat) : Queue :=
  let d := (v - x.tail).toNat
  if x.prod then x
  else if 1 ≤ d && d + (x.tail - x.head).toNat ≤ 2 ^ x.log2s then { x with tail := v, appended := x.appended ++ [(v, now)] }
  else { x with terr := true }

/-- QTAIL. -/
def execQtail (asid q : Nat) (v : Word64) (s : State) : Host.Outcome State Fault Refusal :=
  s.onCtx asid fun _ => s.modQueue asid q fun x => x.append (v.truncate 32) s.now

/-- QSTAT: ones clear TERR and FERR. -/
def execQstat (asid q : Nat) (v : Word64) (s : State) : Host.Outcome State Fault Refusal :=
  s.onCtx asid fun _ => s.modQueue asid q fun x =>
    let y := { x with terr := x.terr && !bit v.toNat 0, ferr := x.ferr && !bit v.toNat 1 }
    if x.ferr && !y.ferr then y.resumed s.now else y

/-! ### The fault ring and replies (R396 to R399) -/

/-- Whether a ring's head may move to `v`: not behind its old value, nor beyond the tail. -/
def headMay (head tail v : BitVec 32) : Bool := (v - head).toNat ≤ (tail - head).toNat

/-- FRHEAD. -/
def execFrhead (asid : Nat) (v : Word64) (s : State) : Host.Outcome State Fault Refusal :=
  s.onCtx asid fun _ => s.modCtx asid fun c =>
    if headMay c.frhead c.frtail (v.truncate 32) then { c with frhead := v.truncate 32 } else c

/-- Whether a reply matches a slot of the page's context (R302, R397). -/
def Ctx.matchReply (c : Ctx) (asid v : Nat) : Bool :=
  let x := Tbl.atD c.slots (v % 1024) FaultSlot.blank
  bits v 47 32 = asid && x.st = .waiting && x.seq = bits v 23 16 && bits v 31 24 ≤ 1

/-- DISC after one more discarded reply: it saturates (R398). -/
def discMore (n : Nat) : Nat := if n + 1 < 2 ^ 32 then n + 1 else 2 ^ 32 - 1

/-- The page that the last context with an ASID was bound to, once that context is gone. -/
def State.pageOf? (s : State) (asid : Nat) : Option PageStat := s.pages.reverse.find? fun x => x.asid = asid

/-- REPLY: lands in its slot, or is discarded and counted. On the page of a context that is gone nothing waits, and it is counted there. -/
def execReply (asid : Nat) (v : Word64) (s : State) : Host.Outcome State Fault Refusal :=
  match Tbl.at? s.ctxs asid with
  | some c =>
    .next (if !s.writeOk asid then s
    else if c.matchReply asid v.toNat then s.land asid (v.toNat % 1024) (bits v.toNat 31 24)
    else s.modCtx asid fun c => { c with disc := discMore c.disc })
  | none =>
    match s.pageOf? asid with
    | some x =>
      if s.fnStreamOk x.fn then .next { s with pages := s.pages.map fun y => if y = x then { y with disc := discMore y.disc } else y }
      else .next s
    | none => .next s

/-- FAULT_RECORD_POST: the oldest record not yet posted is written to the fault ring, if the ring is enabled and has room (R399). It is the device's
own act, in no stream of the host. -/
def execFaultRecordPost (asid : Nat) (s : State) : Host.Outcome State Fault Refusal :=
  match Tbl.at? s.ctxs asid with
  | none => .next s
  | some c =>
    .next (match c.unposted with
    | [] => s
    | n :: rest =>
      if c.fren && (c.frtail - c.frhead).toNat ≠ c.frSize then
        let a := hostPa (c.frbase.toNat + 32 * (c.frtail.toNat % c.frSize))
        let s := s.putMem a (Tbl.atD c.slots n FaultSlot.blank).rcd
        let s := s.modCtx asid fun c => { c with frtail := c.frtail + 1, unposted := rest }
        { s with outbox := s.outbox ++ [.msix c.fn (3 * c.page)] }
      else s)

/-! ### Partition blocks (R359, R400, R401) -/

/-- MREQ: a reading of KIND 2 is asked for a context of the partition. -/
def execMreq (p : Nat) (v : Word64) (s : State) : Host.Outcome State Fault Refusal :=
  s.onPart p fun _ => s.modCtx (v.toNat % 2 ^ 16) fun c => if c.part = p then { c with requested := c.requested + 1 } else c

/-- MRHEAD. -/
def execMrhead (p : Nat) (v : Word64) (s : State) : Host.Outcome State Fault Refusal :=
  s.onPart p fun _ => (s.modPart p fun x =>
    if headMay x.mrhead x.mrtail (v.truncate 32) then { x with mrhead := v.truncate 32 } else x).drainReadings p

def HdmWin.blank : HdmWin := { en := false, base := 0, len := 0, asid := 0 }

/-- A window of a partition changed. -/
def State.modWin (s : State) (p n : Nat) (f : HdmWin → HdmWin) : State :=
  if n < 16 then s.modPart p fun x => { x with wins := Tbl.put x.wins n (f (Tbl.atD x.wins n HdmWin.blank)) } else s

/-- HDMB: while the window is live only EN changes; EN is set only for a context of the partition and a length (R401). -/
def execHdmb (p n : Nat) (v : Word64) (s : State) : Host.Outcome State Fault Refusal :=
  s.onPart p fun _ => s.modWin p n fun w =>
    let may := (Tbl.at? s.ctxs w.asid).isSome && (s.ctx w.asid).part = p && w.len ≠ 0
    if w.en then { w with en := bit v.toNat 63 }
    else { w with base := bits v.toNat 38 16 * 65536, en := bit v.toNat 63 && may }

/-- HDML: ignored while the window is live. -/
def execHdml (p n : Nat) (v : Word64) (s : State) : Host.Outcome State Fault Refusal :=
  s.onPart p fun _ => s.modWin p n fun w =>
    if w.en then w else { w with len := bits v.toNat 39 16 * 65536, asid := v.toNat % 2 ^ 16 }

/-- PWRCTL (R359). -/
def execPwrctl (p : Nat) (v : Word64) (s : State) : Host.Outcome State Fault Refusal :=
  let fast := bits v.toNat 39 36
  let slow := bits v.toNat 35 32
  s.onPart p fun _ => s.modPart p fun x =>
    { x with opfast := fast, opslow := if slow < fast then fast else slow, floor := bits v.toNat 31 16, cap := v.toNat % 2 ^ 16 }

/-- A host address register: bits [63:12]. -/
def pageAddr (v : Word64) : Word64 := BitVec.ofNat 64 (v.toNat / 4096 * 4096)

/-- The live context bound to a page of a function (R395). -/
def State.pageAsid (s : State) (f p : Nat) : Option Nat := (Tbl.keysOf s.ctxs fun c => c.fn = f && c.page = p).head?

/-- FRBASE and FRCTL as a write leaves them (R396). -/
def State.ringWrite (s : State) (asid off : Nat) (v : Word64) : State :=
  if off = 0x208 then s.modCtx asid fun c => { c with frbase := pageAddr v }
  else if off = 0x210 then s.modCtx asid fun c => { c with frlog := v.toNat % 16, fren := bit v.toNat 8 }
  else s

/-- REGISTER_WRITE: the registers without a row of their own: FRBASE, FRCTL, MRBASE and MRCTL (R396, R400). A write at another offset is ignored. -/
def execRegisterWrite (x : PageReg) (v : Word64) (s : State) : Host.Outcome State Fault Refusal :=
  match x with
  | .ctx asid off => s.onCtx asid fun _ => s.ringWrite asid off v
  | .page f p off =>
    match s.pageAsid f p with
    | some a => s.onCtx a fun _ => s.ringWrite a off v
    | none => .next s
  | .part p off =>
    s.onPart p fun _ =>
      if off = 0x008 then (s.modPart p fun y => { y with mrbase := pageAddr v }).drainReadings p
      else if off = 0x010 then
        (s.modPart p fun y => { y with mrlog := v.toNat % 16, mren := bit v.toNat 8 }).drainReadings p
      else s
  | .status | .violations => .next s

/-! ### Register reads (R318 to R320, R359, R396 to R401, R411) -/

/-- CTXSTAT of a live context, and of a page whose context is gone (R398). -/
def Ctx.ctxstat (c : Ctx) (asid : Nat) : Nat := 2 ^ 63 + asid % 2 ^ 16 * 2 ^ 32 + c.disc
def PageStat.ctxstat (x : PageStat) : Nat := x.why % 8 * 2 ^ 60 + x.asid % 2 ^ 16 * 2 ^ 32 + x.disc

/-- A queue register by its offset in the queue's block (R318 to R320). -/
def State.queueReg (s : State) (asid q off : Nat) : Nat :=
  let x := Tbl.atD (s.ctx asid).queues q Queue.blank
  match off with
  | 0x00 => x.base
  | 0x08 => b2n x.en * 2 ^ 9 + b2n x.prod * 2 ^ 8 + x.prio * 16 + x.log2s
  | 0x10 => x.head.toNat
  | 0x18 => x.tail.toNat
  | 0x20 => s.qstat asid q
  | _ => 0

/-- A register of a context page; an offset not listed, or a register that is only written, reads 0 (R6, R396). -/
def State.ctxReg (s : State) (asid off : Nat) : Nat :=
  match Tbl.at? s.ctxs asid with
  | some c =>
    if off < 0x200 then s.queueReg asid (off / 0x40) (off % 0x40)
    else match off with
      | 0x208 => c.frbase.toNat
      | 0x210 => b2n c.fren * 2 ^ 8 + c.frlog
      | 0x218 => c.frhead.toNat
      | 0x220 => c.frtail.toNat
      | 0x230 => c.ctxstat asid
      | _ => 0
  | none => if off = 0x230 then ((s.pageOf? asid).map PageStat.ctxstat).getD 0 else 0

/-- A register of a page, by function and number: that of its context, or CTXSTAT of the context that is gone from it (R398). -/
def State.pageReg (s : State) (f p off : Nat) : Nat :=
  match s.pageAsid f p with
  | some a => s.ctxReg a off
  | none => if off = 0x230 then ((s.pages.find? fun x => x.fn = f && x.page = p).map PageStat.ctxstat).getD 0 else 0

/-- HDMB and HDML (R401). -/
def HdmWin.word (w : HdmWin) (len : Bool) : Nat := if len then w.len + w.asid % 2 ^ 16 else b2n w.en * 2 ^ 63 + w.base

/-- A register of a partition block (R359, R400, R401). -/
def Partition.reg (x : Partition) (off : Nat) : Nat :=
  if 0x040 ≤ off && off < 0x140 then (Tbl.atD x.wins ((off - 0x040) / 16) HdmWin.blank).word (off % 16 = 8)
  else match off with
    | 0x000 => x.opfast * 2 ^ 36 + x.opslow * 2 ^ 32 + x.floor * 2 ^ 16 + x.cap
    | 0x008 => x.mrbase.toNat
    | 0x010 => b2n x.mren * 2 ^ 8 + x.mrlog
    | 0x018 => x.mrhead.toNat
    | 0x020 => x.mrtail.toNat
    | _ => 0

/-- What a host read of a register returns. The status register of the physical function holds the bring-up step that failed, 0 for none
(notes/assumptions/98.md). The violation counter is read there too (R387; notes/assumptions/111.md). -/
def State.regRead (s : State) (x : PageReg) : Word64 :=
  BitVec.ofNat 64 (match x with
    | .ctx asid off => if off % 8 = 0 && s.streamOk asid then s.ctxReg asid off else 0
    | .page f p off => if off % 8 = 0 && s.fnStreamOk f then s.pageReg f p off else 0
    | .part p off => if off % 8 = 0 then ((Tbl.at? s.parts p).map fun x => x.reg off).getD 0 else 0
    | .status => s.bootFailed.getD 0
    | .violations => s.violations)

/-- A host read: its value is the answer. -/
def State.hostRead (s : State) (x : PageReg) : State := { s with outbox := s.outbox ++ [.value (s.regRead x)] }

/-! ### Row slots (R164) -/

/-- ROW_OPEN_COMPLETE: an opening slot is held, or lost when its pseudo-channel has no free entry. A LOST slot keeps nothing of its hold: PERS, and
OPEN and DIRTY, read 0 (DESIGN CHOICE, notes/assumptions/91.md). -/
def execRowOpenComplete (t n : Nat) (s : State) : Host.Outcome State Fault Refusal :=
  let x := (s.team t).row n
  if x.st = .opening then
    let a := s.asidOfTeam t
    let s := s.giveUpLines a x.row x.mask
    match s.holdRow a t n x.row x.mask with
    | some s => .next (s.setRow t n { x with st := .held })
    | none => .next (s.setRow t n { RowSlot.blank with st := .lost, why := 1, row := x.row })
  else .next s

end Sys2Proof.Machine
end

