-- ==== Sys2Proof/Machine/Items.lean ====
section
/-!
DEFINITION. The creation of STAMP items (R210, R219, R221, R313).
-/

namespace Sys2Proof.Machine

/-- The lowest gang index from 1 that no live gang or template of a team holds (R313). -/
def State.freeIndex (s : State) (t gangs : Nat) : Option Nat :=
  let used := (s.gangsOf t).map fun u => (s.gang u).idx
  (List.range gangs).find? fun i => i ≠ 0 && !used.contains i

/-- The gang slot and the window a new item of a team takes, when there is room for one (R219). -/
def State.itemRoom (s : State) (t : Nat) : Option (Nat × Nat) :=
  let tm := s.team t
  let live := s.liveOf t
  let slots := tm.slots.filter fun n => !live.any fun u => (s.gang u).slot = n
  let wins := tm.wbases.filter fun w => !(s.gangsOf t).any fun u => (s.gang u).wbase = w
  if live.length + (s.templatesOf t).length < (s.gridOfTeam t).rcd.gangs then
    match minOf slots, minOf wins with
    | some n, some w => some (n, w)
    | _, _ => none
  else none

/-- Item `i` of template `u`, whose gang is `g` (R14, R36, R219). -/
def Gang.itemOf (g : Gang) (u i idx slot wbase pages : Nat) : Gang :=
  { Gang.blank with
    team := g.team
    idx := idx
    slot := slot
    wbase := wbase
    spc := g.spc
    s := g.s
    mode := { g.mode with flags := 0 }
    segs := g.segs
    lanes := (List.range 32).map fun l => (l, { Lane.blank with p := (Tbl.atD g.lanes l Lane.blank).p })
    item := i
    ntpl := g.ntpl + 1
    tplOf := some u
    shared := List.range pages
    sttLeft := g.stts }

/-- ITEM_CREATE: template `u` creates its next item when its team has room (R219). -/
def execItemCreate (u : Nat) (s : State) : Host.Outcome State Fault Refusal :=
  match Tbl.at? s.gangs u with
  | none => .next s
  | some g =>
    let st := (s.clusterOfTeam g.team).st
    match g.run, s.itemRoom g.team, s.freeIndex g.team (s.recOf g).gangs with
    | .template count i, some (slot, w), some idx =>
      if i < count && (st = .resident || st = .stalled) && !(s.team g.team).dying then
        let v := s.uid
        let h := g.itemOf u i idx slot w (ceilDiv (s.recOf g).regs 16)
        let s := s.modGang u fun g => { g with run := .template count (i + 1) }
        let s : State := { s with uid := v + 1, gangs := Tbl.put s.gangs v h }
        .next (((s.joinAll g.team).emitSync v 1).drowseAim (s.regOf g))
      else .next s
    | _, _, _ => .next s

end Sys2Proof.Machine
end

