-- ==== Sys2Proof/Machine/PowerEvents.lean ====
section
/-!
DEFINITION. The events of operating points, trims, thermal stops, hot spots and power budgets (R335, R360 to R369).
-/

namespace Sys2Proof.Machine

/-! ### Ramps (R360, R361) -/

/-- FREQUENCY_SWITCH: a switch of 0.5 µs has run its time. -/
def execFrequencySwitch (r : Nat) (s : State) : Host.Outcome State Fault Refusal :=
  let x := s.region r
  match x.switchTo with
  | some p =>
    if x.switchEnd ≤ s.now && !s.stopped && !x.raising then
      .next ((s.modRegion r fun x => { x with freq := p, switchTo := none }).aimRegion r)
    else .next s
  | none => .next s

/-- VOLTAGE_SLEW_END: the rail has reached the voltage it moves toward. -/
def execVoltageSlewEnd (r : Nat) (s : State) : Host.Outcome State Fault Refusal :=
  let x := s.region r
  if (x.raising && x.goalUv ≤ x.uv) || (x.slewing && !x.raising && x.uv = x.goalUv) then
    .next ((s.modRegion r fun x => { x with slewing := false, raising := false }).aimRegion r)
  else .next s

/-- DROWSE_RAIL_MOVE: a move between rails of 1 µs has run its time. -/
def execDrowseRailMove (r : Nat) (s : State) : Host.Outcome State Fault Refusal :=
  let x := s.region r
  match x.drowseMove with
  | some w =>
    if x.drowseEnd ≤ s.now && !s.stopped then
      .next ((s.modRegion r fun x => { x with drowse := w, drowseMove := none }).drowseAim r)
    else .next s
  | none => .next s

/-! ### Trims (R362, R363) -/

/-- The threshold of a region's trim: what its partition's firmware sets (R362). -/
def State.trimThreshold (s : State) (r : Nat) : Nat :=
  match (s.region r).part with
  | some p => (s.part p).trimThr
  | none => Config.trimThreshold

/-- The trim of a region after the errors of 1 ms (R362). -/
def Region.trimmed (x : Region) (threshold : Nat) : Nat :=
  if x.errs < threshold then (if x.trim < x.ceiling && !x.holdoff then x.trim + 5 else x.trim) else x.trim - 5

/-- TRIM_STEP: 1 ms has passed since the last step of the trim. -/
def execTrimStep (r : Nat) (s : State) : Host.Outcome State Fault Refusal :=
  let x := s.region r
  if x.trimAt ≤ s.now then
    .next ((s.modRegion r fun x => { x with trim := x.trimmed (s.trimThreshold r), errs := 0, trimAt := x.trimAt + 1000000 }).aimRegion r)
  else .next s

/-- UNDERVOLT_HOLDOFF_END: the hold-off of 1 s is over. -/
def execUndervoltHoldoffEnd (r : Nat) (s : State) : Host.Outcome State Fault Refusal :=
  let x := s.region r
  if x.holdoff && x.holdEnd ≤ s.now then .next (s.modRegion r fun x => { x with holdoff := false }) else .next s

/-! ### Thermal stops (R364, R365) and hot spots (R335, R366) -/

/-- THERMAL_STOP: a junction sensor of the package reads 105 °C or more. -/
def execThermalStop (s : State) : Host.Outcome State Fault Refusal :=
  .next (if 105 ≤ s.hottest then
    { s with stopped := true, ctxs := Tbl.each s.ctxs fun _ c => { c with iv := { c.iv with stopped := true } } }
  else s)

/-- THERMAL_RESUME: the hottest sensor reads below 95 °C; what has waited goes on, in its order. -/
def execThermalResume (s : State) : Host.Outcome State Fault Refusal :=
  .next (if s.hottest < 95 then { s with stopped := false, agenda := s.flow ++ s.agenda, flow := [] } else s)

/-- The region of a partition that can take a cluster of region `r` (R325, R327, R335). -/
def State.migration (s : State) (p r c : Nat) : Option Nat :=
  match s.fit p (fun _ => false) (fun k => k = r || s.keptFrom p k (.back c)) (.back c) with
  | some ((k, _) :: _) => some k
  | _ => none

/-- The cluster a hot region gives up, with its target: of the clusters that another region can take, one of the context that drew most in the region
in the last tick, and of those the one of lowest index (R335). -/
def State.hotCluster (s : State) (p r : Nat) : Option (Nat × Nat) :=
  let here := Tbl.keysOf s.clusters fun c => c.region = r && c.st = .resident
  let able := (here.filter fun c => !s.clusterStalled c).filterMap fun c => (s.migration p r c).map fun k => (c, k)
  let drew := fun (c : Nat) => Tbl.atD (s.ctx (s.grid (s.cluster c).grid).asid).lastd r 0
  let before := fun (x y : Nat × Nat) =>
    drew y.1 < drew x.1 || (drew x.1 = drew y.1 && (s.cluster x.1).idx ≤ (s.cluster y.1).idx)
  (sortBy before able).head?

/-- HOT_SPOT: a region that has read hot at four ticks is reported, once at each tick, and a cluster of it migrates (R335, R366, R373). -/
def execHotSpot (r : Nat) (s : State) : Host.Outcome State Fault Refusal :=
  let due := (s.region r).hotDue && !s.stopped
  let s := if due then s.modRegion r fun x => { x with hotDue := false } else s
  match (if due then (s.region r).part else none) with
  | none => .next s
  | some p =>
    match s.hotCluster p r with
    | some (c, k) => .next ((s.restall.modCluster c fun x => { x with target := some k }).askCluster c (pcauseOf 7 1))
    | none => .next s

/-! ### Budgets (R367 to R369) -/

/-- alloc(C, F, D) over parties given by floor and demand (R367). -/
def alloc (c : Nat) (l : List (Nat × Nat)) : List Nat :=
  let l := l.map fun e => (e.1, if e.2 < e.1 then e.1 else e.2)
  let f := (l.map (·.1)).foldl (· + ·) 0
  let d := (l.map (·.2)).foldl (· + ·) 0
  if d ≤ c then l.map (·.2)
  else if c ≤ f then l.map fun e => c * e.1 / f
  else l.map fun e => e.1 + (c - f) * (e.2 - e.1) / (d - f)

/-- Members of the swarm group other than this device. -/
def Swarm.others (x : Swarm) : List Nat := x.members.filter (· ≠ x.self)

/-- A free value of 16 bits. -/
def State.fresh16 (s : State) : Nat × State :=
  let (v, s) := s.fresh
  (v.toNat % 65536, s)

/-- The device's floor as 16-bit W: the sum of its partitions'; the spec states none for a sum that 16 bits do not hold. -/
def State.floorW (s : State) : Nat × State :=
  let f := (s.parts.map fun e => e.2.floor).foldl (· + ·) 0
  if f < 65536 then (f, s) else s.fresh16

/-- The latest report of a member, or free values where none has ever come. -/
def State.reportOf (s : State) (m : Nat) : (Nat × Nat) × State :=
  match Tbl.at? s.swarm.reports m with
  | some x => (x, s)
  | none =>
    let (f, s) := s.fresh16
    let (d, s) := s.fresh16
    ((f, d), s)

/-- The grant of the period to come (R368): with no group the device's own 3,000 W. -/
def State.nextGrant (s : State) (own : Nat × Nat) : Nat × State :=
  if s.swarm.others.isEmpty then (3000, s)
  else
    let (l, s) := s.swarm.others.foldl (fun (x : List (Nat × Nat) × State) m =>
      let (r, s) := x.2.reportOf m
      (x.1 ++ [r], s)) ([own], s)
    let g := ((alloc s.swarm.crack l).head?).getD 0
    (if g < 3000 then g else 3000, s)

/-- The report of a floor and a demand in a period, as a packet from one member to another (R368, R385): VALUE holds F, D and the period from its low end
(DESIGN CHOICE, notes/assumptions/124.md). -/
def reportPacket (src dst period floor demand : Nat) : Packet :=
  { peerPacket 7 0 with
    cw := 15, src := BitVec.ofNat 12 src, dst := BitVec.ofNat 12 dst
    value := BitVec.ofNat 64 (floor % 2 ^ 16 + 2 ^ 16 * (demand % 2 ^ 16) + 2 ^ 32 * period) }

/-- The report of a period sent to every member: overhead of the device (R347, R368). -/
def State.sendReports (s : State) (own : Nat × Nat) : State :=
  s.swarm.others.foldl (fun (s : State) m =>
    let x := reportPacket s.swarm.self m s.swarm.period own.1 own.2
    ({ s with outbox := s.outbox ++ [.packet x] } : State).chargeOver none 56 wFlit) s

/-- The budgets of the partitions: `c` W divided over their floors and demands (R369). A partition's demand is a free value. -/
def State.divide (s : State) (c : Nat) : State :=
  let (l, s) := s.parts.foldl (fun (x : List (Nat × Nat) × State) e =>
    let (d, s) := x.2.fresh16
    (x.1 ++ [(e.2.floor, d)], s)) ([], s)
  ((Tbl.keys s.parts).zip (alloc c l)).foldl (fun (s : State) e => s.modPart e.1 fun x => { x with budget := e.2 }) s

/-- SWARM_PERIOD: a period of 1 ms ends, with the device's demand and the power its stack and port islands drew (R368, R369). -/
def execSwarmPeriod (demand measured : Nat) (s : State) : Host.Outcome State Fault Refusal :=
  if s.boot < 8 || s.now < (s.swarm.period + 1) * 1000000 then .next s
  else
    let (f, s) := s.floorW
    let own := (f, if demand < 3000 then demand else 3000)
    let s := s.sendReports own
    let missing := s.swarm.others.map fun m =>
      (m, if (Tbl.at? s.swarm.missing m).isNone && (Tbl.at? s.swarm.reports m).isSome then 0 else Tbl.atD s.swarm.missing m 0 + 1)
    let (g, s) := s.nextGrant own
    let g := if s.swarm.floorOnly then f else g
    let s : State := { s with swarm := { s.swarm with missing := missing, grant := g, measured := measured, period := s.swarm.period + 1 } }
    .next (s.divide (g - measured))

/-- SWARM_REPORT: a member's report has come, under FPID 0 (R368, R387). -/
def execSwarmReport (x : SwarmFlit) (s : State) : Host.Outcome State Fault Refusal :=
  if x.part ≠ 0 then .next { s with violations := s.violations + 1 }
  else if s.swarm.others.contains x.dev then
    let missing := Tbl.del s.swarm.missing x.dev
    .next { s with swarm := { s.swarm with
      reports := Tbl.put s.swarm.reports x.dev (x.floor.toNat, x.demand.toNat)
      missing := missing
      floorOnly := s.swarm.floorOnly && missing.any fun e => 3 ≤ e.2 } }
  else .next s

/-- SWARM_REPORT_TIMEOUT: no report of a member for three periods limits the device to its floor, which its partitions share (R368, R369). -/
def execSwarmReportTimeout (m : Nat) (s : State) : Host.Outcome State Fault Refusal :=
  if 3 ≤ Tbl.atD s.swarm.missing m 0 then
    let (f, s) := s.floorW
    .next (({ s with swarm := { s.swarm with floorOnly := true, grant := f } } : State).divide (f - s.swarm.measured))
  else .next s

end Sys2Proof.Machine
end

