-- ==== Sys2Proof/Machine/Scalar.lean ====
section
/-!
DEFINITION. The scalar arithmetic, branches and jumps (R99 to R110).
-/

namespace Sys2Proof.Machine

/-- A register word: s[d] receives `v` and the stream goes on (R102). -/
def State.setReg (s : State) (d : SReg) (v : Gang → Word64) : Host.Outcome State Fault Refusal :=
  s.issue fun u g => (s.setGang u (g.setS d (v g))).advance u

/-- The 64 bits of an integer. -/
def w64 (x : Int) : Word64 := BitVec.ofInt 64 x

/-- 1 when `p` holds, else 0. -/
def w1 (p : Bool) : Word64 := if p then 1 else 0

/-- Bits [127:64] of a product (R103). -/
def mulHigh (x : Int) : Word64 := w64 (x / 2 ^ 64)

/-- SDIV (R104). -/
def sdivQ (a b : Word64) : Word64 := if b = 0 then BitVec.allOnes 64 else w64 (Int.tdiv a.toInt b.toInt)
/-- SREM (R104). -/
def sremQ (a b : Word64) : Word64 := if b = 0 then a else w64 (Int.tmod a.toInt b.toInt)
/-- SDIVN (R104). -/
def sdivN (a b : Word64) : Word64 := if b = 0 then BitVec.allOnes 64 else BitVec.ofNat 64 (a.toNat / b.toNat)
/-- SREMN (R104). -/
def sremN (a b : Word64) : Word64 := if b = 0 then a else BitVec.ofNat 64 (a.toNat % b.toNat)

/-- Bits [5:0] of a shift count (R103). -/
def shCount (b : Word64) : Nat := b.toNat % 64

/-- SADD (R103). -/
def execSadd (d a b : SReg) (s : State) : Host.Outcome State Fault Refusal :=
  s.setReg d fun g => let a := g.sreg a; let b := g.sreg b; a + b

/-- SSUB (R103). -/
def execSsub (d a b : SReg) (s : State) : Host.Outcome State Fault Refusal :=
  s.setReg d fun g => let a := g.sreg a; let b := g.sreg b; a - b

/-- SMUL (R103). -/
def execSmul (d a b : SReg) (s : State) : Host.Outcome State Fault Refusal :=
  s.setReg d fun g => let a := g.sreg a; let b := g.sreg b; a * b

/-- SMULH (R103). -/
def execSmulh (d a b : SReg) (s : State) : Host.Outcome State Fault Refusal :=
  s.setReg d fun g => let a := g.sreg a; let b := g.sreg b; mulHigh (a.toInt * b.toInt)

/-- SMULHN (R103). -/
def execSmulhn (d a b : SReg) (s : State) : Host.Outcome State Fault Refusal :=
  s.setReg d fun g => let a := g.sreg a; let b := g.sreg b; mulHigh ((a.toNat * b.toNat : Nat) : Int)

/-- SDIV (R104). -/
def execSdiv (d a b : SReg) (s : State) : Host.Outcome State Fault Refusal :=
  s.setReg d fun g => let a := g.sreg a; let b := g.sreg b; sdivQ a b

/-- SDIVN (R104). -/
def execSdivn (d a b : SReg) (s : State) : Host.Outcome State Fault Refusal :=
  s.setReg d fun g => let a := g.sreg a; let b := g.sreg b; sdivN a b

/-- SREM (R104). -/
def execSrem (d a b : SReg) (s : State) : Host.Outcome State Fault Refusal :=
  s.setReg d fun g => let a := g.sreg a; let b := g.sreg b; sremQ a b

/-- SREMN (R104). -/
def execSremn (d a b : SReg) (s : State) : Host.Outcome State Fault Refusal :=
  s.setReg d fun g => let a := g.sreg a; let b := g.sreg b; sremN a b

/-- SAND (R103). -/
def execSand (d a b : SReg) (s : State) : Host.Outcome State Fault Refusal :=
  s.setReg d fun g => let a := g.sreg a; let b := g.sreg b; a &&& b

/-- SOR (R103). -/
def execSor (d a b : SReg) (s : State) : Host.Outcome State Fault Refusal :=
  s.setReg d fun g => let a := g.sreg a; let b := g.sreg b; a ||| b

/-- SXOR (R103). -/
def execSxor (d a b : SReg) (s : State) : Host.Outcome State Fault Refusal :=
  s.setReg d fun g => let a := g.sreg a; let b := g.sreg b; a ^^^ b

/-- SSHL (R103). -/
def execSshl (d a b : SReg) (s : State) : Host.Outcome State Fault Refusal :=
  s.setReg d fun g => let a := g.sreg a; let b := g.sreg b; a <<< shCount b

/-- SSHR (R103). -/
def execSshr (d a b : SReg) (s : State) : Host.Outcome State Fault Refusal :=
  s.setReg d fun g => let a := g.sreg a; let b := g.sreg b; a >>> shCount b

/-- SSRA (R103). -/
def execSsra (d a b : SReg) (s : State) : Host.Outcome State Fault Refusal :=
  s.setReg d fun g => let a := g.sreg a; let b := g.sreg b; a.sshiftRight (shCount b)

/-- SMIN (R103). -/
def execSmin (d a b : SReg) (s : State) : Host.Outcome State Fault Refusal :=
  s.setReg d fun g => let a := g.sreg a; let b := g.sreg b; if a.toInt ≤ b.toInt then a else b

/-- SMINN (R103). -/
def execSminn (d a b : SReg) (s : State) : Host.Outcome State Fault Refusal :=
  s.setReg d fun g => let a := g.sreg a; let b := g.sreg b; if a.toNat ≤ b.toNat then a else b

/-- SMAX (R103). -/
def execSmax (d a b : SReg) (s : State) : Host.Outcome State Fault Refusal :=
  s.setReg d fun g => let a := g.sreg a; let b := g.sreg b; if b.toInt ≤ a.toInt then a else b

/-- SMAXN (R103). -/
def execSmaxn (d a b : SReg) (s : State) : Host.Outcome State Fault Refusal :=
  s.setReg d fun g => let a := g.sreg a; let b := g.sreg b; if b.toNat ≤ a.toNat then a else b

/-- SSLT (R103). -/
def execSslt (d a b : SReg) (s : State) : Host.Outcome State Fault Refusal :=
  s.setReg d fun g => let a := g.sreg a; let b := g.sreg b; w1 (a.toInt < b.toInt)

/-- SSLTN (R103). -/
def execSsltn (d a b : SReg) (s : State) : Host.Outcome State Fault Refusal :=
  s.setReg d fun g => let a := g.sreg a; let b := g.sreg b; w1 (a.toNat < b.toNat)

/-- SEQ (R103). -/
def execSeq (d a b : SReg) (s : State) : Host.Outcome State Fault Refusal :=
  s.setReg d fun g => let a := g.sreg a; let b := g.sreg b; w1 (a = b)

/-- SPOPC (R103). -/
def execSpopc (d a : SReg) (s : State) : Host.Outcome State Fault Refusal :=
  s.setReg d fun g => BitVec.ofNat 64 (popcount 64 (g.sreg a).toNat)

/-- SCLZ (R103). -/
def execSclz (d a : SReg) (s : State) : Host.Outcome State Fault Refusal :=
  s.setReg d fun g => BitVec.ofNat 64 (clz 64 (g.sreg a).toNat)

/-- SLEA (R103). -/
def execSlea (d a b : SReg) (k : BitVec 2) (s : State) : Host.Outcome State Fault Refusal :=
  s.setReg d fun g => g.sreg a + (g.sreg b <<< k.toNat)

/-- SADDI (R105). -/
def execSaddi (d a : SReg) (i : BitVec 13) (s : State) : Host.Outcome State Fault Refusal :=
  s.setReg d fun g => let a := g.sreg a; a + sx i

/-- SANDI (R105). -/
def execSandi (d a : SReg) (i : BitVec 13) (s : State) : Host.Outcome State Fault Refusal :=
  s.setReg d fun g => let a := g.sreg a; a &&& sx i

/-- SORI (R105). -/
def execSori (d a : SReg) (i : BitVec 13) (s : State) : Host.Outcome State Fault Refusal :=
  s.setReg d fun g => let a := g.sreg a; a ||| sx i

/-- SXORI (R105). -/
def execSxori (d a : SReg) (i : BitVec 13) (s : State) : Host.Outcome State Fault Refusal :=
  s.setReg d fun g => let a := g.sreg a; a ^^^ sx i

/-- SSHLI (R105). -/
def execSshli (d a : SReg) (n : BitVec 6) (s : State) : Host.Outcome State Fault Refusal :=
  s.setReg d fun g => let a := g.sreg a; a <<< n.toNat

/-- SSHRI (R105). -/
def execSshri (d a : SReg) (n : BitVec 6) (s : State) : Host.Outcome State Fault Refusal :=
  s.setReg d fun g => let a := g.sreg a; a >>> n.toNat

/-- SSRAI (R105). -/
def execSsrai (d a : SReg) (n : BitVec 6) (s : State) : Host.Outcome State Fault Refusal :=
  s.setReg d fun g => let a := g.sreg a; a.sshiftRight n.toNat

/-- SSLTI (R105). -/
def execSslti (d a : SReg) (i : BitVec 13) (s : State) : Host.Outcome State Fault Refusal :=
  s.setReg d fun g => let a := g.sreg a; w1 (a.toInt < (sx i).toInt)

/-- SSLTNI (R105). -/
def execSsltni (d a : SReg) (i : BitVec 13) (s : State) : Host.Outcome State Fault Refusal :=
  s.setReg d fun g => let a := g.sreg a; w1 (a.toNat < (sx i).toNat)

/-- SMULI (R105). -/
def execSmuli (d a : SReg) (i : BitVec 13) (s : State) : Host.Outcome State Fault Refusal :=
  s.setReg d fun g => let a := g.sreg a; a * sx i

/-- SLI (R106). -/
def execSli (d : SReg) (i : BitVec 19) (s : State) : Host.Outcome State Fault Refusal := s.setReg d fun _ => sx i

/-- SLX (R106). -/
def execSlx (d : SReg) (i : BitVec 19) (s : State) : Host.Outcome State Fault Refusal :=
  s.setReg d fun g => (g.sreg d <<< 19) ||| i.zeroExtend 64

/-! ### Branches and jumps -/

/-- A compare-and-branch word (R107). -/
def State.branchIf (s : State) (a b : SReg) (i : BitVec 13) (cond : Word64 → Word64 → Bool) :
    Host.Outcome State Fault Refusal :=
  s.issue fun u g =>
    if cond (g.sreg a) (g.sreg b) then s.retire u (g.spc + sx i * 4) else s.advance u

/-- SBEQ (R107). -/
def execSbeq (a b : SReg) (i : BitVec 13) (s : State) : Host.Outcome State Fault Refusal :=
  s.branchIf a b i fun a b => a = b

/-- SBNE (R107). -/
def execSbne (a b : SReg) (i : BitVec 13) (s : State) : Host.Outcome State Fault Refusal :=
  s.branchIf a b i fun a b => a ≠ b

/-- SBLT (R107). -/
def execSblt (a b : SReg) (i : BitVec 13) (s : State) : Host.Outcome State Fault Refusal :=
  s.branchIf a b i fun a b => a.toInt < b.toInt

/-- SBGE (R107). -/
def execSbge (a b : SReg) (i : BitVec 13) (s : State) : Host.Outcome State Fault Refusal :=
  s.branchIf a b i fun a b => b.toInt ≤ a.toInt

/-- SBLTN (R107). -/
def execSbltn (a b : SReg) (i : BitVec 13) (s : State) : Host.Outcome State Fault Refusal :=
  s.branchIf a b i fun a b => a.toNat < b.toNat

/-- SBGEN (R107). -/
def execSbgen (a b : SReg) (i : BitVec 13) (s : State) : Host.Outcome State Fault Refusal :=
  s.branchIf a b i fun a b => b.toNat ≤ a.toNat

/-- SLOOP (R108). -/
def execSloop (a : SReg) (i : BitVec 13) (s : State) : Host.Outcome State Fault Refusal :=
  s.issue fun u g =>
    let c := g.sreg a - 1
    let s := s.setGang u (g.setS a c)
    if c ≠ 0 then s.retire u (g.spc + sx i * 4) else s.advance u

/-- SJ (R109). -/
def execSj (i : BitVec 25) (s : State) : Host.Outcome State Fault Refusal :=
  s.issue fun u g => s.retire u (g.spc + sx i * 4)

/-- SJAL (R109). -/
def execSjal (i : BitVec 25) (s : State) : Host.Outcome State Fault Refusal :=
  s.issue fun u g => (s.setGang u (g.setS 63 (g.spc + 4))).retire u (g.spc + sx i * 4)

/-- A jump to a register (R110): ALIGN, then XLAT, then the link and the target. -/
def State.jumpReg (s : State) (d : Option SReg) (a : SReg) (i : BitVec 13) : Host.Outcome State Fault Refusal :=
  s.issue fun u g =>
    let t := g.sreg a + sx i
    if t.toNat % 4 ≠ 0 then s.scalarTrap u cALIGN t.toNat 0 0
    else if 2 ^ 57 ≤ t.toNat then s.scalarTrap u cXLAT t.toNat 7 accFetch
    else
      let s := match d with
        | some d => s.setGang u (g.setS d (g.spc + 4))
        | none => s
      s.retire u t

/-- SJR (R110). -/
def execSjr (a : SReg) (i : BitVec 13) (s : State) : Host.Outcome State Fault Refusal := s.jumpReg none a i

/-- SJALR (R110). -/
def execSjalr (d a : SReg) (i : BitVec 13) (s : State) : Host.Outcome State Fault Refusal := s.jumpReg (some d) a i

end Sys2Proof.Machine
end

