-- ==== Sys2Proof/Machine/Security.lean ====
section
/-!
DEFINITION. TDISP states, configuration requests and the SPDM requests of the dies (R402, R403, R411).
-/

namespace Sys2Proof.Machine

/-! ### TDISP (R402; notes/assumptions/15.md) -/

/-- A virtual function. -/
def isVf (f : Nat) : Bool := 1 ≤ f && f ≤ 64

/-- TDISP_CONFIG_LOCKED. -/
def execTdispConfigLocked (f : Nat) (s : State) : Host.Outcome State Fault Refusal :=
  .next (if isVf f && s.tdispOf f = .unlocked then { s with tdisp := Tbl.put s.tdisp f .locked } else s)

/-- TDISP_RUN. -/
def execTdispRun (f : Nat) (s : State) : Host.Outcome State Fault Refusal :=
  .next (if isVf f && s.tdispOf f = .locked then { s with tdisp := Tbl.put s.tdisp f .run } else s)

/-- TDISP_CONFIG_UNLOCKED: the only way out of ERROR. -/
def execTdispConfigUnlocked (f : Nat) (s : State) : Host.Outcome State Fault Refusal :=
  .next (if isVf f then { s with tdisp := Tbl.put s.tdisp f .unlocked } else s)

/-- The answer to a configuration request: Retry before bring-up step 6, a refused write in CONFIG_LOCKED and RUN (R402, R411). -/
def State.configAnswer (s : State) (f : Nat) (write : Bool) : Msg :=
  if s.boot < 6 then .retry f else if write && s.locked f then .refusedWrite f else .accepted f

/-- CONFIGURATION_REQUEST: a device whose bring-up has failed gives no answer (R411). -/
def execConfigurationRequest (f : Nat) (write : Bool) (s : State) : Host.Outcome State Fault Refusal :=
  .next (if s.bootFailed.isSome then s else { s with outbox := s.outbox ++ [s.configAnswer f write] })

/-! ### SPDM (R403; notes/assumptions/16.md) -/

/-- The partition that owns a function: that of its contexts (R403; notes/assumptions/16.md). -/
def State.partOfFn (s : State) (f : Nat) : Option Nat := (s.ctxs.find? fun e => e.2.fn = f).map fun e => e.2.part

/-- What stands measured under an index, for a requesting function (R403). -/
def State.measured (s : State) (index f : Nat) : List Nat :=
  match index with
  | 1 => [Config.queenRom]
  | 2 => [s.patch.version, s.patch.digest]
  | 3 => match s.partOfFn f with
    | some p => [(s.part p).fwver, (s.part p).fwdigest]
    | none => []
  | 4 => s.minver :: s.minPatch :: s.spares
  | _ => []

/-- Whether a die answers SPDM requests: from bring-up step 6, and where bring-up has failed (R411). -/
def State.answers (s : State) (die : Nat) : Bool := die < 12 && (6 ≤ s.boot || s.bootFailed.isSome)

/-- An SPDM request with its code answered by a die. -/
def State.spdm (s : State) (die code : Nat) (measured : List Nat := []) : State :=
  if s.answers die then
    { s with outbox := s.outbox ++
        [.spdm die code (Config.spdmAnswer die code (Tbl.atD s.sessions die 0) measured (Config.certificate die))] }
  else s

/-- A session of a die moved on. -/
def State.session (s : State) (die : Nat) (f : Nat → Nat) : State :=
  if s.answers die then { s with sessions := Tbl.put s.sessions die (f (Tbl.atD s.sessions die 0)) } else s

/-- GET_VERSION. -/
def execGetVersion (die : Nat) (s : State) : Host.Outcome State Fault Refusal := .next (s.spdm die 0x84)
/-- GET_CAPABILITIES. -/
def execGetCapabilities (die : Nat) (s : State) : Host.Outcome State Fault Refusal := .next (s.spdm die 0xE1)
/-- NEGOTIATE_ALGORITHMS. -/
def execNegotiateAlgorithms (die : Nat) (s : State) : Host.Outcome State Fault Refusal := .next (s.spdm die 0xE3)
/-- GET_DIGESTS. -/
def execGetDigests (die : Nat) (s : State) : Host.Outcome State Fault Refusal := .next (s.spdm die 0x81)
/-- GET_CERTIFICATE. -/
def execGetCertificate (die : Nat) (s : State) : Host.Outcome State Fault Refusal := .next (s.spdm die 0x82)
/-- CHALLENGE. -/
def execChallenge (die : Nat) (s : State) : Host.Outcome State Fault Refusal := .next (s.spdm die 0x83)
/-- GET_MEASUREMENTS of an index, by a function. -/
def execGetMeasurements (x : MeasRequest) (s : State) : Host.Outcome State Fault Refusal := .next (s.spdm x.die 0xE0 (s.measured x.index x.fn))

/-- KEY_EXCHANGE: a session begins; an odd number stands for one that FINISH has not completed. -/
def execKeyExchange (die : Nat) (s : State) : Host.Outcome State Fault Refusal :=
  .next ((s.spdm die 0xE4).session die fun n => if n % 2 = 0 then n + 1 else n)

/-- FINISH: the session that has begun is complete. -/
def execFinish (die : Nat) (s : State) : Host.Outcome State Fault Refusal :=
  .next ((s.spdm die 0xE5).session die fun n => if n % 2 = 1 then n + 1 else n)

/-- The operator raises the fused minimum of worker images, or of queen patches; it never falls (R405). -/
def State.raiseMin (s : State) (worker : Bool) (v : Nat) : State :=
  if worker then { s with minver := if s.minver < v then v else s.minver } else { s with minPatch := if s.minPatch < v then v else s.minPatch }

end Sys2Proof.Machine
end

