-- ==== Sys2Proof/Machine/TaskRun.lean ====
section
/-!
DEFINITION. The tile tasks as the matrix engines run them (R64 to R72, R94, R191 to R197, R200 to R203, R208, R336, R337).
-/

namespace Sys2Proof.Machine

/-! ### Starting (R192, R336) -/

def State.modTask (s : State) (t q : Nat) (f : Task → Task) : State :=
  s.modTeam t fun x => { x with tasks := x.tasks.map fun (k : Task) => if k.enq = q then f k else k }

def State.dropTask (s : State) (t q : Nat) : State :=
  s.modTeam t fun x => { x with tasks := x.tasks.filter fun (k : Task) => k.enq ≠ q }

def State.findTask (s : State) (t q : Nat) : Option Task := (s.team t).tasks.find? fun (k : Task) => k.enq = q

/-- Whether an unfinished task with a lower enqueue number conflicts on a tile (R192). -/
def Team.taskBlocked (x : Team) (k : Task) : Bool :=
  let a := TaskRec.of k.rcd
  x.tasks.any fun j =>
    let b := TaskRec.of j.rcd
    j.enq < k.enq && (b.writes.any (fun n => a.reads.contains n || a.writes.contains n) || b.reads.any a.writes.contains)

/-- Whether a task may start (R192). -/
def Team.startable (x : Team) (k : Task) : Bool :=
  k.engine.isNone && k.fault.isNone && k.wait0 && k.wait1 && !x.taskBlocked k && (k.ctv = x.ctCur.version || k.ctv = x.ctOld.version)

/-- The engines of a region that run tasks. -/
def State.busyEngines (s : State) (r : Nat) : List Nat :=
  (Tbl.keysOf s.teams fun t => regionOfCore t.core = r).flatMap fun t => (s.team t).tasks.filterMap fun (k : Task) => k.engine

/-- The next task for a free engine: of the next team in rotation that has a startable task, the lowest numbered. -/
def State.nextTaskFor (s : State) (r : Nat) : Option (Nat × Task) :=
  (s.rotation r (s.region r).rotTask).findSome? fun t =>
    ((sortBy (fun (a b : Task) => a.enq ≤ b.enq) (s.team t).tasks).find? (s.team t).startable).map fun k => (t, k)

/-- The unit exponent of a format code (R61). -/
def unitOf (code : Nat) : Int := ((MFmt.ofCode code).map MFmt.unit).getD 0

/-- The metadata word of tile `n` of a team's grant. -/
def State.metaOf (s : State) (t n : Nat) : Nat := s.tileMeta (s.team t).core ((s.team t).tileBase + n)

/-- Whether the tiles are in the modes that a task asks for when it starts (R67, R195, R196). -/
def State.tilesOk (s : State) (t : Nat) (x : TaskRec) : Bool :=
  let mode := fun n => metaMode (s.metaOf t n)
  match x.opc with
  | 1 =>
    x.writes.all (fun n => mode n = tmClear || (mode n = tmResidue && metaUnit (s.metaOf t n) = unitOf x.fa + unitOf x.fb)) &&
      x.reads.all fun n => mode n ≤ 2
  | 2 => x.reads.all fun n => mode n ≤ 2
  | 3 => x.reads.all (fun n => mode n = tmPlane) && (mode x.dst = tmClear || mode x.dst = tmF32)
  | 5 => x.reads.all fun n => mode n = tmResidue || mode n = tmPlane
  | _ => true

/-- A task given up after its acceptance: ERR on SIG, and a deferred TASKFMT (R175, R196). -/
def State.abandon (s : State) (t : Nat) (k : Task) : State :=
  let x := TaskRec.of k.rcd
  let s := (s.dropTask t k.enq).modTeam t fun y => { y with deferred := y.deferred ++ [(k.gang, k.gidx, k.soff)] }
  match tagField x.sig with
  | some n => s.tagSub t n x.bytes true []
  | none => s

/-- TASK_START: a free engine of region `r` takes a task; one that finds its tiles in a wrong mode is given up (R192, R195, R196, R336). -/
def execTaskStart (r : Nat) (s : State) : Host.Outcome State Fault Refusal :=
  if s.stopped then .next s
  else match (List.range 8).find? fun e => !(s.busyEngines r).contains e with
    | none => .next s
    | some e =>
      match s.nextTaskFor r with
      | none => .next s
      | some (t, k) =>
        let s := s.modRegion r fun x => { x with rotTask := s.rotKey t }
        if k.prog = 0 && !s.tilesOk t (TaskRec.of k.rcd) then .next (s.abandon t k)
        else .next (s.modTask t k.enq fun k => { k with engine := some e })

/-! ### Operands (R90, R91, R94, R195) -/

/-- K blocks a step of MXP covers (R193). -/
def TaskRec.kappa (x : TaskRec) : Nat := if x.opc = 1 && fourBit x.fa && fourBit x.fb then 2 else 1

/-- Steps of a task counted in blocks, planes or tiles (R193). -/
def TaskRec.blocks (x : TaskRec) : Nat := if x.opc ≤ 3 then x.kext / 8 else x.nw + 1

/-- The codes of an operand by row (of A) or column (of B) and K index, with the mark of a poisoned byte. -/
abbrev Codes := Nat → Nat → Nat × Bool

/-- What an operand's reads come to. -/
inductive Opnd where
  | wait (s : State)
  | fault (s : State) (fk va : Nat)
  | broken
  | codes (s : State) (f : Codes)

/-- The code of `f` in a byte, for element `k` of a row (R43). -/
def codeIn (f b k : Nat) : Nat := if fourBit f then b / 16 ^ (k % 2) % 16 else b

/-- The codes of a scratchpad operand (R90). -/
def State.scratchCodes (s : State) (t : Nat) (x : TaskRec) (isA : Bool) : Codes := fun row k =>
  let f := if isA then x.fa else x.fb
  let o := if isA then x.aloc + row * x.astr + elemByte f k else x.bloc + k * x.bstr + elemByte f row
  let (bs, bad) := s.readScratch t o 1
  (codeIn f (natOf bs) (if isA then k else row), bad)

/-- The byte address of an element of a tensor operand, and which nibble holds it, none beyond the bounds (R91). -/
def TensorRec.byteOf (x : TensorRec) (row k : Nat) : Option (Nat × Nat) :=
  (x.bitAt row k).map fun b => (wrapN 64 ((x.base : Int) + b / 8), (b % 8).toNat)

/-- The virtual lines that `rows` rows or columns of a tensor operand have for the K indexes `ks`. -/
def TensorRec.linesOf (x : TensorRec) (rows : Nat) (ks : List Nat) : List Nat :=
  dedup ((List.range rows).flatMap fun i => ks.filterMap fun kk => (x.byteOf i kk).map (·.1 / 128))

/-- A line of virtual memory read by a task: its 128 bytes, and whether one is poisoned. -/
abbrev VLine := Nat × (List Byte × Bool)

/-- Lines of virtual addresses read for a task through the walk-ahead TLB. -/
def State.taskLines (s : State) (t r : Nat) (k : Task) (lines : List Nat) :
    State × Option (Nat × Nat) × Bool × List VLine :=
  let asid := s.asidOfTeam t
  let who : Asker := .task t k.enq
  let (s, pas, bad) := lines.foldl (fun (x : State × List (Nat × Nat × Nat) × Option (Nat × Nat)) l =>
    match x.2.2 with
    | some _ => x
    | none =>
      match x.1.engineXl who r asid (128 * l) .load with
      | (s, .ok pa _ _) => (s, x.2.1 ++ [(128 * l, pa, 128)], none)
      | (s, .bad f) => (s, x.2.1, some (f, 128 * l))) (s, [], none)
  match bad with
  | some e => (s, some e, false, [])
  | none =>
    match s.askRange who t asid r pas with
    | (s, true) => (s, none, true, [])
    | (s, false) =>
      let got := pas.foldl (fun (x : State × List Nat × List VLine) p =>
        let (s, seen, bs, b) :=
          if isPeer p.2.1 then
            match x.1.peerRead who t asid r p.2.1 128 x.2.1 with
            | .wait s => (s, x.2.1, bytesOf 128 0, false)
            | .bytes s seen bs b => (s, seen, bs, b)
          else x.1.homeRead asid p.2.1 128 x.2.1
        (s, seen, x.2.2 ++ [(p.1 / 128, bs, b)])) (s, [], [])
      (got.1, none, false, got.2.2)

/-- The outcome of capturing a task's tensor records. -/
inductive Captured where
  | wait (s : State)
  | fault (s : State) (fk va : Nat)
  | ready (s : State) (k : Task)

/-- The record of a tensor operand, captured when the first step begins and kept whatever becomes of the step (R94). One with a poisoned byte is captured
as empty. -/
def State.captureTensor (s : State) (t r : Nat) (k : Task) (isA : Bool) : Captured :=
  let x := TaskRec.of k.rcd
  let loc := if isA then x.aloc else x.bloc
  let keep := fun (y : Task) (bs : List Byte) => if isA then { y with tensA := some bs } else { y with tensB := some bs }
  if (if isA then x.akind else x.bkind) ≠ 1 || (if isA then k.tensA else k.tensB).isSome then .ready s k
  else
    match s.taskLines t r k [loc % 2 ^ 64 / 128] with
    | (s, some e, _, _) => .fault s e.1 e.2
    | (s, none, true, _) => .wait s
    | (s, none, false, l) =>
      let got := (l.head?).getD (0, [], true)
      let bs := if got.2.2 then [] else (got.2.1.drop (loc % 128)).take 64
      .ready (s.modTask t k.enq fun y => keep y bs) (keep k bs)

/-- The codes of a tensor operand for `rows` rows or columns and the K indexes `ks` (R91). An element beyond EXT reads as zero and is not fetched; with a
poisoned record every element is poisoned. -/
def State.tensorCodes (s : State) (t r : Nat) (k : Task) (x : TaskRec) (isA : Bool) (ks : List Nat) : Opnd :=
  let loc := if isA then x.aloc else x.bloc
  let rows := if isA then 32 else x.cols
  let f := if isA then x.fa else x.fb
  let bs := ((if isA then k.tensA else k.tensB)).getD []
  if bs.isEmpty then .codes s fun _ _ => (0, true)
  else if !tensorOk bs loc rows x.kext then .broken
  else
    let y := TensorRec.of bs
    match s.taskLines t r k (y.linesOf rows ks) with
    | (s, some e, _, _) => .fault s e.1 e.2
    | (s, none, true, _) => .wait s
    | (s, none, false, lines) =>
      .codes s fun row kk =>
        match y.byteOf row kk with
        | none => (0, false)
        | some (a, nib) =>
          match lines.find? fun e => e.1 = a / 128 with
          | some (_, lb, bad) =>
            let b := byteAt lb (a % 128) / 2 ^ nib
            (if y.esize = 0 || fourBit f then b % 16 else b % 256, bad)
          | none => (0, false)

/-- The codes of operand A or B for a step, when it lies in scratchpad or in a tensor. -/
def State.operandCodes (s : State) (t r : Nat) (k : Task) (x : TaskRec) (isA : Bool) (ks : List Nat) : Opnd :=
  match (if isA then x.akind else x.bkind) with
  | 0 => .codes s (s.scratchCodes t x isA)
  | 1 => s.tensorCodes t r k x isA ks
  | _ => .codes s fun _ _ => (0, false)

/-- The lines of the tensor operands that a task's next two steps will touch, translated ahead (R295). -/
def State.taskAhead (s : State) (t r : Nat) (k : Task) (n : Nat) : State :=
  let x := TaskRec.of k.rcd
  let left := x.blocks - k.prog - n
  let ks := (List.range (8 * (if 2 * n < left then 2 * n else left))).map (8 * (k.prog + n) + ·)
  let pages := fun (isA : Bool) =>
    let bs := ((if isA then k.tensA else k.tensB)).getD []
    if (if isA then x.akind else x.bkind) ≠ 1 || bs.isEmpty then []
    else dedup (((TensorRec.of bs).linesOf (if isA then 32 else x.cols) ks).map (· / 512 * 65536))
  s.walkAhead r (s.asidOfTeam t) .load (dedup (pages true ++ pages false))

/-! ### Elements (R61, R70, R195, R197) -/

/-- An element as an exact integer, none when it is a NaN or a reserved code, with the flags it raises and the mark of poison. -/
structure Elem where
  q : Option Int
  fl : Flags
  bad : Bool
  deriving DecidableEq, Repr

/-- The code table a task uses (R199). -/
def Team.tableOf (x : Team) (ctv : Nat) : CodeTable := if x.ctCur.version = ctv then x.ctCur else x.ctOld

/-- An element from its code: a poisoned byte reads as a NaN. -/
def Team.element (x : Team) (ctv f : Nat) (c : Nat × Bool) : Elem :=
  if c.2 then ⟨none, 0, true⟩
  else match MFmt.ofCode f with
    | none => ⟨none, 0, false⟩
    | some m =>
      let y := x.tableOf ctv
      let (q, res) := m.expand y.entries y.reserved c.1
      ⟨q, if res then fNV else 0, false⟩

/-- The rounding mode of a task (R68). -/
def Task.rm (k : Task) : Rm := rmOfMode (recordRm (TaskRec.of k.rcd).rnd k.rmd)

/-- An element of A through the down-converter (R70). -/
def State.downConvert (s : State) (t : Nat) (k : Task) (x : TaskRec) (i kk : Nat) : Elem :=
  let tile := (s.team t).tileBase + x.aloc + kk / 32
  let core := (s.team t).core
  let m := s.tileMeta core tile
  let e := s.accSlot core tile (32 * i + kk % 32)
  if metaMode m = tmClear then ⟨some 0, 0, false⟩
  else if slotPsn e then ⟨none, 0, false⟩
  else
    let r := convSlot e (metaUnit m + x.dsh) (if x.fa = 2 then .narrow .e4m3 else .int true 8) k.rm x.sat
    let y := (s.team t).element k.ctv x.fa (r.bits, false)
    ⟨y.q, r.flags, false⟩

/-! ### Steps -/

/-- Where slot `i` of tile `n` of a team's grant is. -/
def State.slotAt (s : State) (t n i : Nat) : Nat := s.accSlot (s.team t).core ((s.team t).tileBase + n) i

/-- A tile written whole from its slots. -/
def State.putTile (s : State) (t n : Nat) (slots : List Nat) : State :=
  { s with acc := Mem.write s.acc (accAddr (s.team t).core ((s.team t).tileBase + n) 0) (slots.flatMap (bytesOf 8)) }

def State.putMeta (s : State) (t n v : Nat) : State := s.setMeta (s.team t).core ((s.team t).tileBase + n) v

/-- Distinct 128-byte lines that `rows` rows of `n` bytes touch. -/
def rowLines (base stride rows n : Nat) : Nat :=
  (dedup ((List.range rows).flatMap fun r => (cutsOf 128 (base + r * stride) n).map (·.1 / 128))).length

/-- The charge of the scratchpad operands and scale vectors of a task (R208). -/
def TaskRec.scratchEu (x : TaskRec) : Nat :=
  let a := if x.isMx && x.akind = 0 then rowLines x.aloc x.astr 32 (elemByte x.fa (x.kext - 1) + 1) else 0
  let b := if x.isMx && x.bkind = 0 then rowLines x.bloc x.bstr x.kext (elemByte x.fb (x.cols - 1) + 1) else 0
  let c := if x.opc = 3 then rowLines x.sasc 0 1 512 + rowLines x.sbsc 0 1 512 else 0
  wStore * (a + b + c)

/-- A step's charge, and the scratchpad reads with the first step. -/
def State.chargeStep (s : State) (t r : Nat) (k : Task) (n : Nat) : State :=
  s.charge (s.asidOfTeam t) r (n + if k.prog = 0 then (TaskRec.of k.rcd).scratchEu else 0)

/-- ERR set on a tag (R175). -/
def State.tagErr (s : State) (t n : Nat) : State := s.modTeam t fun x => x.setTag n { x.tag n with err := true }

/-- What a step found: its flags added to its task's, ERR set on SIG where it read poison, and its progress (R193, R195, R337). -/
def State.progress (s : State) (t : Nat) (k : Task) (n : Nat) (fl : Flags) (bad : Bool) : State :=
  let s := s.modTask t k.enq fun k => { k with prog := k.prog + n, flags := k.flags ||| fl }
  match (if bad then tagField (TaskRec.of k.rcd).sig else none) with
  | some m => s.tagErr t m
  | none => s

/-- One step of MXP or MXB on elements of A by (row, K) and of B by (K, column) (R64, R195, R197). PSN of a plane's entry is that of its own block
(DEDUCED, notes/assumptions/129.md); the metadata follow at completion (R194; notes/assumptions/64.md). -/
def State.mxStep (s : State) (t r : Nat) (k : Task) (x : TaskRec) (ks : List Nat) (a b : Nat → Nat → Elem) : State :=
  let plane := x.opc = 2
  let rows := (List.range 32).map fun i => ks.map (a i)
  let cols := (List.range x.cols).map fun j => ks.map fun kk => b kk j
  let fl := (rows ++ cols).flatten.foldl (fun (f : Flags) e => f ||| e.fl) 0
  let bad := (rows ++ cols).flatten.any (·.bad)
  let groups := (rows.filter fun l => l.any fun e => e.q.getD 0 ≠ 0).length
  let sum := fun (l m : List Elem) => (l.zip m).foldl (fun (z : Int) e => z + e.1.q.getD 0 * e.2.q.getD 0) 0
  let psn := fun (l : List Elem) => l.any fun e => e.q.isNone
  let colPsn := cols.map psn
  let s := (List.range (x.cols / 32)).foldl (fun (s : State) n =>
    let tile := if plane then x.dst + k.prog else x.dst + n
    let slots := rows.zipIdx.flatMap fun (l, i) =>
      let p := psn l
      ((cols.zip colPsn).drop (32 * n)).take 32 |>.zipIdx.map fun (c, j) =>
        slotAdd (if plane then 0 else s.slotAt t tile (32 * i + j)) (sum l c.1) (p || c.2)
    s.putTile t tile slots) s
  let s := s.chargeStep t r k ((if plane then 20 else 32) * groups)
  s.progress t k (ks.length / 8) fl bad

/-- One plane added into the f32 plane (R71, R200). A poisoned scale reads as a NaN. -/
def State.scaccStep (s : State) (t r : Nat) (k : Task) (x : TaskRec) : State :=
  let b := k.prog
  let tile := x.aloc + b
  let unit := metaUnit (s.metaOf t tile)
  let zero := b = 0 && metaMode (s.metaOf t x.dst) = tmClear
  let scale := fun (base i : Nat) =>
    let (bs, bad) := s.readScratch t (base + 16 * i + b) 1
    (if bad then 255 else natOf bs, bad)
  let sa := (List.range 32).map (scale x.sasc)
  let sb := (List.range 32).map (scale x.sbsc)
  let one := fun (i j : Nat) (va vb : Nat) =>
    let old := if zero then 0 else s.slotAt t x.dst (32 * i + j) % 2 ^ 32
    let e := slotCheck (s.slotAt t tile (32 * i + j))
    let nan : FRes := ⟨Fmt.f32.qnan, 0⟩
    if va = 255 || vb = 255 then ⟨Fmt.f32.qnan, fNV⟩
    else if slotPsn e || (Fmt.f32.decode old).isNan then nan
    else
      let q := recon e
      Fmt.f32.add k.rm false (Fmt.f32.decode old) (.fin (q < 0) q.natAbs (unit + va + vb - 254))
  let res := (sa.zipIdx.flatMap fun (a, i) => sb.zipIdx.map fun (c, j) => one i j a.1 c.1)
  let s := s.putTile t x.dst (res.map (·.bits))
  let s := s.chargeStep t r k 128
  s.progress t k 1 (res.foldl (fun (f : Flags) e => f ||| e.flags) 0) ((sa ++ sb).any (·.2))

/-- One tile of ACCZ, ACCCV or ACCMOV (R201 to R203); its metadata follow when the task completes (R194). The tile of DST comes first, so that with
DST = ALOC + 1 the second tile is read as the first step left it (DESIGN CHOICE, notes/assumptions/64.md). -/
def State.tileStep (s : State) (t r : Nat) (k : Task) (x : TaskRec) : State :=
  let d := x.dst + k.prog
  let a := x.aloc + k.prog
  let m := s.metaOf t a
  let src := (List.range 1024).map (s.slotAt t a)
  let (slots, fl) : List Nat × Flags :=
    match x.opc with
    | 4 => (List.replicate 1024 0, 0)
    | 5 =>
      let f32 := x.fa = 0
      let res := src.map fun e => convSlot e (metaUnit m) (if f32 then .bin .f32 false else .int true 64) k.rm true
      (res.map (·.bits), res.foldl (fun (f : Flags) e => f ||| e.flags) 0)
    | _ => (src, 0)
  let s := s.putTile t d slots
  (s.chargeStep t r k 128).progress t k 1 fl false

/-- The metadata that ACCZ, ACCCV and ACCMOV leave at their end (R194, R201 to R203). -/
def State.tileMetas (s : State) (t : Nat) (x : TaskRec) : State :=
  (List.range (x.nw + 1)).foldl (fun (s : State) i =>
    s.putMeta t (x.dst + i) (match x.opc with
      | 4 => 0
      | 5 => if x.fa = 0 then tmF32 else tmI64
      | _ => s.metaOf t (x.aloc + i))) s

/-- The end of a task, in the order of R194. -/
def State.taskDone (s : State) (t : Nat) (k : Task) : State :=
  let x := TaskRec.of k.rcd
  let unit := unitOf x.fa + unitOf x.fb
  let s :=
    match x.opc with
    | 1 | 2 =>
      let s := x.writes.foldl (fun (s : State) n => s.putTile t n ((List.range 1024).map fun i => slotCheck (s.slotAt t n i))) s
      x.writes.zipIdx.foldl (fun (s : State) (e : Nat × Nat) =>
        let blk := if x.opc = 2 then e.2 else bits (s.metaOf t e.1) 23 16
        s.putMeta t e.1 (mkMeta (if x.opc = 2 then tmPlane else tmResidue) x.fa x.fb blk unit)) s
    | 3 => if metaMode (s.metaOf t x.dst) = tmClear then s.putMeta t x.dst tmF32 else s
    | _ => s.tileMetas t x
  let s := match Tbl.at? s.gangs k.gang with
    | some g => if g.isTpl then s else s.raise k.gang k.flags
    | none => s
  let s := s.dropTask t k.enq
  match tagField x.sig with
  | some n => s.tagSub t n x.bytes false []
  | none => s

/-- A task that has made its last step completes. -/
def State.taskCheck (s : State) (t q : Nat) : State :=
  match s.findTask t q with
  | some k => if (TaskRec.of k.rcd).blocks ≤ k.prog then s.taskDone t k else s
  | none => s

/-- Both tensor records of a task captured (R94). -/
def State.captureBoth (s : State) (t r : Nat) (k : Task) : Captured :=
  match s.captureTensor t r k true with
  | .ready s k => s.captureTensor t r k false
  | x => x

/-- One step of a task that has an engine (R193); a fault of an operand takes a slot and the step waits (R183, R195). -/
def State.taskStep (s : State) (t : Nat) (k : Task) : State :=
  let x := TaskRec.of k.rcd
  let r := regionOfCore (s.team t).core
  let stop := fun (s : State) (fk va : Nat) => s.engineFault t k.gidx (.task t k.enq) 3 fk 4 va
  let left := x.blocks - k.prog
  let n := if x.kappa < left then x.kappa else left
  let ks := (List.range (8 * n)).map (8 * k.prog + ·)
  let s :=
    match x.opc with
    | 1 | 2 =>
      match s.captureBoth t r k with
      | .wait s => s
      | .fault s fk va => stop s fk va
      | .ready s k =>
        match s.operandCodes t r k x true ks with
        | .wait s => s
        | .fault s fk va => stop s fk va
        | .broken => s.abandon t k
        | .codes s' ca =>
          -- The answers for A are used once those for B are there too.
          match s.operandCodes t r k x false ks, s'.operandCodes t r k x false ks with
          | .wait s, _ => s
          | _, .wait s => s
          | _, .fault s fk va => stop s fk va
          | _, .broken => s'.abandon t k
          | _, .codes s cb =>
            let tm := s.team t
            let a := fun i kk => if x.akind = 2 then s.downConvert t k x i kk else tm.element k.ctv x.fa (ca i kk)
            (s.taskAhead t r k n).mxStep t r k x ks a fun kk j => tm.element k.ctv x.fb (cb j kk)
    | 3 => s.scaccStep t r k x
    | _ => s.tileStep t r k x
  s.taskCheck t k.enq

/-- A step of task `q` of team `t`, whose charges land with its end (R346), when it has an engine, does not wait on a fault, and is of a kind `p` admits. -/
def State.stepIf (s : State) (t q : Nat) (p : Nat → Bool) : Host.Outcome State Fault Refusal :=
  match s.findTask t q with
  | none => .next s
  | some k =>
    if k.engine.isSome && k.fault.isNone && (s.enginesRun t || s.stepBusy t k) && !s.stopped && p (TaskRec.of k.rcd).opc then
      let s' := s.taskStep t k
      let going := (s'.findTask t q).any fun j => j.prog = k.prog
      .next ((if going then s.defer s' (.task t q) (s.asidOfTeam t) else s'.finish (· = .task t q)).workEnded t)
    else .next s

/-- TASK_STEP: one step of a task (R193). -/
def execTaskStep (t k : Nat) (s : State) : Host.Outcome State Fault Refusal := s.stepIf t k fun _ => true
/-- MXP (R195). -/
def execMxp (t k : Nat) (s : State) : Host.Outcome State Fault Refusal := s.stepIf t k fun n => n = 1
/-- MXB (R195). -/
def execMxb (t k : Nat) (s : State) : Host.Outcome State Fault Refusal := s.stepIf t k fun n => n = 2
/-- SCACC (R200). -/
def execScacc (t k : Nat) (s : State) : Host.Outcome State Fault Refusal := s.stepIf t k fun n => n = 3
/-- ACCZ (R201). -/
def execAccz (t k : Nat) (s : State) : Host.Outcome State Fault Refusal := s.stepIf t k fun n => n = 4
/-- ACCCV (R202). -/
def execAcccv (t k : Nat) (s : State) : Host.Outcome State Fault Refusal := s.stepIf t k fun n => n = 5
/-- ACCMOV (R203). -/
def execAccmov (t k : Nat) (s : State) : Host.Outcome State Fault Refusal := s.stepIf t k fun n => n = 6

end Sys2Proof.Machine
end

