-- ==== Sys2Proof/Machine/TraceEvents.lean ====
section
/-!
DEFINITION. The draining of the trace buffers and the host side of the trace registers (R412 to R418, R426).
-/

namespace Sys2Proof.Machine

/-! ### Records (R414, R426) -/

/-- Packet lengths after `n` bytes have left, and whether the first is then the rest of a packet. -/
def eatLens : (lens : List Nat) → (n : Nat) → List Nat × Bool
  | [], _ => ([], false)
  | k :: rest, n => if k ≤ n then eatLens rest (n - k) else ((k - n) :: rest, 0 < n)

/-- The buffer after `n` bytes have left. -/
def TraceBuf.eat (b : TraceBuf) (n : Nat) : TraceBuf :=
  let (l, cut) := eatLens b.lens n
  { b with bytes := b.bytes.drop n, lens := l, begun := cut || (n = 0 && b.begun), flush := b.flush && n < b.bytes.length }

/-- A record of the first `n` bytes of a core's buffer. -/
def traceRecord (core n : Nat) (b : TraceBuf) : List Byte :=
  bytesOf 2 (core % 512 + n * 2 ^ 9 + b2n b.begun * 2 ^ 15) ++ b.bytes.take n ++ List.replicate (62 - n) 0

/-- Records of a context's ring. -/
def Ctx.trRecords (c : Ctx) : Nat := 2 ^ (c.trlog + 6)

/-- Why a ring address does not take a record, with the cause of its notice. -/
def State.ringFault (s : State) (asid va : Nat) : Option Nat :=
  match (if 2 ^ 57 ≤ va then Xl.bad 7 else s.walkXl (s.walkOf asid va).2 va .store) with
  | .bad k => some (fkCause k)
  | .ok pa _ _ => if !isPeer pa && poisoned s.memBad pa 64 then some cPOISON else none

/-- A record written to the ring, with its charges (R414). -/
def State.putRecord (s : State) (core asid va : Nat) (bs : List Byte) : State :=
  let s := s.charge asid (regionOfCore core) wCopy
  match s.peekPa asid va with
  | some pa =>
    if isPeer pa then s.peerWrite (.sched asid 0) 0 asid (regionOfCore core) pa bs
    else if isDev pa then (s.touchHome asid pa true []).1.putFor asid pa bs
    else s.putMem pa bs
  | none => s

/-- A record of `n` bytes drained, if the ring takes it; a LOSS enters the room it frees (R415, R426). -/
def State.drainRecord (s : State) (core asid n : Nat) : State :=
  let c := s.ctx asid
  if c.trwait || (c.trtail - c.trhead).toNat = c.trRecords then s
  else
    let va := c.trbase.toNat + 64 * (c.trtail.toNat % c.trRecords)
    match s.ringFault asid va with
    | some cause => (s.modCtx asid fun c => { c with trwait := true }).notice asid cause va 0 0
    | none =>
      let b := s.traceBuf core asid
      let s := ((s.putRecord core asid va (traceRecord core n b)).setTraceBuf core asid (b.eat n)).modCtx asid fun c =>
        { c with trtail := c.trtail + 1 }
      s.tryLoss core asid

/-- TRACE_DRAIN: a full record, when the buffer holds one. -/
def execTraceDrain (core asid : Nat) (s : State) : Host.Outcome State Fault Refusal :=
  if (Tbl.at? s.ctxs asid).isSome && 62 ≤ (s.traceBuf core asid).bytes.length then .next (s.drainRecord core asid 62) else .next s

/-- TRACE_IDLE_FLUSH: every remaining byte, after 1,024 cycles without a packet or when the last traced gang of the context on the core has retired. -/
def execTraceIdleFlush (core asid : Nat) (s : State) : Host.Outcome State Fault Refusal :=
  let b := s.traceBuf core asid
  let n := b.bytes.length
  let idle := b.lastAt + 102400 ≤ (s.region (regionOfCore core)).cycles || b.flush
  if (Tbl.at? s.ctxs asid).isSome && 0 < n && n < 62 && idle then .next (s.drainRecord core asid n) else .next s

/-- TRACE_SYNC_CADENCE: the SYNC that a running gang owes at its boundary (R418). -/
def execTraceSyncCadence (g : Nat) (s : State) : Host.Outcome State Fault Refusal :=
  match Tbl.at? s.gangs g with
  | some x => .next (if s.gangRuns x then s.emitCadence g else s)
  | none => .next s

/-! ### The trace registers of a context (R412 to R414) -/

/-- TRCTL written. -/
def execTrctl (asid : Nat) (v : Word64) (s : State) : Host.Outcome State Fault Refusal :=
  .next (if (Tbl.at? s.ctxs asid).isSome then s.setTrctl asid v.toNat else s)

/-- TRHEAD written. -/
def execTrhead (asid : Nat) (v : Word64) (s : State) : Host.Outcome State Fault Refusal := .next (s.setTrhead asid v.toNat)

/-- TRLOST read: its value is the answer, and it is cleared. -/
def execTrlost (asid : Nat) (s : State) : Host.Outcome State Fault Refusal :=
  match Tbl.at? s.ctxs asid with
  | some _ =>
    let (v, s) := s.takeTrlost asid
    .next { s with outbox := s.outbox ++ [.value (BitVec.ofNat 64 v)] }
  | none => .next s

/-- TRTAIL read by a gang: an acquire of the ring, and its value. -/
def execTrtail (g : Nat) (s : State) : Host.Outcome State Fault Refusal :=
  match Tbl.at? s.gangs g with
  | some x =>
    let v := (s.ctxOf x).trtail
    let s := s.readTrtail g
    .next { s with outbox := s.outbox ++ [.value (v.zeroExtend 64)] }
  | none => .next s

end Sys2Proof.Machine
end

