-- ==== Sys2Proof/Machine/Trans.lean ====
section
/-!
DEFINITION. FTRN (R132): correctly rounded functions. rcp and rsq come from exact integer division and square roots. The others are enclosed between
two rationals computed in fixed point with P bits; P doubles until both ends round to one code.
-/

namespace Sys2Proof.Machine

/-- A rational end of an enclosure: `num / den × 2^e`. -/
structure QEnd where
  num : Int
  den : Nat
  e : Int
  deriving DecidableEq, Repr

/-- A rational rounded once to a format under rne (R132). -/
def QEnd.round (x : QEnd) (f : Fmt) (flush : Bool) : Nat :=
  let k := f.fb + 4 + bitLen x.den
  (f.round .rne flush (x.num < 0) (divJam x.num.natAbs x.den k) (x.e - k - 1)).bits

/-! ### Series in fixed point with `p` bits; each result is a lower and an upper bound -/

/-- Sum of `n` terms t, t·y/1, t·y²/2!, … from term `k`. -/
def expSum (p y : Nat) : (n k t : Nat) → Nat
  | 0, _, _ => 0
  | n + 1, k, t => t + expSum p y n (k + 1) (t * y / 2 ^ p / (k + 1))

/-- exp(y / 2^p) for y < 2 × 2^p. -/
def expBounds (p y : Nat) : Nat × Nat :=
  let n := p / 2 + 16
  let s := expSum p y n 0 (2 ^ p)
  (s, s + 5 * n + 2)

/-- Sum of t/(2k+1) where t shrinks by z² / 2^p a term. -/
def oddSum (p z2 : Nat) : (n k t : Nat) → Nat
  | 0, _, _ => 0
  | n + 1, k, t => t / (2 * k + 1) + oddSum p z2 n (k + 1) (t * z2 / 2 ^ p)

/-- atanh(z) for z in [z/2^p, (z+1)/2^p) and z at most 1/3. -/
def atanhBounds (p z : Nat) : Nat × Nat :=
  let n := p / 3 + 8
  let s := oddSum p (z * z / 2 ^ p) n 0 z
  (s, s + 4 * n + 8)

/-- ln 2. -/
def ln2Bounds (p : Nat) : Nat × Nat :=
  let (a, b) := atanhBounds p (2 ^ p / 3)
  (2 * a, 2 * b)

/-- Alternating sum of t/(2k+1) where t shrinks by `d` a term. -/
def atanSum (d : Nat) : (n k t : Nat) → Int
  | 0, _, _ => 0
  | n + 1, k, t => (t / (2 * k + 1) : Nat) - atanSum d n (k + 1) (t / d)

/-- π. -/
def piBounds (p : Nat) : Nat × Nat :=
  let n := p / 4 + 8
  let s := 16 * atanSum 25 n 0 (2 ^ p / 5) - 4 * atanSum (239 * 239) n 0 (2 ^ p / 239)
  ((s - 40 * n - 40).toNat, (s + 40 * n + 40).toNat)

/-- Alternating sum of t, t·y²/((k+1)(k+2)), … from `k`. -/
def trigSum (p y2 : Nat) : (n k t : Nat) → Int
  | 0, _, _ => 0
  | n + 1, k, t => (t : Int) - trigSum p y2 n (k + 2) (t * y2 / 2 ^ p / ((k + 1) * (k + 2)))

/-- sin(y / 2^p) for y at most 2^p. -/
def sinBounds (p y : Nat) : Int × Int :=
  let n := p / 4 + 16
  let s := trigSum p (y * y / 2 ^ p) n 1 y
  (s - 4 * n - 4, s + 4 * n + 4)

/-- cos(y / 2^p) for y at most 2^p. -/
def cosBounds (p y : Nat) : Int × Int :=
  let n := p / 4 + 16
  let s := trigSum p (y * y / 2 ^ p) n 0 (2 ^ p)
  (s - 4 * n - 4, s + 4 * n + 4)

/-! ### Enclosures of the functions at m × 2^e -/

/-- m × 2^e in fixed point, rounded down. -/
def fixed (p m : Nat) (e : Int) : Nat := if 0 ≤ e + p then m * 2 ^ (e + p).toNat else m / 2 ^ (-(e + p)).toNat

/-- e^±x as M / 2^p × 2^k, for x = m × 2^e below 2^9: the bounds of M, and k. -/
def expEnds (p : Nat) (neg : Bool) (m : Nat) (e : Int) : (Nat × Nat) × Int :=
  let (a, b) := ln2Bounds p
  let x := fixed p m e
  let xi : Int := if neg then -(x + 1 : Nat) else x
  let k : Int := xi / (a : Int) - 1
  let r := fun (c : Nat) => xi - k * c
  let (lo, hi) := if 0 ≤ k then (r b, r a) else (r a, r b)
  (((expBounds p lo.toNat).1, (expBounds p (hi + 2).toNat).2), k)

/-- 2^x for a value that is no integer. -/
def exp2Ends (p : Nat) (neg : Bool) (m : Nat) (e : Int) : QEnd × QEnd :=
  let x : Int := if neg then -(fixed p m e : Int) else fixed p m e
  let n : Int := x / (2 ^ p : Nat)
  let r := (x - n * (2 ^ p : Nat)).toNat
  let (a, b) := ln2Bounds p
  (⟨(expBounds p (r * a / 2 ^ p - 1)).1, 2 ^ p, n⟩, ⟨(expBounds p ((r + 1) * b / 2 ^ p + 1)).2, 2 ^ p, n⟩)

/-- log2 of m × 2^e. -/
def log2Ends (p m : Nat) (e : Int) : QEnd × QEnd :=
  let b := bitLen m
  let n : Int := e + b - 1
  let half := 2 ^ (b - 1)
  let (s, t) := atanhBounds p ((m - half) * 2 ^ p / (m + half))
  let (a, c) := ln2Bounds p
  let lo : Int := n * (2 ^ p : Nat) + (2 * s * 2 ^ p / c : Nat)
  let hi : Int := n * (2 ^ p : Nat) + (2 * t * 2 ^ p / a + 1 : Nat)
  (⟨lo, 2 ^ p, 0⟩, ⟨hi, 2 ^ p, 0⟩)

/-- sig of a value below 2^9. -/
def sigEnds (p : Nat) (neg : Bool) (m : Nat) (e : Int) : QEnd × QEnd :=
  -- With E = e^x = M / 2^p × 2^k: sig = E / (1 + E).
  let ((a, b), k) := expEnds p neg m e
  let end_ := fun (M : Nat) =>
    if 0 ≤ k then (⟨(M * 2 ^ k.toNat : Nat), 2 ^ p + M * 2 ^ k.toNat, 0⟩ : QEnd) else ⟨M, 2 ^ (p + (-k).toNat) + M, 0⟩
  (end_ a, end_ b)

/-- tanh of a positive value below 2^8. -/
def tanhEnds (p m : Nat) (e : Int) : QEnd × QEnd :=
  -- With E = e^2x = M / 2^p × 2^k: tanh = (E - 1) / (E + 1).
  let ((a, b), k) := expEnds p false m (e + 1)
  let end_ := fun (M : Nat) =>
    if 0 ≤ k then (⟨(M * 2 ^ k.toNat : Nat) - (2 ^ p : Nat), M * 2 ^ k.toNat + 2 ^ p, 0⟩ : QEnd)
    else ⟨(M : Int) - (2 ^ (p + (-k).toNat) : Nat), M + 2 ^ (p + (-k).toNat), 0⟩
  (end_ a, end_ b)

/-- sin, or cos, of a positive value: none while the enclosure of the reduced argument holds 0. -/
def trigEnds (p : Nat) (isCos : Bool) (m : Nat) (e : Int) : Option (QEnd × QEnd) :=
  let top := (e + bitLen m).toNat
  let q := p + top
  let x := fixed q m e
  let (a, b) := piBounds q
  let n := (4 * x + a) / (2 * a)
  -- The reduced argument in units of 2^-(q+1).
  let lo : Int := (2 * x : Nat) - (n * b : Nat)
  let hi : Int := (2 * x : Nat) - (n * a : Nat)
  if lo ≤ 0 && 0 ≤ hi && n ≠ 0 then none
  else
    let neg := hi < 0
    let (u, v) := if neg then ((-hi).toNat, (-lo).toNat) else (lo.toNat, hi.toNat)
    let j := (n + b2n isCos) % 4
    let (s, t) := if j % 2 = 0 then ((sinBounds (q + 1) u).1, (sinBounds (q + 1) v).2)
      else ((cosBounds (q + 1) v).1, (cosBounds (q + 1) u).2)
    let minus := (2 ≤ j) != (neg && j % 2 = 0)
    let mk := fun (y : Int) => (⟨if minus then -y else y, 2 ^ (q + 1), 0⟩ : QEnd)
    some (mk s, mk t)

/-- The code both ends of an enclosure round to, with `p` doubled up to `n` times until they agree. -/
def settle (f : Fmt) (flush : Bool) (g : Nat → Option (QEnd × QEnd)) : (n p : Nat) → Nat
  | 0, _ => 0
  | n + 1, p =>
    match g p with
    | none => settle f flush g n (2 * p)
    | some (a, b) =>
      let x := a.round f flush
      if x = b.round f flush && (a.num < 0 ↔ b.num < 0) then x else settle f flush g n (2 * p)

/-- The two ends from the closed forms. -/
def settleSome (f : Fmt) (flush : Bool) (g : Nat → QEnd × QEnd) : Nat := settle f flush (fun p => some (g p)) 8 192

/-- 1 / √(m × 2^e), rounded once. -/
def Fmt.rsqrt (f : Fmt) (flush : Bool) (m : Nat) (e : Int) : Nat :=
  let (m, e) := if e % 2 = 0 then (m, e) else (2 * m, e - 1)
  let k := f.fb + 4 + bitLen m
  let r := isqrt (2 ^ (2 * k) / m)
  (f.round .rne flush false (2 * r + (if r * r * m = 2 ^ (2 * k) then 0 else 1)) (-(e / 2) - k - 1)).bits

/-- FTRN's result by FN (R132). -/
def Fmt.trans (f : Fmt) (fn : Nat) (flush : Bool) (a : FVal) : FRes :=
  let one := fun (n : Bool) => (f.round .rne flush n 1 0).bits
  match a with
  | .nan _ => nanOf f [a]
  | .inf n =>
    match fn with
    | 0 => ⟨signBit f n, 0⟩
    | 1 => if n then ⟨f.qnan, fNV⟩ else ⟨0, 0⟩
    | 2 => if n then ⟨0, 0⟩ else ⟨f.infCode false, 0⟩
    | 3 => if n then ⟨f.qnan, fNV⟩ else ⟨f.infCode false, 0⟩
    | 4 => if n then ⟨0, 0⟩ else ⟨one false, 0⟩
    | 5 => ⟨one n, 0⟩
    | _ => ⟨f.qnan, fNV⟩
  | .fin n m e =>
    if m = 0 then
      match fn with
      | 0 | 1 => ⟨f.infCode n, fDZ⟩
      | 2 | 7 => ⟨one false, 0⟩
      | 3 => ⟨f.infCode true, fDZ⟩
      | 4 => ⟨(f.round .rne flush false 1 (-1)).bits, 0⟩
      | _ => ⟨signBit f n, 0⟩
    else
      let big := fun (k : Int) => k < e + bitLen m
      let whole := 0 ≤ e || m % 2 ^ (-e).toNat = 0
      match fn with
      | 0 => ⟨(f.div .rne flush (.fin false 1 0) a).bits, 0⟩
      | 1 => if n then ⟨f.qnan, fNV⟩ else ⟨f.rsqrt flush m e, 0⟩
      | 2 =>
        if big 13 then ⟨(f.round .rne flush false 1 (if n then -5000 else 5000)).bits, 0⟩
        else if whole then ⟨(f.round .rne flush false 1 (roundInt .rne n m e).1).bits, 0⟩
        else ⟨settleSome f flush fun p => exp2Ends p n m e, 0⟩
      | 3 =>
        if n then ⟨f.qnan, fNV⟩
        else if m = 2 ^ (bitLen m - 1) then
          let k : Int := e + bitLen m - 1
          ⟨(f.round .rne flush (k < 0) k.natAbs 0).bits, 0⟩
        else ⟨settleSome f flush fun p => log2Ends p m e, 0⟩
      | 4 =>
        if big 8 then ⟨if n then 0 else one false, 0⟩
        else ⟨settleSome f flush fun p => sigEnds p n m e, 0⟩
      | 5 =>
        if big 7 then ⟨one n, 0⟩
        else ⟨signBit f n + settleSome f flush fun p => tanhEnds p m e, 0⟩
      | _ =>
        let r := settle f flush (fun p => trigEnds p (fn = 7) m e) 8 192
        ⟨if n && fn = 6 then (r + 2 ^ (f.width - 1)) % 2 ^ f.width else r, 0⟩

/-- FTRN (R132). -/
def execFtrn (w : LaneOp) (s : State) : Host.Outcome State Fault Refusal :=
  s.fltWord 0x3A w 1 wRoot false fun f _ fl v => match v with
    | [a] => f.trans w.fn.toNat fl a
    | _ => ⟨0, 0⟩

end Sys2Proof.Machine
end

