-- ==== Sys2Proof/Machine/Dispatch.lean ====
section
/-!
DEFINITION. The one match over the instructions: an arm for each constructor, each a call of its meaning.
-/

namespace Sys2Proof.Machine

def exec (i : Instr) (s : State) : Host.Outcome State Fault Refusal :=
  match i with
  | .sadd d a b => Sys2Proof.Machine.execSadd d a b s
  | .ssub d a b => Sys2Proof.Machine.execSsub d a b s
  | .smul d a b => Sys2Proof.Machine.execSmul d a b s
  | .smulh d a b => Sys2Proof.Machine.execSmulh d a b s
  | .smulhn d a b => Sys2Proof.Machine.execSmulhn d a b s
  | .sdiv d a b => Sys2Proof.Machine.execSdiv d a b s
  | .sdivn d a b => Sys2Proof.Machine.execSdivn d a b s
  | .srem d a b => Sys2Proof.Machine.execSrem d a b s
  | .sremn d a b => Sys2Proof.Machine.execSremn d a b s
  | .sand d a b => Sys2Proof.Machine.execSand d a b s
  | .sor d a b => Sys2Proof.Machine.execSor d a b s
  | .sxor d a b => Sys2Proof.Machine.execSxor d a b s
  | .sshl d a b => Sys2Proof.Machine.execSshl d a b s
  | .sshr d a b => Sys2Proof.Machine.execSshr d a b s
  | .ssra d a b => Sys2Proof.Machine.execSsra d a b s
  | .smin d a b => Sys2Proof.Machine.execSmin d a b s
  | .sminn d a b => Sys2Proof.Machine.execSminn d a b s
  | .smax d a b => Sys2Proof.Machine.execSmax d a b s
  | .smaxn d a b => Sys2Proof.Machine.execSmaxn d a b s
  | .sslt d a b => Sys2Proof.Machine.execSslt d a b s
  | .ssltn d a b => Sys2Proof.Machine.execSsltn d a b s
  | .seq d a b => Sys2Proof.Machine.execSeq d a b s
  | .spopc d a => Sys2Proof.Machine.execSpopc d a s
  | .sclz d a => Sys2Proof.Machine.execSclz d a s
  | .slea d a b k => Sys2Proof.Machine.execSlea d a b k s
  | .saddi d a imm => Sys2Proof.Machine.execSaddi d a imm s
  | .sandi d a imm => Sys2Proof.Machine.execSandi d a imm s
  | .sori d a imm => Sys2Proof.Machine.execSori d a imm s
  | .sxori d a imm => Sys2Proof.Machine.execSxori d a imm s
  | .sshli d a n => Sys2Proof.Machine.execSshli d a n s
  | .sshri d a n => Sys2Proof.Machine.execSshri d a n s
  | .ssrai d a n => Sys2Proof.Machine.execSsrai d a n s
  | .sslti d a imm => Sys2Proof.Machine.execSslti d a imm s
  | .ssltni d a imm => Sys2Proof.Machine.execSsltni d a imm s
  | .sli d imm => Sys2Proof.Machine.execSli d imm s
  | .slx d imm => Sys2Proof.Machine.execSlx d imm s
  | .smuli d a imm => Sys2Proof.Machine.execSmuli d a imm s
  | .sbeq a b imm => Sys2Proof.Machine.execSbeq a b imm s
  | .sbne a b imm => Sys2Proof.Machine.execSbne a b imm s
  | .sblt a b imm => Sys2Proof.Machine.execSblt a b imm s
  | .sbge a b imm => Sys2Proof.Machine.execSbge a b imm s
  | .sbltn a b imm => Sys2Proof.Machine.execSbltn a b imm s
  | .sbgen a b imm => Sys2Proof.Machine.execSbgen a b imm s
  | .sloop a imm => Sys2Proof.Machine.execSloop a imm s
  | .sj imm => Sys2Proof.Machine.execSj imm s
  | .sjal imm => Sys2Proof.Machine.execSjal imm s
  | .sjr a imm => Sys2Proof.Machine.execSjr a imm s
  | .sjalr d a imm => Sys2Proof.Machine.execSjalr d a imm s
  | .sldb d a imm => Sys2Proof.Machine.execSldb d a imm s
  | .sldh d a imm => Sys2Proof.Machine.execSldh d a imm s
  | .sldw d a imm => Sys2Proof.Machine.execSldw d a imm s
  | .sldd d a imm => Sys2Proof.Machine.execSldd d a imm s
  | .sldbx d a imm => Sys2Proof.Machine.execSldbx d a imm s
  | .sldhx d a imm => Sys2Proof.Machine.execSldhx d a imm s
  | .sldwx d a imm => Sys2Proof.Machine.execSldwx d a imm s
  | .sldk d a imm => Sys2Proof.Machine.execSldk d a imm s
  | .sstb b a imm => Sys2Proof.Machine.execSstb b a imm s
  | .ssth b a imm => Sys2Proof.Machine.execSsth b a imm s
  | .sstw b a imm => Sys2Proof.Machine.execSstw b a imm s
  | .sstd b a imm => Sys2Proof.Machine.execSstd b a imm s
  | .slds d a imm => Sys2Proof.Machine.execSlds d a imm s
  | .ssts b a imm => Sys2Proof.Machine.execSsts b a imm s
  | .lq a imm => Sys2Proof.Machine.execLq a imm s
  | .lqw => Sys2Proof.Machine.execLqw s
  | .sgetl d r l => Sys2Proof.Machine.execSgetl d r l s
  | .bcopy n a b x y => Sys2Proof.Machine.execBcopy n a b x y s
  | .bred n a b x o => Sys2Proof.Machine.execBred n a b x o s
  | .ttq a imm => Sys2Proof.Machine.execTtq a imm s
  | .tagx d n => Sys2Proof.Machine.execTagx d n s
  | .ctset a imm => Sys2Proof.Machine.execCtset a imm s
  | .shadow d a b => Sys2Proof.Machine.execShadow d a b s
  | .publish a => Sys2Proof.Machine.execPublish a s
  | .trchk d a imm => Sys2Proof.Machine.execTrchk d a imm s
  | .bar l x => Sys2Proof.Machine.execBar l x s
  | .bara l x => Sys2Proof.Machine.execBara l x s
  | .barw l x => Sys2Proof.Machine.execBarw l x s
  | .waitall a => Sys2Proof.Machine.execWaitall a s
  | .waitany d a => Sys2Proof.Machine.execWaitany d a s
  | .tagff d a => Sys2Proof.Machine.execTagff d a s
  | .tagclr a => Sys2Proof.Machine.execTagclr a s
  | .fence sc => Sys2Proof.Machine.execFence sc s
  | .acq d a sc => Sys2Proof.Machine.execAcq d a sc s
  | .rel a b sc => Sys2Proof.Machine.execRel a b sc s
  | .bind c a b sc => Sys2Proof.Machine.execBind c a b sc s
  | .unbind a => Sys2Proof.Machine.execUnbind a s
  | .evset e => Sys2Proof.Machine.execEvset e s
  | .evwait e => Sys2Proof.Machine.execEvwait e s
  | .launch d a q => Sys2Proof.Machine.execLaunch d a q s
  | .freeze => Sys2Proof.Machine.execFreeze s
  | .stamp a => Sys2Proof.Machine.execStamp a s
  | .stt b a imm => Sys2Proof.Machine.execStt b a imm s
  | .yield => Sys2Proof.Machine.execYield s
  | .exit => Sys2Proof.Machine.execExit s
  | .trap imm => Sys2Proof.Machine.execTrap imm s
  | .rowpinP n a m => Sys2Proof.Machine.execRowpinP n a m s
  | .rowpinV n a m => Sys2Proof.Machine.execRowpinV n a m s
  | .rowrel n => Sys2Proof.Machine.execRowrel n s
  | .rowq d n => Sys2Proof.Machine.execRowq d n s
  | .opreq d n => Sys2Proof.Machine.execOpreq d n s
  | .ebkt d => Sys2Proof.Machine.execEbkt d s
  | .tmark v => Sys2Proof.Machine.execTmark v s
  | .pdone a => Sys2Proof.Machine.execPdone a s
  | .rngacq a b => Sys2Proof.Machine.execRngacq a b s
  | .rngrel a b => Sys2Proof.Machine.execRngrel a b s
  | .drowse e => Sys2Proof.Machine.execDrowse e s
  | .csrr d c => Sys2Proof.Machine.execCsrr d c s
  | .csrw b c => Sys2Proof.Machine.execCsrw b c s
  | .segw a b sc => Sys2Proof.Machine.execSegw a b sc s
  | .tret => Sys2Proof.Machine.execTret s
  | .mapf d a => Sys2Proof.Machine.execMapf d a s
  | .fltpark d => Sys2Proof.Machine.execFltpark d s
  | .fltret => Sys2Proof.Machine.execFltret s
  | .tlbinv a k => Sys2Proof.Machine.execTlbinv a k s
  | .poolq d => Sys2Proof.Machine.execPoolq d s
  | .cflush a b sc => Sys2Proof.Machine.execCflush a b sc s
  | .cinv a b sc => Sys2Proof.Machine.execCinv a b sc s
  | .sbrk x => Sys2Proof.Machine.execSbrk x s
  | .vadd w => Sys2Proof.Machine.execVadd w s
  | .vsub w => Sys2Proof.Machine.execVsub w s
  | .vmul w => Sys2Proof.Machine.execVmul w s
  | .vmulh w => Sys2Proof.Machine.execVmulh w s
  | .vmad w => Sys2Proof.Machine.execVmad w s
  | .vdiv w => Sys2Proof.Machine.execVdiv w s
  | .vrem w => Sys2Proof.Machine.execVrem w s
  | .vabs w => Sys2Proof.Machine.execVabs w s
  | .vneg w => Sys2Proof.Machine.execVneg w s
  | .vmin w => Sys2Proof.Machine.execVmin w s
  | .vmax w => Sys2Proof.Machine.execVmax w s
  | .vand w => Sys2Proof.Machine.execVand w s
  | .vor w => Sys2Proof.Machine.execVor w s
  | .vxor w => Sys2Proof.Machine.execVxor w s
  | .vnot w => Sys2Proof.Machine.execVnot w s
  | .vshl w => Sys2Proof.Machine.execVshl w s
  | .vshr w => Sys2Proof.Machine.execVshr w s
  | .vsra w => Sys2Proof.Machine.execVsra w s
  | .vrot w => Sys2Proof.Machine.execVrot w s
  | .vpopc w => Sys2Proof.Machine.execVpopc w s
  | .vclz w => Sys2Proof.Machine.execVclz w s
  | .vbfx w => Sys2Proof.Machine.execVbfx w s
  | .vbfi w => Sys2Proof.Machine.execVbfi w s
  | .vcmp w => Sys2Proof.Machine.execVcmp w s
  | .vsel w => Sys2Proof.Machine.execVsel w s
  | .vadc w => Sys2Proof.Machine.execVadc w s
  | .vsad w => Sys2Proof.Machine.execVsad w s
  | .vdot4 w => Sys2Proof.Machine.execVdot4 w s
  | .fadd w => Sys2Proof.Machine.execFadd w s
  | .fsub w => Sys2Proof.Machine.execFsub w s
  | .fmul w => Sys2Proof.Machine.execFmul w s
  | .ffma w => Sys2Proof.Machine.execFfma w s
  | .fmin w => Sys2Proof.Machine.execFmin w s
  | .fmax w => Sys2Proof.Machine.execFmax w s
  | .fabs w => Sys2Proof.Machine.execFabs w s
  | .fneg w => Sys2Proof.Machine.execFneg w s
  | .fdiv w => Sys2Proof.Machine.execFdiv w s
  | .fsqrt w => Sys2Proof.Machine.execFsqrt w s
  | .ftrn w => Sys2Proof.Machine.execFtrn w s
  | .fcmp w => Sys2Proof.Machine.execFcmp w s
  | .fclass w => Sys2Proof.Machine.execFclass w s
  | .fscale w => Sys2Proof.Machine.execFscale w s
  | .frnd w => Sys2Proof.Machine.execFrnd w s
  | .fdot2 w => Sys2Proof.Machine.execFdot2 w s
  | .cvt w => Sys2Proof.Machine.execCvt w s
  | .cvtb w => Sys2Proof.Machine.execCvtb w s
  | .cvtx w => Sys2Proof.Machine.execCvtx w s
  | .vamax w => Sys2Proof.Machine.execVamax w s
  | .vmov w => Sys2Proof.Machine.execVmov w s
  | .vperm w => Sys2Proof.Machine.execVperm w s
  | .vbcast w => Sys2Proof.Machine.execVbcast w s
  | .vreds w => Sys2Proof.Machine.execVreds w s
  | .vscan w => Sys2Proof.Machine.execVscan w s
  | .vvote w => Sys2Proof.Machine.execVvote w s
  | .vpopSet w => Sys2Proof.Machine.execVpopSet w s
  | .vpopGet w => Sys2Proof.Machine.execVpopGet w s
  | .vpopPut w => Sys2Proof.Machine.execVpopPut w s
  | .lbra w => Sys2Proof.Machine.execLbra w s
  | .ljmp w => Sys2Proof.Machine.execLjmp w s
  | .lcall w => Sys2Proof.Machine.execLcall w s
  | .lret w => Sys2Proof.Machine.execLret w s
  | .lif w => Sys2Proof.Machine.execLif w s
  | .lelse w => Sys2Proof.Machine.execLelse w s
  | .lendif w => Sys2Proof.Machine.execLendif w s
  | .lregang w => Sys2Proof.Machine.execLregang w s
  | .lend w => Sys2Proof.Machine.execLend w s
  | .lexit w => Sys2Proof.Machine.execLexit w s
  | .lyield w => Sys2Proof.Machine.execLyield w s
  | .lbarg w => Sys2Proof.Machine.execLbarg w s
  | .lnop w => Sys2Proof.Machine.execLnop w s
  | .ldv w => Sys2Proof.Machine.execLdv w s
  | .stv w => Sys2Proof.Machine.execStv w s
  | .ldpk w => Sys2Proof.Machine.execLdpk w s
  | .stpk w => Sys2Proof.Machine.execStpk w s
  | .stnt w => Sys2Proof.Machine.execStnt w s
  | .pref w => Sys2Proof.Machine.execPref w s
  | .atom w => Sys2Proof.Machine.execAtom w s
  | .atomn w => Sys2Proof.Machine.execAtomn w s
  | .redmc w => Sys2Proof.Machine.execRedmc w s
  | .rowld w => Sys2Proof.Machine.execRowld w s
  | .rowst w => Sys2Proof.Machine.execRowst w s
  | .accrd w => Sys2Proof.Machine.execAccrd w s
  | .accwr w => Sys2Proof.Machine.execAccwr w s
  | .ldmap w => Sys2Proof.Machine.execLdmap w s
  | .stmap w => Sys2Proof.Machine.execStmap w s
  | .vfence w => Sys2Proof.Machine.execVfence w s
  | .lwaitt w => Sys2Proof.Machine.execLwaitt w s
  | .ltmark w => Sys2Proof.Machine.execLtmark w s
  | .illegalEncoding => Sys2Proof.Machine.execIllegalEncoding s
  | .scalarFetchFault => Sys2Proof.Machine.execScalarFetchFault s
  | .readingPeriodic asid => Sys2Proof.Machine.execReadingPeriodic asid s
  | .requestTimeout tag => Sys2Proof.Machine.execRequestTimeout tag s
  | .traceDrain core asid => Sys2Proof.Machine.execTraceDrain core asid s
  | .traceIdleFlush core asid => Sys2Proof.Machine.execTraceIdleFlush core asid s
  | .laneBlockStart g => Sys2Proof.Machine.execLaneBlockStart g s
  | .gangRetire g => Sys2Proof.Machine.execGangRetire g s
  | .teamExit t => Sys2Proof.Machine.execTeamExit t s
  | .deferredTaskfmt t => Sys2Proof.Machine.execDeferredTaskfmt t s
  | .taskStart r => Sys2Proof.Machine.execTaskStart r s
  | .taskStep t k => Sys2Proof.Machine.execTaskStep t k s
  | .mxp t k => Sys2Proof.Machine.execMxp t k s
  | .mxb t k => Sys2Proof.Machine.execMxb t k s
  | .scacc t k => Sys2Proof.Machine.execScacc t k s
  | .accz t k => Sys2Proof.Machine.execAccz t k s
  | .acccv t k => Sys2Proof.Machine.execAcccv t k s
  | .accmov t k => Sys2Proof.Machine.execAccmov t k s
  | .copyChunk r e => Sys2Proof.Machine.execCopyChunk r e s
  | .rowOpenComplete t n => Sys2Proof.Machine.execRowOpenComplete t n s
  | .itemCreate g => Sys2Proof.Machine.execItemCreate g s
  | .preemptDelivery g => Sys2Proof.Machine.execPreemptDelivery g s
  | .pbleftExpiry g => Sys2Proof.Machine.execPbleftExpiry g s
  | .clusterSaved c => Sys2Proof.Machine.execClusterSaved c s
  | .swapBegin c => Sys2Proof.Machine.execSwapBegin c s
  | .swapSaveComplete c => Sys2Proof.Machine.execSwapSaveComplete c s
  | .restoreComplete c => Sys2Proof.Machine.execRestoreComplete c s
  | .clusterPlace p => Sys2Proof.Machine.execClusterPlace p s
  | .hostRecordRead asid q => Sys2Proof.Machine.execHostRecordRead asid q s
  | .faultRecordPost asid => Sys2Proof.Machine.execFaultRecordPost asid s
  | .tick m => Sys2Proof.Machine.execTick m s
  | .epochStart p => Sys2Proof.Machine.execEpochStart p s
  | .sliceEnd asid => Sys2Proof.Machine.execSliceEnd asid s
  | .ageStep asid q => Sys2Proof.Machine.execAgeStep asid q s
  | .frequencySwitch r => Sys2Proof.Machine.execFrequencySwitch r s
  | .voltageSlewEnd r => Sys2Proof.Machine.execVoltageSlewEnd r s
  | .drowseRailMove r => Sys2Proof.Machine.execDrowseRailMove r s
  | .trimStep r => Sys2Proof.Machine.execTrimStep r s
  | .undervoltHoldoffEnd r => Sys2Proof.Machine.execUndervoltHoldoffEnd r s
  | .correctableError x => Sys2Proof.Machine.execCorrectableError x s
  | .uncorrectableError x => Sys2Proof.Machine.execUncorrectableError x s
  | .refresh stack pc bad => Sys2Proof.Machine.execRefresh stack pc bad s
  | .patrolScrub stack corrected => Sys2Proof.Machine.execPatrolScrub stack corrected s
  | .thermalStop => Sys2Proof.Machine.execThermalStop s
  | .thermalResume => Sys2Proof.Machine.execThermalResume s
  | .hotSpot r => Sys2Proof.Machine.execHotSpot r s
  | .swarmPeriod demand measured => Sys2Proof.Machine.execSwarmPeriod demand measured s
  | .swarmReport x => Sys2Proof.Machine.execSwarmReport x s
  | .swarmReportTimeout member => Sys2Proof.Machine.execSwarmReportTimeout member s
  | .readRequest x => Sys2Proof.Machine.execReadRequest x s
  | .write x => Sys2Proof.Machine.execWrite x s
  | .readCompletion x => Sys2Proof.Machine.execReadCompletion x s
  | .atomic x => Sys2Proof.Machine.execAtomic x s
  | .writeAcknowledgement x => Sys2Proof.Machine.execWriteAcknowledgement x s
  | .reduceContribution x => Sys2Proof.Machine.execReduceContribution x s
  | .reduceDelivery x => Sys2Proof.Machine.execReduceDelivery x s
  | .firmwareMessage x => Sys2Proof.Machine.execFirmwareMessage x s
  | .portTraining port far gen2ok => Sys2Proof.Machine.execPortTraining port far gen2ok s
  | .cxlMemAccess x => Sys2Proof.Machine.execCxlMemAccess x s
  | .qbase asid q v => Sys2Proof.Machine.execQbase asid q v s
  | .qcfg asid q v => Sys2Proof.Machine.execQcfg asid q v s
  | .qtail asid q v => Sys2Proof.Machine.execQtail asid q v s
  | .qstat asid q v => Sys2Proof.Machine.execQstat asid q v s
  | .kill asid v => Sys2Proof.Machine.execKill asid v s
  | .frhead asid v => Sys2Proof.Machine.execFrhead asid v s
  | .reply asid v => Sys2Proof.Machine.execReply asid v s
  | .mreq p v => Sys2Proof.Machine.execMreq p v s
  | .mrhead p v => Sys2Proof.Machine.execMrhead p v s
  | .hdmb p n v => Sys2Proof.Machine.execHdmb p n v s
  | .hdml p n v => Sys2Proof.Machine.execHdml p n v s
  | .pwrctl p v => Sys2Proof.Machine.execPwrctl p v s
  | .trctl asid v => Sys2Proof.Machine.execTrctl asid v s
  | .trhead asid v => Sys2Proof.Machine.execTrhead asid v s
  | .trlost asid => Sys2Proof.Machine.execTrlost asid s
  | .trtail g => Sys2Proof.Machine.execTrtail g s
  | .registerWrite x v => Sys2Proof.Machine.execRegisterWrite x v s
  | .traceSyncCadence g => Sys2Proof.Machine.execTraceSyncCadence g s
  | .flr f => Sys2Proof.Machine.execFlr f s
  | .tdispError f => Sys2Proof.Machine.execTdispError f s
  | .perst => Sys2Proof.Machine.execPerst s
  | .coldReset => Sys2Proof.Machine.execColdReset s
  | .warmResetRequest => Sys2Proof.Machine.execWarmResetRequest s
  | .contextCreate x => Sys2Proof.Machine.execContextCreate x s
  | .contextDestroy asid => Sys2Proof.Machine.execContextDestroy asid s
  | .workerFirmwareUpdate p x => Sys2Proof.Machine.execWorkerFirmwareUpdate p x s
  | .regionMove r p => Sys2Proof.Machine.execRegionMove r p s
  | .spareRegionSwap r lost => Sys2Proof.Machine.execSpareRegionSwap r lost s
  | .getVersion die => Sys2Proof.Machine.execGetVersion die s
  | .getCapabilities die => Sys2Proof.Machine.execGetCapabilities die s
  | .negotiateAlgorithms die => Sys2Proof.Machine.execNegotiateAlgorithms die s
  | .getDigests die => Sys2Proof.Machine.execGetDigests die s
  | .getCertificate die => Sys2Proof.Machine.execGetCertificate die s
  | .challenge die => Sys2Proof.Machine.execChallenge die s
  | .getMeasurements x => Sys2Proof.Machine.execGetMeasurements x s
  | .keyExchange die => Sys2Proof.Machine.execKeyExchange die s
  | .finish die => Sys2Proof.Machine.execFinish die s
  | .tdispConfigLocked f => Sys2Proof.Machine.execTdispConfigLocked f s
  | .tdispRun f => Sys2Proof.Machine.execTdispRun f s
  | .tdispConfigUnlocked f => Sys2Proof.Machine.execTdispConfigUnlocked f s
  | .configurationRequest f write => Sys2Proof.Machine.execConfigurationRequest f write s
  | .portFailure port => Sys2Proof.Machine.execPortFailure port s
  | .multicastReduceGroupSetup x => Sys2Proof.Machine.execMulticastReduceGroupSetup x s
  | .unknownPacketType x => Sys2Proof.Machine.execUnknownPacketType x s

end Sys2Proof.Machine
end

