-- ==== Sys2Proof/WellFormed.lean ====
section
/-!
DEFINITION. What a well-formed instruction is: the encoding rules that a word can break by its codes (R78 to R86, R177, R178). A word that breaks
one raises ILLEGAL when it issues (R77, R87).
-/

namespace Sys2Proof

/-- The opcode and the fields of a lane word (R86). -/
def Instr.lane? (i : Instr) : Option (Nat × LaneOp) :=
  match i with
  | .vadd w => some (0x00, w)
  | .vsub w => some (0x01, w)
  | .vmul w => some (0x02, w)
  | .vmulh w => some (0x03, w)
  | .vmad w => some (0x04, w)
  | .vdiv w => some (0x05, w)
  | .vrem w => some (0x06, w)
  | .vabs w => some (0x07, w)
  | .vneg w => some (0x08, w)
  | .vmin w => some (0x09, w)
  | .vmax w => some (0x0A, w)
  | .vand w => some (0x0B, w)
  | .vor w => some (0x0C, w)
  | .vxor w => some (0x0D, w)
  | .vnot w => some (0x0E, w)
  | .vshl w => some (0x0F, w)
  | .vshr w => some (0x10, w)
  | .vsra w => some (0x11, w)
  | .vrot w => some (0x12, w)
  | .vpopc w => some (0x13, w)
  | .vclz w => some (0x14, w)
  | .vbfx w => some (0x15, w)
  | .vbfi w => some (0x16, w)
  | .vcmp w => some (0x17, w)
  | .vsel w => some (0x18, w)
  | .vadc w => some (0x19, w)
  | .vsad w => some (0x1A, w)
  | .vdot4 w => some (0x1B, w)
  | .fadd w => some (0x30, w)
  | .fsub w => some (0x31, w)
  | .fmul w => some (0x32, w)
  | .ffma w => some (0x33, w)
  | .fmin w => some (0x34, w)
  | .fmax w => some (0x35, w)
  | .fabs w => some (0x36, w)
  | .fneg w => some (0x37, w)
  | .fdiv w => some (0x38, w)
  | .fsqrt w => some (0x39, w)
  | .ftrn w => some (0x3A, w)
  | .fcmp w => some (0x3B, w)
  | .fclass w => some (0x3C, w)
  | .fscale w => some (0x3D, w)
  | .frnd w => some (0x3E, w)
  | .fdot2 w => some (0x3F, w)
  | .cvt w => some (0x40, w)
  | .cvtb w => some (0x41, w)
  | .cvtx w => some (0x42, w)
  | .vamax w => some (0x43, w)
  | .vmov w => some (0x60, w)
  | .vperm w => some (0x61, w)
  | .vbcast w => some (0x62, w)
  | .vreds w => some (0x63, w)
  | .vscan w => some (0x64, w)
  | .vvote w => some (0x65, w)
  | .vpopSet w => some (0x66, w)
  | .vpopGet w => some (0x66, w)
  | .vpopPut w => some (0x66, w)
  | .lbra w => some (0x80, w)
  | .ljmp w => some (0x81, w)
  | .lcall w => some (0x82, w)
  | .lret w => some (0x83, w)
  | .lif w => some (0x84, w)
  | .lelse w => some (0x85, w)
  | .lendif w => some (0x86, w)
  | .lregang w => some (0x87, w)
  | .lend w => some (0x88, w)
  | .lexit w => some (0x89, w)
  | .lyield w => some (0x8A, w)
  | .lbarg w => some (0x8B, w)
  | .lnop w => some (0x8C, w)
  | .ldv w => some (0xA0, w)
  | .stv w => some (0xA1, w)
  | .ldpk w => some (0xA2, w)
  | .stpk w => some (0xA3, w)
  | .stnt w => some (0xA4, w)
  | .atom w => some (0xA5, w)
  | .atomn w => some (0xA6, w)
  | .redmc w => some (0xA7, w)
  | .rowld w => some (0xA8, w)
  | .rowst w => some (0xA9, w)
  | .accrd w => some (0xAA, w)
  | .accwr w => some (0xAB, w)
  | .pref w => some (0xAC, w)
  | .ldmap w => some (0xAD, w)
  | .stmap w => some (0xAE, w)
  | .vfence w => some (0xAF, w)
  | .lwaitt w => some (0xD0, w)
  | .ltmark w => some (0xD1, w)
  | _ => none

open Machine in
/-- Whether the codes of a word name something. Steps of the device and of the host have no encoding to break. -/
def Instr.wellFormed (i : Instr) : Bool :=
  match i.lane? with
  | some (opc, w) =>
    laneOk opc w &&
      (match i with
        | .vpopSet w => w.fn = 0
        | .vpopGet w => w.fn = 1
        | .vpopPut w => w.fn = 2
        | _ => true)
  | none =>
    match i with
    | .bcopy _ a _ x y => bcopyOk a x y
    | .bred _ a _ x o => bredOk a x o
    | .bar l x | .bara l x | .barw l x => bidOk l x
    | .fence s | .acq _ _ s | .rel _ _ s | .bind _ _ _ s | .cflush _ _ s | .cinv _ _ s => scopeOk s
    | .segw _ _ s => s.toNat < 6
    | .rowpinP _ _ m | .rowpinV _ _ m => m ≠ 0
    | .tlbinv _ k => k ≠ 3
    | _ => true

end Sys2Proof
end

