-- ==== Sys2Proof/Decode.lean ====
section
/-!
DEFINITION. The decoder of scalar words (R74 to R79) and of lane words (R80 to R86), total on any bits, and after it the encoder.

A scalar word that R77 calls no instruction has no reading; a code that R78 gives no meaning (a scope of 6, a reduction of 10) is read, and
its meaning raises ILLEGAL. A lane word with a reserved OPC, a nonzero bit in [24:20], a code of R80 with no value, or a source or destination field
that names nothing has no reading; what else R81 to R86 forbid is read, and its meaning raises ILLEGAL (R87).
-/

namespace Sys2Proof

open Machine

/-- A field of `n` bits from bit `lo`. -/
def fld (n w lo : Nat) : BitVec n := BitVec.ofNat n (w / 2 ^ lo)

/-! ### Scalar words -/

/-- The instruction of a word whose must-be-zero bits are in order (R77). -/
def mbz (ok : Bool) (i : Instr) : Option Instr := if ok then some i else none

/-- SALU words, by fn (R76). -/
def decodeSalu (w : Nat) : Option Instr :=
  match w % 128 with
  | 0x00 => some (.sadd (fld 6 w 19) (fld 6 w 13) (fld 6 w 7))
  | 0x01 => some (.ssub (fld 6 w 19) (fld 6 w 13) (fld 6 w 7))
  | 0x02 => some (.smul (fld 6 w 19) (fld 6 w 13) (fld 6 w 7))
  | 0x03 => some (.smulh (fld 6 w 19) (fld 6 w 13) (fld 6 w 7))
  | 0x04 => some (.smulhn (fld 6 w 19) (fld 6 w 13) (fld 6 w 7))
  | 0x05 => some (.sdiv (fld 6 w 19) (fld 6 w 13) (fld 6 w 7))
  | 0x06 => some (.sdivn (fld 6 w 19) (fld 6 w 13) (fld 6 w 7))
  | 0x07 => some (.srem (fld 6 w 19) (fld 6 w 13) (fld 6 w 7))
  | 0x08 => some (.sremn (fld 6 w 19) (fld 6 w 13) (fld 6 w 7))
  | 0x09 => some (.sand (fld 6 w 19) (fld 6 w 13) (fld 6 w 7))
  | 0x0A => some (.sor (fld 6 w 19) (fld 6 w 13) (fld 6 w 7))
  | 0x0B => some (.sxor (fld 6 w 19) (fld 6 w 13) (fld 6 w 7))
  | 0x0C => some (.sshl (fld 6 w 19) (fld 6 w 13) (fld 6 w 7))
  | 0x0D => some (.sshr (fld 6 w 19) (fld 6 w 13) (fld 6 w 7))
  | 0x0E => some (.ssra (fld 6 w 19) (fld 6 w 13) (fld 6 w 7))
  | 0x0F => some (.smin (fld 6 w 19) (fld 6 w 13) (fld 6 w 7))
  | 0x10 => some (.sminn (fld 6 w 19) (fld 6 w 13) (fld 6 w 7))
  | 0x11 => some (.smax (fld 6 w 19) (fld 6 w 13) (fld 6 w 7))
  | 0x12 => some (.smaxn (fld 6 w 19) (fld 6 w 13) (fld 6 w 7))
  | 0x13 => some (.sslt (fld 6 w 19) (fld 6 w 13) (fld 6 w 7))
  | 0x14 => some (.ssltn (fld 6 w 19) (fld 6 w 13) (fld 6 w 7))
  | 0x15 => some (.seq (fld 6 w 19) (fld 6 w 13) (fld 6 w 7))
  | 0x16 => mbz (bits w 12 7 = 0) (.spopc (fld 6 w 19) (fld 6 w 13))
  | 0x17 => mbz (bits w 12 7 = 0) (.sclz (fld 6 w 19) (fld 6 w 13))
  | 0x18 | 0x19 | 0x1A | 0x1B => some (.slea (fld 6 w 19) (fld 6 w 13) (fld 6 w 7) (fld 2 w 0))
  | _ => none

/-- Arithmetic with an immediate, branches and jumps (R76). -/
def decodeArith (w : Nat) : Option Instr :=
  match w / 2 ^ 25 with
  | 0x01 => some (.saddi (fld 6 w 19) (fld 6 w 13) (fld 13 w 0))
  | 0x02 => some (.sandi (fld 6 w 19) (fld 6 w 13) (fld 13 w 0))
  | 0x03 => some (.sori (fld 6 w 19) (fld 6 w 13) (fld 13 w 0))
  | 0x04 => some (.sxori (fld 6 w 19) (fld 6 w 13) (fld 13 w 0))
  | 0x05 => mbz (bits w 12 6 = 0) (.sshli (fld 6 w 19) (fld 6 w 13) (fld 6 w 0))
  | 0x06 => mbz (bits w 12 6 = 0) (.sshri (fld 6 w 19) (fld 6 w 13) (fld 6 w 0))
  | 0x07 => mbz (bits w 12 6 = 0) (.ssrai (fld 6 w 19) (fld 6 w 13) (fld 6 w 0))
  | 0x08 => some (.sslti (fld 6 w 19) (fld 6 w 13) (fld 13 w 0))
  | 0x09 => some (.ssltni (fld 6 w 19) (fld 6 w 13) (fld 13 w 0))
  | 0x0A => some (.sli (fld 6 w 19) (fld 19 w 0))
  | 0x0B => some (.slx (fld 6 w 19) (fld 19 w 0))
  | 0x0C => some (.smuli (fld 6 w 19) (fld 6 w 13) (fld 13 w 0))
  | 0x10 => some (.sbeq (fld 6 w 19) (fld 6 w 13) (fld 13 w 0))
  | 0x11 => some (.sbne (fld 6 w 19) (fld 6 w 13) (fld 13 w 0))
  | 0x12 => some (.sblt (fld 6 w 19) (fld 6 w 13) (fld 13 w 0))
  | 0x13 => some (.sbge (fld 6 w 19) (fld 6 w 13) (fld 13 w 0))
  | 0x14 => some (.sbltn (fld 6 w 19) (fld 6 w 13) (fld 13 w 0))
  | 0x15 => some (.sbgen (fld 6 w 19) (fld 6 w 13) (fld 13 w 0))
  | 0x16 => mbz (bits w 18 13 = 0) (.sloop (fld 6 w 19) (fld 13 w 0))
  | 0x18 => some (.sj (fld 25 w 0))
  | 0x19 => some (.sjal (fld 25 w 0))
  | 0x1A => mbz (bits w 24 19 = 0) (.sjr (fld 6 w 13) (fld 13 w 0))
  | 0x1B => some (.sjalr (fld 6 w 19) (fld 6 w 13) (fld 13 w 0))
  | _ => none

/-- Scalar loads and stores and the lane queue (R76). -/
def decodeMem (w : Nat) : Option Instr :=
  match w / 2 ^ 25 with
  | 0x20 => some (.sldb (fld 6 w 19) (fld 6 w 13) (fld 13 w 0))
  | 0x21 => some (.sldh (fld 6 w 19) (fld 6 w 13) (fld 13 w 0))
  | 0x22 => some (.sldw (fld 6 w 19) (fld 6 w 13) (fld 13 w 0))
  | 0x23 => some (.sldd (fld 6 w 19) (fld 6 w 13) (fld 13 w 0))
  | 0x24 => some (.sldbx (fld 6 w 19) (fld 6 w 13) (fld 13 w 0))
  | 0x25 => some (.sldhx (fld 6 w 19) (fld 6 w 13) (fld 13 w 0))
  | 0x26 => some (.sldwx (fld 6 w 19) (fld 6 w 13) (fld 13 w 0))
  | 0x27 => some (.sldk (fld 6 w 19) (fld 6 w 13) (fld 13 w 0))
  | 0x28 => some (.sstb (fld 6 w 19) (fld 6 w 13) (fld 13 w 0))
  | 0x29 => some (.ssth (fld 6 w 19) (fld 6 w 13) (fld 13 w 0))
  | 0x2A => some (.sstw (fld 6 w 19) (fld 6 w 13) (fld 13 w 0))
  | 0x2B => some (.sstd (fld 6 w 19) (fld 6 w 13) (fld 13 w 0))
  | 0x2C => some (.slds (fld 6 w 19) (fld 6 w 13) (fld 13 w 0))
  | 0x2D => some (.ssts (fld 6 w 19) (fld 6 w 13) (fld 13 w 0))
  | 0x30 => mbz (bits w 24 19 = 0) (.lq (fld 6 w 13) (fld 13 w 0))
  | 0x31 => mbz (bits w 24 0 = 0) (.lqw)
  | 0x32 => mbz (bits w 18 13 = 0) (.sgetl (fld 6 w 19) (fld 8 w 5) (fld 5 w 0))
  | _ => none

/-- Engine commands and records (R79). -/
def decodeEngine (w : Nat) : Option Instr :=
  match w / 2 ^ 25 with
  | 0x38 => mbz (bits w 0 0 = 0) (.bcopy (fld 6 w 19) (fld 6 w 13) (fld 6 w 7) (fld 3 w 4) (fld 3 w 1))
  | 0x39 => some (.bred (fld 6 w 19) (fld 6 w 13) (fld 6 w 7) (fld 3 w 4) (fld 4 w 0))
  | 0x3A => mbz (bits w 24 19 = 0) (.ttq (fld 6 w 13) (fld 13 w 0))
  | 0x3B => mbz (bits w 18 6 = 0) (.tagx (fld 6 w 19) (fld 6 w 0))
  | 0x3C => mbz (bits w 24 19 = 0) (.ctset (fld 6 w 13) (fld 13 w 0))
  | 0x3D => mbz (bits w 6 0 = 0) (.shadow (fld 6 w 19) (fld 6 w 13) (fld 6 w 7))
  | 0x3E => mbz (bits w 24 19 = 0 && bits w 12 0 = 0) (.publish (fld 6 w 13))
  | 0x3F => some (.trchk (fld 6 w 19) (fld 6 w 13) (fld 13 w 0))
  | _ => none

/-- Synchronisation, templates, row holds and the rest of the user words (R79). -/
def decodeSync (w : Nat) : Option Instr :=
  match w / 2 ^ 25 with
  | 0x40 => mbz (bits w 24 13 = 0 && bits w 9 4 = 0) (.bar (fld 3 w 10) (fld 4 w 0))
  | 0x41 => mbz (bits w 24 13 = 0 && bits w 9 4 = 0) (.bara (fld 3 w 10) (fld 4 w 0))
  | 0x42 => mbz (bits w 24 13 = 0 && bits w 9 4 = 0) (.barw (fld 3 w 10) (fld 4 w 0))
  | 0x43 => mbz (bits w 24 19 = 0 && bits w 12 0 = 0) (.waitall (fld 6 w 13))
  | 0x44 => mbz (bits w 12 0 = 0) (.waitany (fld 6 w 19) (fld 6 w 13))
  | 0x45 => mbz (bits w 12 0 = 0) (.tagff (fld 6 w 19) (fld 6 w 13))
  | 0x46 => mbz (bits w 24 19 = 0 && bits w 12 0 = 0) (.tagclr (fld 6 w 13))
  | 0x47 => mbz (bits w 24 3 = 0) (.fence (fld 3 w 0))
  | 0x48 => mbz (bits w 12 3 = 0) (.acq (fld 6 w 19) (fld 6 w 13) (fld 3 w 0))
  | 0x49 => mbz (bits w 24 19 = 0 && bits w 6 3 = 0) (.rel (fld 6 w 13) (fld 6 w 7) (fld 3 w 0))
  | 0x4A => mbz (bits w 6 3 = 0) (.bind (fld 6 w 19) (fld 6 w 13) (fld 6 w 7) (fld 3 w 0))
  | 0x4B => mbz (bits w 24 19 = 0 && bits w 12 0 = 0) (.unbind (fld 6 w 13))
  | 0x4C => mbz (bits w 24 8 = 0) (.evset (fld 8 w 0))
  | 0x4D => mbz (bits w 24 8 = 0) (.evwait (fld 8 w 0))
  | 0x4E => mbz (bits w 12 3 = 0) (.launch (fld 6 w 19) (fld 6 w 13) (fld 3 w 0))
  | 0x4F => mbz (bits w 24 0 = 0) (.freeze)
  | 0x50 => mbz (bits w 24 19 = 0 && bits w 12 0 = 0) (.stamp (fld 6 w 13))
  | 0x51 => some (.stt (fld 6 w 19) (fld 6 w 13) (fld 13 w 0))
  | 0x52 => mbz (bits w 24 0 = 0) (.yield)
  | 0x53 => mbz (bits w 24 0 = 0) (.exit)
  | 0x54 => mbz (bits w 24 13 = 0) (.trap (fld 13 w 0))
  | 0x55 => mbz (bits w 24 22 = 0 && bits w 12 9 = 0) (if bit w 8 then .rowpinP (fld 3 w 19) (fld 6 w 13) (fld 8 w 0) else .rowpinV (fld 3 w 19) (fld 6 w 13) (fld 8 w 0))
  | 0x56 => mbz (bits w 24 22 = 0 && bits w 18 0 = 0) (.rowrel (fld 3 w 19))
  | 0x57 => mbz (bits w 18 3 = 0) (.rowq (fld 6 w 19) (fld 3 w 0))
  | 0x58 => mbz (bits w 18 4 = 0) (.opreq (fld 6 w 19) (fld 4 w 0))
  | 0x59 => mbz (bits w 18 0 = 0) (.ebkt (fld 6 w 19))
  | 0x5A => mbz (bits w 24 12 = 0) (.tmark (fld 12 w 0))
  | 0x5B => mbz (bits w 24 19 = 0 && bits w 12 0 = 0) (.pdone (fld 6 w 13))
  | 0x5C => mbz (bits w 24 19 = 0 && bits w 6 0 = 0) (.rngacq (fld 6 w 13) (fld 6 w 7))
  | 0x5D => mbz (bits w 24 19 = 0 && bits w 6 0 = 0) (.rngrel (fld 6 w 13) (fld 6 w 7))
  | 0x5E => mbz (bits w 24 1 = 0) (.drowse (fld 1 w 0))
  | _ => none

/-- System words and SBRK (R79). -/
def decodeSystem (w : Nat) : Option Instr :=
  match w / 2 ^ 25 with
  | 0x60 => mbz (bits w 18 12 = 0) (.csrr (fld 6 w 19) (fld 12 w 0))
  | 0x61 => mbz (bits w 18 12 = 0) (.csrw (fld 6 w 19) (fld 12 w 0))
  | 0x62 => mbz (bits w 24 19 = 0 && bits w 6 3 = 0) (.segw (fld 6 w 13) (fld 6 w 7) (fld 3 w 0))
  | 0x63 => mbz (bits w 24 0 = 0) (.tret)
  | 0x64 => mbz (bits w 12 0 = 0) (.mapf (fld 6 w 19) (fld 6 w 13))
  | 0x65 => mbz (bits w 18 0 = 0) (.fltpark (fld 6 w 19))
  | 0x66 => mbz (bits w 24 0 = 0) (.fltret)
  | 0x67 => mbz (bits w 24 19 = 0 && bits w 12 2 = 0) (.tlbinv (fld 6 w 13) (fld 2 w 0))
  | 0x68 => mbz (bits w 18 0 = 0) (.poolq (fld 6 w 19))
  | 0x69 => mbz (bits w 24 19 = 0 && bits w 6 3 = 0) (.cflush (fld 6 w 13) (fld 6 w 7) (fld 3 w 0))
  | 0x6A => mbz (bits w 24 19 = 0 && bits w 6 3 = 0) (.cinv (fld 6 w 13) (fld 6 w 7) (fld 3 w 0))
  | 0x7F => some (.sbrk (fld 25 w 0))
  | _ => none

/-- The instruction of a scalar word (R76, R77, R79). -/
def decodeScalar (w : Nat) : Option Instr :=
  match w / 2 ^ 29 with
  | 0 => if w / 2 ^ 25 = 0 then decodeSalu w else decodeArith w
  | 1 => decodeArith w
  | 2 => decodeMem w
  | 3 => if w / 2 ^ 25 < 0x38 then decodeMem w else decodeEngine w
  | 4 | 5 => decodeSync w
  | 6 | 7 => decodeSystem w
  | _ => none

/-! ### Lane words -/

/-- The code of a special source (R83). -/
def Special.code : Special → Nat
  | .lane => 0x20
  | .cell => 0x21
  | .gang => 0x22
  | .team => 0x23
  | .cluster => 0x24
  | .cohort => 0x25
  | .grid => 0x26
  | .item => 0x27
  | .ntpl => 0x28
  | .tstamp => 0x29
  | .ngang => 0x2A
  | .nteam => 0x2B
  | .nclus => 0x2C
  | .cx => 0x2D
  | .cy => 0x2E
  | .cz => 0x2F
  | .nx => 0x30
  | .ny => 0x31
  | .nz => 0x32

/-- The special source of a code. -/
def Special.ofCode : Nat → Option Special
  | 0x20 => some .lane
  | 0x21 => some .cell
  | 0x22 => some .gang
  | 0x23 => some .team
  | 0x24 => some .cluster
  | 0x25 => some .cohort
  | 0x26 => some .grid
  | 0x27 => some .item
  | 0x28 => some .ntpl
  | 0x29 => some .tstamp
  | 0x2A => some .ngang
  | 0x2B => some .nteam
  | 0x2C => some .nclus
  | 0x2D => some .cx
  | 0x2E => some .cy
  | 0x2F => some .cz
  | 0x30 => some .nx
  | 0x31 => some .ny
  | 0x32 => some .nz
  | _ => none

/-- A 10-bit source field (R82). -/
def Src.ofCode (x : Nat) : Option Src :=
  let i := x % 256
  match x / 256 % 4 with
  | 0 => some (.v (BitVec.ofNat 8 i))
  | 1 => if i < 8 then some (.o (BitVec.ofNat 3 i)) else none
  | 2 => if i = 0 then some .lt else none
  | _ =>
    if i = 0 then some .imm
    else if i ≤ 16 then some (.k (BitVec.ofNat 4 (i - 1)))
    else (Special.ofCode i).map .sp

def Src.code : Src → Nat
  | .v i => i.toNat
  | .o i => 256 + i.toNat
  | .lt => 512
  | .imm => 768
  | .k i => 769 + i.toNat
  | .sp x => 768 + x.code

/-- The destination fields DL, DV and DO (R81). -/
def Dst.ofCode (dl dv dO : Nat) : Option Dst :=
  match dl with
  | 0 => if dO = 0 then some (.v (BitVec.ofNat 8 dv)) else none
  | 1 => if dv = 0 then some (.o (BitVec.ofNat 3 dO)) else none
  | 2 => some (.vo (BitVec.ofNat 8 dv) (BitVec.ofNat 3 dO))
  | _ => if dv = 0 && dO = 0 then some .latch else none

/-- DL, DV and DO as bits [79:67]. -/
def Dst.code : Dst → Nat
  | .v i => i.toNat * 8
  | .o i => 2048 + i.toNat
  | .vo i j => 4096 + i.toNat * 8 + j.toNat
  | .latch => 6144

def Rm.ofCode : Nat → Option Rm
  | 0 => some .dyn | 1 => some .rne | 2 => some .rtz | 3 => some .rdn | 4 => some .rup | 5 => some .rna | 6 => some .rso
  | _ => none

def Rm.code : Rm → Nat
  | .dyn => 0 | .rne => 1 | .rtz => 2 | .rdn => 3 | .rup => 4 | .rna => 5 | .rso => 6

def Sm.ofCode : Nat → Option Sm
  | 0 => some .mode | 1 => some .wrap | 2 => some .sat
  | _ => none

def Sm.code : Sm → Nat
  | .mode => 0 | .wrap => 1 | .sat => 2

def Dm.ofCode : Nat → Option Dm
  | 0 => some .mode | 1 => some .preserve | 2 => some .flush
  | _ => none

def Dm.code : Dm → Nat
  | .mode => 0 | .preserve => 1 | .flush => 2

/-- The fields of a lane word below OPC (R80). -/
def decodeLaneOp (w : Nat) : Option LaneOp :=
  match Dst.ofCode (bits w 79 78) (bits w 77 70) (bits w 69 67), Src.ofCode (bits w 66 57), Src.ofCode (bits w 56 47),
      Src.ofCode (bits w 46 37), Rm.ofCode (bits w 32 30), Sm.ofCode (bits w 29 28), Dm.ofCode (bits w 27 26) with
  | some dst, some sa, some sb, some sc, some rm, some sm, some dm =>
    if bits w 24 20 = 0 then
      some { ty := Ty.ofCode (bits w 87 84), fn := fld 4 w 80, dst := dst, sa := sa, sb := sb, sc := sc,
             neg := bit w 36, pg := fld 3 w 33, rm := rm, sm := sm, dm := dm, yld := bit w 25, imm := fld 20 w 0 }
    else none
  | _, _, _, _, _, _, _ => none

/-- The instruction of an opcode; VPOP is three (R86, R142). -/
def laneInstr (opc : Nat) (o : LaneOp) : Option Instr :=
  match opc with
  | 0x00 => some (.vadd o)
  | 0x01 => some (.vsub o)
  | 0x02 => some (.vmul o)
  | 0x03 => some (.vmulh o)
  | 0x04 => some (.vmad o)
  | 0x05 => some (.vdiv o)
  | 0x06 => some (.vrem o)
  | 0x07 => some (.vabs o)
  | 0x08 => some (.vneg o)
  | 0x09 => some (.vmin o)
  | 0x0A => some (.vmax o)
  | 0x0B => some (.vand o)
  | 0x0C => some (.vor o)
  | 0x0D => some (.vxor o)
  | 0x0E => some (.vnot o)
  | 0x0F => some (.vshl o)
  | 0x10 => some (.vshr o)
  | 0x11 => some (.vsra o)
  | 0x12 => some (.vrot o)
  | 0x13 => some (.vpopc o)
  | 0x14 => some (.vclz o)
  | 0x15 => some (.vbfx o)
  | 0x16 => some (.vbfi o)
  | 0x17 => some (.vcmp o)
  | 0x18 => some (.vsel o)
  | 0x19 => some (.vadc o)
  | 0x1A => some (.vsad o)
  | 0x1B => some (.vdot4 o)
  | 0x30 => some (.fadd o)
  | 0x31 => some (.fsub o)
  | 0x32 => some (.fmul o)
  | 0x33 => some (.ffma o)
  | 0x34 => some (.fmin o)
  | 0x35 => some (.fmax o)
  | 0x36 => some (.fabs o)
  | 0x37 => some (.fneg o)
  | 0x38 => some (.fdiv o)
  | 0x39 => some (.fsqrt o)
  | 0x3A => some (.ftrn o)
  | 0x3B => some (.fcmp o)
  | 0x3C => some (.fclass o)
  | 0x3D => some (.fscale o)
  | 0x3E => some (.frnd o)
  | 0x3F => some (.fdot2 o)
  | 0x40 => some (.cvt o)
  | 0x41 => some (.cvtb o)
  | 0x42 => some (.cvtx o)
  | 0x43 => some (.vamax o)
  | 0x60 => some (.vmov o)
  | 0x61 => some (.vperm o)
  | 0x62 => some (.vbcast o)
  | 0x63 => some (.vreds o)
  | 0x64 => some (.vscan o)
  | 0x65 => some (.vvote o)
  | 0x66 => if o.fn = 0 then some (.vpopSet o) else if o.fn = 1 then some (.vpopGet o)
    else if o.fn = 2 then some (.vpopPut o) else none
  | 0x80 => some (.lbra o)
  | 0x81 => some (.ljmp o)
  | 0x82 => some (.lcall o)
  | 0x83 => some (.lret o)
  | 0x84 => some (.lif o)
  | 0x85 => some (.lelse o)
  | 0x86 => some (.lendif o)
  | 0x87 => some (.lregang o)
  | 0x88 => some (.lend o)
  | 0x89 => some (.lexit o)
  | 0x8A => some (.lyield o)
  | 0x8B => some (.lbarg o)
  | 0x8C => some (.lnop o)
  | 0xA0 => some (.ldv o)
  | 0xA1 => some (.stv o)
  | 0xA2 => some (.ldpk o)
  | 0xA3 => some (.stpk o)
  | 0xA4 => some (.stnt o)
  | 0xA5 => some (.atom o)
  | 0xA6 => some (.atomn o)
  | 0xA7 => some (.redmc o)
  | 0xA8 => some (.rowld o)
  | 0xA9 => some (.rowst o)
  | 0xAA => some (.accrd o)
  | 0xAB => some (.accwr o)
  | 0xAC => some (.pref o)
  | 0xAD => some (.ldmap o)
  | 0xAE => some (.stmap o)
  | 0xAF => some (.vfence o)
  | 0xD0 => some (.lwaitt o)
  | 0xD1 => some (.ltmark o)
  | _ => none

/-- The instruction of a lane word (R80 to R86). -/
def decodeLane (w : Nat) : Option Instr :=
  match decodeLaneOp w with
  | some o => laneInstr (bits w 95 88) o
  | none => none

/-- The instruction of the bytes of a word: four of a scalar word or twelve of a lane word, lowest first (R3). -/
def decodeBytes (bs : List Byte) : Option Instr :=
  if bs.length = 4 then decodeScalar (natOf bs)
  else if bs.length = 12 then decodeLane (natOf bs)
  else none

/-- The instruction of a word numbered as the opcode table numbers it. -/
def decodeTableWord (nbits w : Nat) : Option Instr := decodeBytes (bytesOf (nbits / 8) w)

/-! ### The encoder -/

/-- A lane word (R80). -/
def encodeLane (opc : Nat) (o : LaneOp) : Nat :=
  opc * 2 ^ 88 + o.ty.code * 2 ^ 84 + o.fn.toNat * 2 ^ 80 + o.dst.code * 2 ^ 67 + o.sa.code * 2 ^ 57 + o.sb.code * 2 ^ 47 +
    o.sc.code * 2 ^ 37 + b2n o.neg * 2 ^ 36 + o.pg.toNat * 2 ^ 33 + o.rm.code * 2 ^ 30 + o.sm.code * 2 ^ 28 +
    o.dm.code * 2 ^ 26 + b2n o.yld * 2 ^ 25 + o.imm.toNat


/-- A field placed at bit `lo`. -/
def pk {n : Nat} (x : BitVec n) (lo : Nat) : Nat := x.toNat * 2 ^ lo

/-- Arithmetic, branches and jumps. -/
def encodeArith (i : Instr) : Option Nat :=
  match i with
  | .sadd d a b => some (0x00000000 + pk d 19 + pk a 13 + pk b 7)
  | .ssub d a b => some (0x00000001 + pk d 19 + pk a 13 + pk b 7)
  | .smul d a b => some (0x00000002 + pk d 19 + pk a 13 + pk b 7)
  | .smulh d a b => some (0x00000003 + pk d 19 + pk a 13 + pk b 7)
  | .smulhn d a b => some (0x00000004 + pk d 19 + pk a 13 + pk b 7)
  | .sdiv d a b => some (0x00000005 + pk d 19 + pk a 13 + pk b 7)
  | .sdivn d a b => some (0x00000006 + pk d 19 + pk a 13 + pk b 7)
  | .srem d a b => some (0x00000007 + pk d 19 + pk a 13 + pk b 7)
  | .sremn d a b => some (0x00000008 + pk d 19 + pk a 13 + pk b 7)
  | .sand d a b => some (0x00000009 + pk d 19 + pk a 13 + pk b 7)
  | .sor d a b => some (0x0000000A + pk d 19 + pk a 13 + pk b 7)
  | .sxor d a b => some (0x0000000B + pk d 19 + pk a 13 + pk b 7)
  | .sshl d a b => some (0x0000000C + pk d 19 + pk a 13 + pk b 7)
  | .sshr d a b => some (0x0000000D + pk d 19 + pk a 13 + pk b 7)
  | .ssra d a b => some (0x0000000E + pk d 19 + pk a 13 + pk b 7)
  | .smin d a b => some (0x0000000F + pk d 19 + pk a 13 + pk b 7)
  | .sminn d a b => some (0x00000010 + pk d 19 + pk a 13 + pk b 7)
  | .smax d a b => some (0x00000011 + pk d 19 + pk a 13 + pk b 7)
  | .smaxn d a b => some (0x00000012 + pk d 19 + pk a 13 + pk b 7)
  | .sslt d a b => some (0x00000013 + pk d 19 + pk a 13 + pk b 7)
  | .ssltn d a b => some (0x00000014 + pk d 19 + pk a 13 + pk b 7)
  | .seq d a b => some (0x00000015 + pk d 19 + pk a 13 + pk b 7)
  | .spopc d a => some (0x00000016 + pk d 19 + pk a 13)
  | .sclz d a => some (0x00000017 + pk d 19 + pk a 13)
  | .slea d a b k => some (0x00000018 + pk d 19 + pk a 13 + pk b 7 + pk k 0)
  | .saddi d a i => some (0x02000000 + pk d 19 + pk a 13 + pk i 0)
  | .sandi d a i => some (0x04000000 + pk d 19 + pk a 13 + pk i 0)
  | .sori d a i => some (0x06000000 + pk d 19 + pk a 13 + pk i 0)
  | .sxori d a i => some (0x08000000 + pk d 19 + pk a 13 + pk i 0)
  | .sshli d a n => some (0x0A000000 + pk d 19 + pk a 13 + pk n 0)
  | .sshri d a n => some (0x0C000000 + pk d 19 + pk a 13 + pk n 0)
  | .ssrai d a n => some (0x0E000000 + pk d 19 + pk a 13 + pk n 0)
  | .sslti d a i => some (0x10000000 + pk d 19 + pk a 13 + pk i 0)
  | .ssltni d a i => some (0x12000000 + pk d 19 + pk a 13 + pk i 0)
  | .sli d i => some (0x14000000 + pk d 19 + pk i 0)
  | .slx d i => some (0x16000000 + pk d 19 + pk i 0)
  | .smuli d a i => some (0x18000000 + pk d 19 + pk a 13 + pk i 0)
  | .sbeq a b i => some (0x20000000 + pk a 19 + pk b 13 + pk i 0)
  | .sbne a b i => some (0x22000000 + pk a 19 + pk b 13 + pk i 0)
  | .sblt a b i => some (0x24000000 + pk a 19 + pk b 13 + pk i 0)
  | .sbge a b i => some (0x26000000 + pk a 19 + pk b 13 + pk i 0)
  | .sbltn a b i => some (0x28000000 + pk a 19 + pk b 13 + pk i 0)
  | .sbgen a b i => some (0x2A000000 + pk a 19 + pk b 13 + pk i 0)
  | .sloop a i => some (0x2C000000 + pk a 19 + pk i 0)
  | .sj i => some (0x30000000 + pk i 0)
  | .sjal i => some (0x32000000 + pk i 0)
  | .sjr a i => some (0x34000000 + pk a 13 + pk i 0)
  | .sjalr d a i => some (0x36000000 + pk d 19 + pk a 13 + pk i 0)
  | _ => none

/-- Loads, stores, the lane queue and engine words. -/
def encodeMem (i : Instr) : Option Nat :=
  match i with
  | .sldb d a i => some (0x40000000 + pk d 19 + pk a 13 + pk i 0)
  | .sldh d a i => some (0x42000000 + pk d 19 + pk a 13 + pk i 0)
  | .sldw d a i => some (0x44000000 + pk d 19 + pk a 13 + pk i 0)
  | .sldd d a i => some (0x46000000 + pk d 19 + pk a 13 + pk i 0)
  | .sldbx d a i => some (0x48000000 + pk d 19 + pk a 13 + pk i 0)
  | .sldhx d a i => some (0x4A000000 + pk d 19 + pk a 13 + pk i 0)
  | .sldwx d a i => some (0x4C000000 + pk d 19 + pk a 13 + pk i 0)
  | .sldk d a i => some (0x4E000000 + pk d 19 + pk a 13 + pk i 0)
  | .sstb b a i => some (0x50000000 + pk b 19 + pk a 13 + pk i 0)
  | .ssth b a i => some (0x52000000 + pk b 19 + pk a 13 + pk i 0)
  | .sstw b a i => some (0x54000000 + pk b 19 + pk a 13 + pk i 0)
  | .sstd b a i => some (0x56000000 + pk b 19 + pk a 13 + pk i 0)
  | .slds d a i => some (0x58000000 + pk d 19 + pk a 13 + pk i 0)
  | .ssts b a i => some (0x5A000000 + pk b 19 + pk a 13 + pk i 0)
  | .lq a i => some (0x60000000 + pk a 13 + pk i 0)
  | .lqw => some 0x62000000
  | .sgetl d r l => some (0x64000000 + pk d 19 + pk r 5 + pk l 0)
  | .bcopy n a b x y => some (0x70000000 + pk n 19 + pk a 13 + pk b 7 + pk x 4 + pk y 1)
  | .bred n a b x o => some (0x72000000 + pk n 19 + pk a 13 + pk b 7 + pk x 4 + pk o 0)
  | .ttq a i => some (0x74000000 + pk a 13 + pk i 0)
  | .tagx d n => some (0x76000000 + pk d 19 + pk n 0)
  | .ctset a i => some (0x78000000 + pk a 13 + pk i 0)
  | .shadow d a b => some (0x7A000000 + pk d 19 + pk a 13 + pk b 7)
  | .publish a => some (0x7C000000 + pk a 13)
  | .trchk d a i => some (0x7E000000 + pk d 19 + pk a 13 + pk i 0)
  | _ => none

/-- Synchronisation, templates, row holds and the rest of the user words. -/
def encodeSync (i : Instr) : Option Nat :=
  match i with
  | .bar l x => some (0x80000000 + pk l 10 + pk x 0)
  | .bara l x => some (0x82000000 + pk l 10 + pk x 0)
  | .barw l x => some (0x84000000 + pk l 10 + pk x 0)
  | .waitall a => some (0x86000000 + pk a 13)
  | .waitany d a => some (0x88000000 + pk d 19 + pk a 13)
  | .tagff d a => some (0x8A000000 + pk d 19 + pk a 13)
  | .tagclr a => some (0x8C000000 + pk a 13)
  | .fence s => some (0x8E000000 + pk s 0)
  | .acq d a s => some (0x90000000 + pk d 19 + pk a 13 + pk s 0)
  | .rel a b s => some (0x92000000 + pk a 13 + pk b 7 + pk s 0)
  | .bind c a b s => some (0x94000000 + pk c 19 + pk a 13 + pk b 7 + pk s 0)
  | .unbind a => some (0x96000000 + pk a 13)
  | .evset e => some (0x98000000 + pk e 0)
  | .evwait e => some (0x9A000000 + pk e 0)
  | .launch d a q => some (0x9C000000 + pk d 19 + pk a 13 + pk q 0)
  | .freeze => some 0x9E000000
  | .stamp a => some (0xA0000000 + pk a 13)
  | .stt b a i => some (0xA2000000 + pk b 19 + pk a 13 + pk i 0)
  | .yield => some 0xA4000000
  | .exit => some 0xA6000000
  | .trap i => some (0xA8000000 + pk i 0)
  | .rowpinP n a m => some (0xAA000100 + pk n 19 + pk a 13 + pk m 0)
  | .rowpinV n a m => some (0xAA000000 + pk n 19 + pk a 13 + pk m 0)
  | .rowrel n => some (0xAC000000 + pk n 19)
  | .rowq d n => some (0xAE000000 + pk d 19 + pk n 0)
  | .opreq d n => some (0xB0000000 + pk d 19 + pk n 0)
  | .ebkt d => some (0xB2000000 + pk d 19)
  | .tmark v => some (0xB4000000 + pk v 0)
  | .pdone a => some (0xB6000000 + pk a 13)
  | .rngacq a b => some (0xB8000000 + pk a 13 + pk b 7)
  | .rngrel a b => some (0xBA000000 + pk a 13 + pk b 7)
  | .drowse e => some (0xBC000000 + pk e 0)
  | _ => none

/-- System words and SBRK. -/
def encodeSystem (i : Instr) : Option Nat :=
  match i with
  | .csrr d c => some (0xC0000000 + pk d 19 + pk c 0)
  | .csrw b c => some (0xC2000000 + pk b 19 + pk c 0)
  | .segw a b s => some (0xC4000000 + pk a 13 + pk b 7 + pk s 0)
  | .tret => some 0xC6000000
  | .mapf d a => some (0xC8000000 + pk d 19 + pk a 13)
  | .fltpark d => some (0xCA000000 + pk d 19)
  | .fltret => some 0xCC000000
  | .tlbinv a k => some (0xCE000000 + pk a 13 + pk k 0)
  | .poolq d => some (0xD0000000 + pk d 19)
  | .cflush a b s => some (0xD2000000 + pk a 13 + pk b 7 + pk s 0)
  | .cinv a b s => some (0xD4000000 + pk a 13 + pk b 7 + pk s 0)
  | .sbrk x => some (0xFE000000 + pk x 0)
  | _ => none

/-- A scalar word (R76, R79). -/
def encodeScalar (i : Instr) : Option Nat :=
  match encodeArith i with
  | some w => some w
  | none =>
    match encodeMem i with
    | some w => some w
    | none =>
      match encodeSync i with
      | some w => some w
      | none => encodeSystem i

/-- The words of an instruction with their number of bits; a step of the device or of the host has none. -/
def encode (i : Instr) : Option (Nat × Nat) :=
  match i.lane? with
  | some (opc, o) => some (96, encodeLane opc o)
  | none => (encodeScalar i).map fun w => (32, w)

end Sys2Proof
end

