-- ==== Sys2Proof/Machine/Fetch.lean ====
section
/-!
DEFINITION. What the device does next: the next choice of the agenda (notes/assumptions/1.md), and the word or the boundary event that a chosen stream
meets (R77, R87, R100, R196, R229, R418, R420, R421).
-/

namespace Sys2Proof.Machine

/-- The word at hand belongs to gang `u`, in the scalar stream when `cells` is empty. -/
def State.select (s : State) (u : Nat) (cells : List Nat) : State := { s with cur := u, cells := cells }

/-- Whether a deferred report of the gang's team is for gang `u`. -/
def State.deferredFor (s : State) (u : Nat) : Bool :=
  let t := (s.gang u).team
  (s.team t).deferred.any fun e => s.deferredTo t e.1 = some u

/-! ### The scalar stream -/

/-- The word at SPC, read and decoded. What its fetch is charged lands with the word (R346). -/
def State.fetchScalar (s : State) (u : Nat) : State × Option Instr :=
  let a := s.asidOf (s.gang u)
  match s.fetch (.fetch u) u (s.gang u).spc.toNat 4 with
  | .wait t => (s.defer t (.fetch u) a, none)
  | .fault _ _ _ _ => (s, some .scalarFetchFault)
  | .word t bs => (s.defer t (.fetch u) a, some ((decodeBytes bs).getD .illegalEncoding))

/-- The scalar stream of gang `u` at its boundary: what is due there before the next word, else the next word. -/
def State.scalarTurn (s : State) (u : Nat) : State × Option Instr :=
  let g := s.gang u
  if !s.gangRuns g || !(g.hasStream || g.breakDue) || g.allExited || s.stopped then (s, none)
  else
    let s := s.select u []
    if s.deferredFor u then (s, some (.deferredTaskfmt g.team))
    else if s.pbleftOut g then (s, some (.pbleftExpiry u))
    else if g.preq.isSome && !g.priv then (s, some (.preemptDelivery u))
    else if g.breakDue then (s.scalarBreak u 0x1FFF, none)
    else
      let s := s.emitCadence u
      match (if g.priv || g.pframe.isSome then none else g.sttLeft.head?) with
      | some x => (s.sttStep u x, none)
      | none =>
        match (if g.skipS then none else (s.ctxOf g).breakAt false g.spc.toNat) with
        | some n => (s.scalarBreak u (n + 1), none)
        | none => s.fetchScalar u

/-! ### Issue groups -/

/-- The cells of gang `g` that run and issue with cell `c`. -/
def Gang.issueGroup (g : Gang) (c : Nat) : List Nat :=
  (List.range 8).filter fun d => (g.cell d).run = .run && (g.cell d).group = (g.cell c).group

/-- The code address of lane word `n` of a gang (R115). -/
def State.laneVa (s : State) (g : Gang) (n : Nat) : Nat := (s.recOf g).lcbase + 12 * n

/-- A trap of the issue group at the fetch of its word (R87, R100, R420): the group's lanes are pending, whatever their masks, so that the word is met
again after TRET. -/
def State.laneFetchTrap (s : State) (u cause code addr fk acc : Nat) : State :=
  let l := (s.gang u).groupLanes s.cells
  s.laneTrap u cause code l l addr fk acc

/-- The lane word at the group's LPC, read and decoded. -/
def State.fetchLane (s : State) (u c va : Nat) : State × Option Instr :=
  let a := s.asidOf (s.gang u)
  match s.fetch (.laneFetch u c) u va 12 with
  | .wait t => (s.defer t (.laneFetch u c) a, none)
  | .fault s cause k addr => (s.laneFetchTrap u cause 0 addr k accFetch, none)
  | .word t bs => (s.defer t (.laneFetch u c) a, some ((decodeBytes bs).getD .illegalEncoding))

/-- The issue group of cell `c` of gang `u`, or the next block when none runs. -/
def State.laneTurn (s : State) (u c : Nat) : State × Option Instr :=
  let g := s.gang u
  if !s.gangRuns g || g.allExited || s.stopped || (s.region (s.regOf g)).drowseMove.isSome then (s, none)
  else if g.block.isNone then (s, if g.queue.isEmpty then none else some (.laneBlockStart u))
  else if (g.cell c).run ≠ .run then (s, none)
  else
    let cells := g.issueGroup c
    let s := (s.select u cells).emitCadence u
    let n := g.lpcOf cells
    match (if g.skipL then none else (s.ctxOf g).breakAt true n) with
    | some b => (s.laneFetchTrap u cBREAK (b + 1) (s.laneVa g n) 0 0, none)
    | none => s.fetchLane u c (s.laneVa g n)

/-! ### The order of events -/

/-- The choices that may have something to do, for a device whose agenda is empty (notes/assumptions/1.md). -/
def State.choices (s : State) : List Choice :=
  let gangs := s.gangs.flatMap fun e =>
    Choice.scalar e.1 :: (List.range 8).map (fun c => Choice.lane e.1 c) ++
      [.event (.gangRetire e.1), .event (.itemCreate e.1), .event (.pbleftExpiry e.1)]
  let teams := s.teams.flatMap fun e =>
    (List.range 8).map (fun n => Choice.event (.rowOpenComplete e.1 n)) ++
      (e.2.tasks.map fun k => Choice.event (.taskStep e.1 k.enq)) ++ [.event (.deferredTaskfmt e.1), .event (.teamExit e.1)]
  let clusters := s.clusters.flatMap fun e =>
    [Choice.event (.clusterSaved e.1), .event (.swapBegin e.1), .event (.swapSaveComplete e.1), .event (.restoreComplete e.1)]
  let regions := s.regions.flatMap fun e =>
    [Choice.event (.taskStart e.1), .event (.copyChunk e.1 0), .event (.copyChunk e.1 1), .event (.frequencySwitch e.1),
     .event (.voltageSlewEnd e.1), .event (.drowseRailMove e.1), .event (.trimStep e.1), .event (.undervoltHoldoffEnd e.1)]
  let ctxs := s.ctxs.flatMap fun e =>
    (List.range 8).flatMap (fun q => [Choice.event (.hostRecordRead e.1 q), .event (.ageStep e.1 q)]) ++
      [.event (.faultRecordPost e.1), .event (.sliceEnd e.1), .event (.readingPeriodic e.1)]
  let checks := (List.range 48).map (fun r => Choice.event (.hotSpot r)) ++ (List.range 8).map fun k => Choice.event (.patrolScrub k 0)
  let parts := s.parts.flatMap fun e => [Choice.event (.clusterPlace e.1), .event (.epochStart e.1)]
  let reqs := s.requests.map fun r => Choice.event (.requestTimeout r.tag)
  let traces := s.trace.flatMap fun c => c.2.flatMap fun a => [Choice.event (.traceDrain c.1 a.1), .event (.traceIdleFlush c.1 a.1)]
  gangs ++ teams ++ clusters ++ regions ++ ctxs ++ parts ++ reqs ++ traces ++ checks ++ [.event (.tick []), .elapse 100]

/-- The next choice, taken from the agenda, or from the rotation when the agenda is empty. -/
def State.nextChoice (s : State) : Choice × State :=
  match s.agenda with
  | c :: rest => (c, { s with agenda := rest })
  | [] =>
    let l := s.choices
    ((l[s.turn % l.length]?).getD (.elapse 100), { s with turn := s.turn + 1 })

/-- Traffic that meets the dies from outside: it waits under flow control while they are stopped (R364). -/
def trafficInstr (i : Instr) : Bool :=
  match i with
  | .readRequest _ | .write _ | .readCompletion _ | .atomic _ | .writeAcknowledgement _ | .reduceContribution _ | .reduceDelivery _
  | .cxlMemAccess _ => true
  | _ => false

/-- What the clocks drive that a thermal stop gates: it happens when they run again (R364). -/
def clockedInstr (i : Instr) : Bool :=
  match i with
  | .laneBlockStart _ | .gangRetire _ | .teamExit _ | .deferredTaskfmt _ | .taskStart _ | .taskStep _ _ | .mxp _ _ | .mxb _ _ | .scacc _ _
  | .accz _ _ | .acccv _ _ | .accmov _ _ | .copyChunk _ _ | .rowOpenComplete _ _ | .itemCreate _ | .preemptDelivery _ | .pbleftExpiry _
  | .clusterSaved _ | .swapBegin _ | .swapSaveComplete _ | .restoreComplete _ | .clusterPlace _ | .traceDrain _ _ | .traceIdleFlush _ _
  | .traceSyncCadence _ | .hostRecordRead _ _ => true
  | _ => false

/-- An event, or nothing in its place while the dies are stopped. -/
def State.takeEvent (s : State) (i : Instr) : State × Option Instr :=
  if !s.stopped then (s, some i)
  else if trafficInstr i then ({ s with flow := s.flow ++ [.event i] }, none)
  else if clockedInstr i then (s, none)
  else (s, some i)

/-- Whether a choice takes a copy or a translation away: the caches keep their state while the dies are stopped (R364). -/
def Choice.evicts (c : Choice) : Bool :=
  match c with
  | .evictL1 _ _ | .evictNear _ _ | .evictHome _ | .evictVictim _ | .evictTlb _ _ => true
  | _ => false

/-- What comes before time passes: the scheduler's age steps and decisions, and a swap whose time has run out (R306, R329, R343). -/
def State.dueNow (s : State) : Option Instr :=
  if s.stopped then none
  else (s.parts.findSome? fun e => s.dueFirst e.1) <|> (s.swapTimes.find? fun e => e.2 = 0).map fun e => .swapBegin e.1

/-- `ns` are to pass, at the choice `c`, which comes again after what is due first; a swap bounds them (R306). A tick that they reach is run. -/
def State.passTime (s : State) (c : Choice) (ns : Nat) : State × Option Instr :=
  match s.dueNow with
  | some i => ({ s with agenda := c :: s.agenda }, some i)
  | none =>
    let n := if s.stopped then ns else s.swapTimes.foldl (fun n e => min n e.2) ns
    let s := s.drowseAll
    match c with
    | .event i => if n < ns then (s.elapse n, none) else s.takeEvent i
    | _ => (s.elapse n, none)

/-- What a choice leads to: a change of the state by itself, or an instruction to run. -/
def State.take (s : State) (c : Choice) : State × Option Instr :=
  if s.stopped && c.evicts then (s, none)
  else match c with
  | .scalar u => s.scalarTurn u
  | .lane u c => s.laneTurn u c
  | .event i =>
    match i with
    | .tick _ => s.passTime c (s.tickEnd - s.now)
    | _ => s.takeEvent i
  | .elapse ns => s.passTime c ns
  | .evictL1 core line => (s.evictL1 core line, none)
  | .evictNear r line => (s.evictNear r line, none)
  | .evictHome line => (s.evictHome (((Tbl.at? s.home line).map (·.asid)).getD 0) line, none)
  | .evictVictim line => (s.evictVictim (((Tbl.at? s.victim line).map (·.asid)).getD 0) line, none)
  | .evictTlb n v =>
    -- Numbers from 384 on name the walk-ahead TLBs.
    let t : TlbOf := if n < 384 then .core n else .region (n - 384)
    (s.setTlb t ((s.tlbEntries t).filter fun e => e.vbase ≠ v), none)
  | .read x => (s.hostRead x, none)
  | .stream f => ({ s with ide := f }, none)
  | .hottest t => ({ s with hottest := t }, none)
  | .raise worker v => (s.raiseMin worker v, none)

/-- What acts on a device before its bring-up is complete, or where it has failed: SPDM and configuration requests, resets, reads of its status
register, and what is at the far ends of its ports (R411). -/
def Choice.early (c : Choice) : Bool :=
  match c with
  | .event i => match i with
    | .getVersion _ | .getCapabilities _ | .negotiateAlgorithms _ | .getDigests _ | .getCertificate _ | .challenge _ | .getMeasurements _
    | .keyExchange _ | .finish _ | .configurationRequest _ _ | .portTraining _ _ _ | .coldReset | .perst => true
    | _ => false
  | .read .status => true
  | _ => false

/-- The step in hand: bring-up until it is complete, then the next choice. Before that an early choice that comes next is taken, and a device whose
bring-up has failed takes nothing else. -/
def State.upNext (s : State) : State × Option Instr :=
  match s.agenda with
  | c :: rest =>
    if 8 ≤ s.boot || c.early then ({ s with agenda := rest } : State).take c
    else if s.bootFailed.isSome then ({ s with agenda := rest }, none)
    else (s.bootStep, none)
  | [] =>
    if s.boot < 8 then (s.bootStep, none)
    else
      let (c, s) := s.nextChoice
      s.take c

end Sys2Proof.Machine
end

