-- ==== Sys2Proof/Machine/Load.lean ====
section
/-!
DEFINITION. A word placed where the device fetches its next one (notes/assumptions/2.md). A program reaches the SX4 through a context, a launch
record and the placement of its cluster; where the state has no gang that runs, these are installed directly, with one page of code.
-/

namespace Sys2Proof.Machine

/-- Bring-up run to its end (R411). -/
def State.bringUp (s : State) : State := (List.range 7).foldl (fun (s : State) _ => s.bootStep) s

/-- Where the loader's page tables and code page lie. -/
def loadTable : Nat := 0x10000
def loadPage : Nat := 0x100000
/-- The virtual address of the loader's code page. -/
def loadVa : Nat := 0x10000

/-- Page tables that map the code page, readable and executable (R290, R292). -/
def State.loadTables (s : State) : State :=
  let link := fun (m : Mem) (i : Nat) => Mem.write m (loadTable + 0x4000 * i) (bytesOf 8 (loadTable + 0x4000 * (i + 1) + 1))
  let m := (List.range 3).foldl link s.mem
  { s with mem := Mem.write m (loadTable + 0xC000 + 8 * (loadVa / 2 ^ 16)) (bytesOf 8 (loadPage + 0x13)) }

/-- The launch record of the loader's grid: one gang with every grant. -/
def loadRec : LaunchRec :=
  { LaunchRec.blank with
    entry := loadVa, lcbase := loadVa, regs := 256, tags := 64, rows := 8, tiles := 64, tdepth := 3, scratch := 65536, ntb := 16,
    ncb := 8, nkb := 4 }

def loadBarriers (n : Nat) : Tbl Barrier := (List.range n).map fun i => (i, { Barrier.blank with exp := 1 })

/-- A context with one grid, cluster, team and gang, ready to run at the code page. -/
def State.install (s : State) : State :=
  let s := s.bringUp.loadTables
  let a := (Tbl.keys s.ctxs).foldl (fun m n => if m < n then n else m) 0 + 1
  let n := s.uid
  let c : Ctx := { Ctx.blank with part := (s.region 0).part.getD 0, l1 := loadTable }
  let gr : Grid := { Grid.blank with asid := a, gid := 1, rcd := loadRec, placed := 1, admitted := true, kb := loadBarriers 4 }
  let cl : Cluster := { Cluster.blank with grid := n, teams := [n], cb := loadBarriers 8 }
  let t : Team :=
    { Team.blank with grid := n, cluster := n, slots := [0], wbases := [0], sbase := 256, tb := loadBarriers 16 }
  let s := { s with
    ctxs := Tbl.put s.ctxs a c
    grids := Tbl.put s.grids n gr
    clusters := Tbl.put s.clusters n cl
    teams := Tbl.put s.teams n t
    uid := s.uid + 1 }
  { s with gangs := Tbl.put s.gangs n { Gang.blank with team := n, spc := BitVec.ofNat 64 loadVa, segs := s.createSegs n }, cur := n }

/-- The gang whose word is placed: the one that ran last, if it may run, else the loader's. -/
def State.ready (s : State) : State :=
  match Tbl.at? s.gangs s.cur with
  | some g => if s.boot = 8 && s.gangRuns g && g.hasStream then s else s.install
  | none => s.install

/-- Bytes stored at a virtual address of gang `u`'s context, page by page; no copy of their lines is left. -/
def State.place (s : State) (u va : Nat) (bs : List Byte) : State :=
  let a := s.asidOf (s.gang u)
  ((List.range bs.length).zip bs).foldl (fun (s : State) e =>
    match s.peekPa a (va + e.1) with
    | some pa =>
      let s := s.putMem pa [e.2]
      { s with
        l1 := Tbl.each s.l1 fun _ t => Tbl.del t (lineOf pa)
        near := Tbl.each s.near fun _ t => Tbl.del t (lineOf pa) }
    | none => s) s

/-- A gang that is about to issue the lane word at its block's address 0 in every cell (R17, R23). -/
def Gang.laneReady (g : Gang) : Gang :=
  { g with skipL := true }.startBlock { idx := 0, k := [], den := g.mode.den, satd := g.mode.satd, rmd := g.mode.rmd, enq := 0 } []

/-- The scalar word or the lane word of `nbits` bits placed, and its stream chosen. -/
def State.load (s : State) (nbits w : Nat) : State :=
  let s := { s.ready with stopped := false }
  let u := s.cur
  let g := s.gang u
  let s := s.modRegion (s.regOf g) fun x => { x with drowseMove := none }
  if nbits ≤ 32 then
    let s := s.place u g.spc.toNat (bytesOf 4 w)
    let s := s.modGang u fun g => { g with stepping := 0, skipS := true, preq := none, sttLeft := [], tr := { g.tr with due := none } }
    { s with agenda := .scalar u :: s.agenda }
  else
    let s := s.modGang u Gang.laneReady
    let s := s.place u (s.laneVa g 0) (bytesOf 12 w)
    { s with agenda := .lane u (((s.gang u).liveCells.head?).getD 0) :: s.agenda }

end Sys2Proof.Machine
end

