-- ==== Sys2Proof/Machine/Step.lean ====
section
/-!
DEFINITION. One step of the device, and the placing of a word where it fetches the next one.
-/

namespace Sys2Proof.Machine

/-- One step: what is up next happens by itself, or is an instruction that runs; then the step ends (R307, R346). -/
def step (s : State) : Host.Outcome State Fault Refusal :=
  match s.upNext with
  | (s, some i) => landed (exec i s)
  | (s, none) => .next s.settle

/-- `s` with the word `w` of `nbits` bits stored where `step` fetches next (notes/assumptions/2.md). -/
def State.withFetchWord (s : State) (nbits w : Nat) : State := s.load nbits w

end Sys2Proof.Machine
end

