-- ==== Sys2Proof/Safety.lean ====
section
/-!
DEFINITION. What counts as a safe step and a well-kept state, and the terms in which statements say what a word does to the device.
-/

namespace Sys2Proof.Machine

/-- A step that neither faults nor refuses. -/
def Goes (x : Host.Outcome State Fault Refusal) : Prop := ∃ s, x = .next s

/-- The three stores of the device are in canonical form: device and host memory, the cores' stores and the accumulators. -/
def State.stores (s : State) : Prop := s.mem.wf = true ∧ s.store.wf = true ∧ s.acc.wf = true

/-! ### What stays as it was -/

/-- A context but for its energy counts (R349, R353). -/
def Ctx.uncharged (c : Ctx) : Ctx := { c with ectr := 0, ecsat := false, dtick := [] }

/-- Every context is as before but for its energy counts. -/
def State.sameCtxs (s t : State) : Prop := ∀ a, (Tbl.at? t.ctxs a).map Ctx.uncharged = (Tbl.at? s.ctxs a).map Ctx.uncharged

/-- The device is as before but for gang `u` and for energy counts: every byte of memory, store and accumulator, every other gang, every team, slot,
tag, ring and register of a context. -/
def State.onlyGang (s t : State) (u : Nat) : Prop :=
  t = { s with gangs := t.gangs, ctxs := t.ctxs, energy := t.energy } ∧
    (∀ v, v ≠ u → Tbl.at? t.gangs v = Tbl.at? s.gangs v) ∧ s.sameCtxs t

/-- A context but for its energy counts and for TRLOST. -/
def Ctx.untraced (c : Ctx) : Ctx := { c.uncharged with trlost := 0 }

/-- A gang but for its trace counters (R416 to R418). -/
def Gang.untraced (g : Gang) : Gang := { g with tr := { stamp := 0, sync := 0, packets := 0, due := none } }

/-- The device is as before but for gang `u`, for energy counts and for the trace: buffers, TRLOST and the trace counters of gangs. -/
def State.onlyTraced (s t : State) (u : Nat) : Prop :=
  t = { s with gangs := t.gangs, ctxs := t.ctxs, energy := t.energy, trace := t.trace } ∧
    (∀ v, v ≠ u → (Tbl.at? t.gangs v).map Gang.untraced = (Tbl.at? s.gangs v).map Gang.untraced) ∧
    ∀ a, (Tbl.at? t.ctxs a).map Ctx.untraced = (Tbl.at? s.ctxs a).map Ctx.untraced

/-- Every byte of device and host memory, of the cores' stores and of the accumulators reads as before, with its poison, and memory is under the same keys. -/
def State.sameBytes (s t : State) : Prop :=
  t.mem = s.mem ∧ t.memBad = s.memBad ∧ t.store = s.store ∧ t.storeBad = s.storeBad ∧ t.acc = s.acc ∧ t.metas = s.metas ∧
    t.keyed = s.keyed

/-- What a scalar word leaves of its gang unless the spec says otherwise: the lanes and cells, MODE, PRIV, the segments, the registers that describe a trap
and a pre-emption, and the debug control. -/
def Gang.kept (g h : Gang) : Prop :=
  h.lanes = g.lanes ∧ h.cells = g.cells ∧ h.mode = g.mode ∧ h.priv = g.priv ∧ h.segs = g.segs ∧ h.trap = g.trap ∧ h.tfstat = g.tfstat ∧
    h.sscr = g.sscr ∧ h.frame = g.frame ∧ h.pspc = g.pspc ∧ h.pcause = g.pcause ∧ h.dbctl = g.dbctl

/-! ### What is charged -/

/-- The eu that a list of charges, each an island and its eu, puts in an island, and in all of them. -/
def euIn (l : List (Nat × Nat)) (island : Nat) : Nat := (l.filter fun x => x.1 = island).foldl (fun n x => n + x.2) 0
def euAll (l : List (Nat × Nat)) : Nat := l.foldl (fun n x => n + x.2) 0

/-- Context `d` is `c` with the charges `l` in its account: COUNT stops at 2⁴⁸ − 1 and then sets ECSAT (R349), and the tick's figures have them by island
(R353). -/
def Ctx.paid (c d : Ctx) (l : List (Nat × Nat)) : Prop :=
  d.ectr = min (c.ectr + euAll l) (2 ^ 48 - 1) ∧ d.ecsat = (c.ecsat || (decide (euAll l ≠ 0) && decide (2 ^ 48 - 1 ≤ c.ectr + euAll l))) ∧
    ∀ i, Tbl.atD d.dtick i 0 = Tbl.atD c.dtick i 0 + euIn l i

/-- Word `i` of gang `g` charges its context `c` what `l` says, and no other context anything. -/
def State.pays (s : State) (i : Instr) (g : Gang) (c : Ctx) (l : List (Nat × Nat)) : Prop :=
  ∃ t d, exec i s = .next t ∧ Tbl.at? t.ctxs (s.asidOf g) = some d ∧ c.paid d l ∧ ∀ a, a ≠ s.asidOf g → Tbl.at? t.ctxs a = Tbl.at? s.ctxs a

/-! ### How a scalar word completes -/

/-- Gang `g` is the one whose word is executing. -/
def State.issuing (s : State) (g : Gang) : Prop := Tbl.at? s.gangs s.cur = some g

/-- The scalar registers of `g` with `v` in register `d`: a write to s0 is discarded (R27). -/
def Gang.withReg (g : Gang) (d : SReg) (v : Word64) (r : SReg) : Word64 := if r = d ∧ d ≠ 0 then v else g.sreg r

/-- Gang `h` is `g` with SPC at `spc`, no wait, and the instruction counted for a single step (R421); its scalar registers read as `rd` says. -/
def Gang.moved (g h : Gang) (spc : Word64) (rd : SReg → Word64) : Prop :=
  h = { g with
    s := h.s, spc := spc, wait := .none, skipS := false, stepping := if g.stepping = 1 ∧ g.stepIn = g.pframe.isSome then 2 else g.stepping } ∧
    ∀ r, h.sreg r = rd r

/-- Word `i` of gang `g` completes: SPC is `spc`, the scalar registers read as `rd` says, and nothing else of the device changes but energy counts. -/
def State.completes (s : State) (i : Instr) (g : Gang) (spc : Word64) (rd : SReg → Word64) : Prop :=
  ∃ t h, exec i s = .next t ∧ Tbl.at? t.gangs s.cur = some h ∧ g.moved h spc rd ∧ s.onlyGang t s.cur

/-- A row-hold slot but for its DIRTY bits (R278). -/
def RowRef.undirtied (x : RowRef) : RowRef := { x with dirty := 0 }

/-- The row holds are as before: those of context `asid` wholly, and those of the others but for DIRTY bits, since an access passes a segment that
another context holds by to DRAM, written back when it is dirty (the model's choice, notes/assumptions/120.md). -/
def State.holdsKept (s t : State) (asid : Nat) : Prop :=
  t.rowTab.length = s.rowTab.length ∧ ∀ (k : Nat) e, s.rowTab[k]? = some e →
    ∃ f, t.rowTab[k]? = some f ∧ (e.asid = asid → f = e) ∧ f = { e with slots := f.slots } ∧
      f.slots.map RowRef.undirtied = e.slots.map RowRef.undirtied

/-- The device is as before but for gang `u`, energy counts, the free values drawn to choose a line that gives way, and which lines and translations are
held where. -/
def State.onlyCached (s t : State) (u : Nat) : Prop :=
  t = { s with
    gangs := t.gangs, ctxs := t.ctxs, energy := t.energy, tlb := t.tlb, walk := t.walk, l1 := t.l1, near := t.near, home := t.home,
    victim := t.victim, free := t.free, rowTab := t.rowTab } ∧
    (∀ v, v ≠ u → Tbl.at? t.gangs v = Tbl.at? s.gangs v) ∧ s.sameCtxs t ∧ s.holdsKept t (s.asidOf (s.gang u))

/-- Words of gang `g` ask for what lies in other devices' memory: an entry of `l` is an asker, a peer's address and a number of bytes. One request of each entry is
added to those on their way, in that order (R388); their packets leave for the devices that own the addresses when the context's partition has these as members
and a port is up, and say what `want` says; without an FPID, or to no member, nothing leaves and each is counted (R385 to R387). -/
def State.asked (s t : State) (g : Gang) (ptype : Nat) (l : List (Asker × Nat × Nat)) (want : Asker × Nat × Nat → Packet → Prop) : Prop :=
  let p := s.part (s.ctxOf g).part
  (∃ rs, t.requests = s.requests ++ rs ∧ rs.map (fun r => (r.who, r.addr, r.n)) = l ∧
    ∀ r ∈ rs, r.ptype = BitVec.ofNat 8 ptype ∧ r.team = g.team ∧ r.asid = s.asidOf g ∧ r.sent = s.now ∧ r.answer = none) ∧
  (p.fpid ≠ 0 → (∀ e ∈ l, peerOf e.2.1 ∈ p.fmembers) → s.ports ≠ [] →
    ∃ xs : List Packet, t.outbox = s.outbox ++ xs.map .packet ∧ xs.length = l.length ∧
      ∀ (k : Nat) e x, l[k]? = some e → xs[k]? = some x →
        x.ptype = BitVec.ofNat 8 ptype ∧ x.part = p.fpid ∧ x.dst.toNat = peerOf e.2.1 ∧ x.addr = (e.2.1 - 2 ^ 51) % 2 ^ 39 ∧ want e x) ∧
  (p.fpid = 0 ∨ (∀ e ∈ l, peerOf e.2.1 ∉ p.fmembers) → t.outbox = s.outbox ∧ t.violations = s.violations + l.length)

/-- The bytes of a request as a packet names them: a mask of the line at its address (R385). -/
def masked (e : Asker × Nat × Nat) (x : Packet) : Prop := x.mask = lineMask e.2.1 e.2.2

/-- Lines of device memory change the key slot they are written under to that of gang `u`'s context only (R404). -/
def State.keysOnly (s t : State) (u : Nat) : Prop :=
  ∀ p, Tbl.at? t.keyed p = Tbl.at? s.keyed p ∨ Tbl.at? t.keyed p = some (s.ctxOf (s.gang u)).key

/-- The device is as before but for gang `u`, energy counts, memory, and which lines and translations are held where. -/
def State.onlyMemory (s t : State) (u : Nat) : Prop :=
  t = { s with
    gangs := t.gangs, ctxs := t.ctxs, energy := t.energy, tlb := t.tlb, walk := t.walk, l1 := t.l1, near := t.near, home := t.home,
    victim := t.victim, free := t.free, rowTab := t.rowTab, mem := t.mem, memBad := t.memBad, keyed := t.keyed } ∧
    (∀ v, v ≠ u → Tbl.at? t.gangs v = Tbl.at? s.gangs v) ∧ s.sameCtxs t ∧ s.keysOnly t u

/-- A team but for the lines that templates have frozen. -/
def Team.thawed (x : Team) : Team := { x with frozen := [] }

/-- The device is as before but for gang `u`, energy counts, the cores' stores, and frozen lines. -/
def State.onlyStore (s t : State) (u : Nat) : Prop :=
  t = { s with gangs := t.gangs, ctxs := t.ctxs, energy := t.energy, store := t.store, storeBad := t.storeBad, teams := t.teams } ∧
    (∀ v, v ≠ u → Tbl.at? t.gangs v = Tbl.at? s.gangs v) ∧
    (∀ a, (Tbl.at? t.teams a).map Team.thawed = (Tbl.at? s.teams a).map Team.thawed) ∧ s.sameCtxs t

/-- The device is as before but for gang `u`, energy counts, and context `a`, which has become `f` of what it was. -/
def State.onlyCtx (s t : State) (u a : Nat) (f : Ctx → Ctx) : Prop :=
  t = { s with gangs := t.gangs, ctxs := t.ctxs, energy := t.energy } ∧
    (∀ v, v ≠ u → Tbl.at? t.gangs v = Tbl.at? s.gangs v) ∧
    ∀ b, (Tbl.at? t.ctxs b).map Ctx.uncharged = (Tbl.at? s.ctxs b).map fun c => (if b = a then f c else c).uncharged

/-- The device is as before but for gang `u`, energy counts, and team `a`, which has become `f` of what it was. -/
def State.onlyTeam (s t : State) (u a : Nat) (f : Team → Team) : Prop :=
  t = { s with gangs := t.gangs, ctxs := t.ctxs, energy := t.energy, teams := t.teams } ∧
    (∀ v, v ≠ u → Tbl.at? t.gangs v = Tbl.at? s.gangs v) ∧ s.sameCtxs t ∧
    ∀ b, Tbl.at? t.teams b = (Tbl.at? s.teams b).map fun x => if b = a then f x else x

/-- A byte of memory as context `asid` finds it in a line that it writes: a line of another key slot does not decrypt (R404). -/
def State.plainByte (s : State) (asid x : Nat) : Byte :=
  if isDev x && s.foreign asid (x / 128) then ((s.foreignLine (s.ctx asid).key (x / 128))[x % 128]?).getD 0 else s.mem.get x

/-- The memory of `t` is that of `s` with `bs` stored for context `asid` from address `a`: those bytes read as stored, the rest of their first and last line as
the context found it (R404), and every other byte as before. -/
def State.storedFor (s t : State) (asid a : Nat) (bs : List Byte) : Prop :=
  ∀ x, t.mem.get x =
    if a ≤ x ∧ x < a + bs.length then (bs[x - a]?).getD 0
    else if isDev a ∧ bs ≠ [] ∧ (x / 128 = a / 128 ∨ x / 128 = (a + bs.length - 1) / 128) then s.plainByte asid x else s.mem.get x

/-- Memory `n` is `m` with `bs` from address `a`: those bytes read as stored, and every other as before. -/
def Mem.storedAt (m n : Mem) (a : Nat) (bs : List Byte) : Prop :=
  ∀ x, n.get x = if a ≤ x ∧ x < a + bs.length then (bs[x - a]?).getD 0 else m.get x

/-- Word `i` of gang `g` completes: SPC is `spc`, the scalar registers read as `rd` says, the gang is otherwise unchanged, and `F` holds of the state
reached. -/
def State.does (s : State) (i : Instr) (g : Gang) (spc : Word64) (rd : SReg → Word64) (F : State → Prop) : Prop :=
  ∃ t h, exec i s = .next t ∧ Tbl.at? t.gangs s.cur = some h ∧ g.moved h spc rd ∧ F t

/-- Word `i` of gang `g` waits at its own boundary: its state is the one it had, but that it waits. -/
def State.waits (s : State) (i : Instr) (g : Gang) (F : State → Prop) : Prop :=
  ∃ t w, exec i s = .next t ∧ Tbl.at? t.gangs s.cur = some { g with wait := w } ∧ F t

/-- Word `i` of gang `g` completes at the next word with the scalar registers as `rd` says, keeps what `Gang.kept` names, and leaves what `P` says of
the state reached and of the gang. -/
def State.passes (s : State) (i : Instr) (g : Gang) (rd : SReg → Word64) (P : State → Gang → Prop) : Prop :=
  ∃ t h, exec i s = .next t ∧ Tbl.at? t.gangs s.cur = some h ∧ h.spc = g.spc + 4 ∧ (∀ r, h.sreg r = rd r) ∧ g.kept h ∧ P t h

/-- Team `m` is killed in `t` (R38): neither it nor any of its gangs is left, or, where a chunk or a step of its work was in hand in `s`, it ends with that and
none of its gangs runs any more (R337). -/
def State.killed (s t : State) (m : Nat) : Prop :=
  if s.workBusy m then (t.team m).dying = true ∧ ∀ u h, Tbl.at? t.gangs u = some h → h.team = m → t.gangRuns h = false
  else Tbl.at? t.teams m = none ∧ ∀ u h, Tbl.at? t.gangs u = some h → h.team ≠ m

/-- Word `i` of gang `g` traps at S: the team of `g` is killed (R224). -/
def State.kills (s : State) (i : Instr) (g : Gang) : Prop :=
  (Tbl.at? s.teams g.team).isSome → ∃ t, exec i s = .next t ∧ s.killed t g.team

/-! ### Which records are legal -/

/-- The little-endian number in `n` bytes of a record from byte `k`. -/
def field (bs : List Byte) (k n : Nat) : Nat := natOf ((bs.drop k).take n)

/-- A launch record at a virtual address is not malformed (R92, R93). -/
def recordLegal (va : Nat) (bs : List Byte) : Prop :=
  let x := field bs
  va % 64 = 0 ∧ x 18 2 = 0 ∧ x 38 2 = 0 ∧ x 44 4 = 0 ∧ x 52 4 = 0 ∧ x 56 1 < 2 ∧ x 57 7 = 0 ∧ x 140 52 = 0 ∧
  x 0 8 % 4 = 0 ∧ x 0 8 < 2 ^ 57 ∧ x 8 8 % 16 = 0 ∧ x 8 8 < 2 ^ 57 ∧
  1 ≤ x 16 1 ∧ x 16 1 ≤ 16 ∧ 1 ≤ x 17 1 ∧ x 17 1 ≤ 8 ∧
  1 ≤ x 20 4 ∧ 1 ≤ x 24 4 ∧ 1 ≤ x 28 4 ∧ x 20 4 * x 24 4 * x 28 4 < 2 ^ 32 ∧
  1 ≤ x 32 2 ∧ x 32 2 ≤ 256 ∧ x 34 1 ≤ 64 ∧ x 35 1 ≤ 8 ∧ x 36 1 ≤ 64 ∧ x 37 1 ≤ 3 ∧ x 40 4 % 128 = 0 ∧
  x 48 1 ≤ 16 ∧ x 49 1 ≤ 8 ∧ x 50 1 ≤ 4 ∧ x 51 1 ≤ 4 ∧ (x 51 1 ≠ 0 → x 56 1 = 1) ∧
  x 128 8 % 128 = 0 ∧ x 128 8 < 2 ^ 57 ∧ x 136 4 % 128 = 0 ∧ (x 128 8 = 0 → x 136 4 = 0)

/-- The status of a launch record at a virtual address, for a partition (R93): malformed, too large for a core, coresident in more clusters than the
partition takes when it is empty, or accepted. -/
def State.recordGives (s : State) (p va : Nat) (bs : List Byte) (st : Nat) : Prop :=
  let x := field bs
  let need := x 16 1 * x 32 2 * 128 + x 40 4 + 65536
  let crowd := x 56 1 = 1 ∧ s.capacity p (x 17 1) (LaunchRec.of bs).shape < x 20 4 * x 24 4 * x 28 4
  (st = 2 ∧ ¬ recordLegal va bs) ∨
    recordLegal va bs ∧ ((st = 3 ∧ 2 ^ 20 < need) ∨ need ≤ 2 ^ 20 ∧ ((st = 4 ∧ crowd) ∨ (st = 0 ∧ ¬ crowd)))

/-- The tiles that a task record writes, and those it reads (R191). -/
def taskWrites (bs : List Byte) (n : Nat) : Prop :=
  let opc := field bs 0 1
  let dst := field bs 2 1 % 64
  if opc = 2 then dst ≤ n ∧ n < dst + field bs 4 2 / 8
  else if opc = 3 then n = dst
  else dst ≤ n ∧ n ≤ dst + field bs 30 1 % 2
def taskReads (bs : List Byte) (n : Nat) : Prop :=
  let opc := field bs 0 1
  let aloc := field bs 8 8
  let kext := field bs 4 2
  ((opc = 1 ∨ opc = 2) ∧ field bs 3 1 / 16 % 4 = 2 ∧ aloc ≤ n ∧ n < aloc + (kext + 31) / 32) ∨
    (opc = 3 ∧ aloc ≤ n ∧ n < aloc + kext / 8) ∨ ((opc = 5 ∨ opc = 6) ∧ aloc ≤ n ∧ n ≤ aloc + field bs 30 1 % 2)

/-- A task record keeps the rules of R89, R90, R189 and R191 for a team with `tiles`, `tags` and `scratch`. That a rounding code of 7 is refused is the model's
choice (notes/assumptions/26.md). -/
def taskLegal (bs : List Byte) (tiles tags scratch : Nat) : Prop :=
  let x := field bs
  let opc := x 0 1
  let fa := x 1 1 % 16
  let fb := x 1 1 / 16
  let bkind := x 3 1 / 64
  let akind := x 3 1 / 16 % 4
  let kext := x 4 2
  let nw := x 30 1
  let matrix := opc = 1 ∨ opc = 2
  let noDown := x 3 1 / 8 % 2 = 0 ∧ x 6 1 = 0
  let noRound := x 3 1 % 8 = 0
  let noB := bkind = 0 ∧ x 16 8 = 0
  let noStrides := x 32 4 = 0 ∧ x 36 4 = 0
  let noScales := x 40 4 = 0 ∧ x 44 4 = 0
  let tagFits := fun (k : Nat) => x k 2 / 64 % 512 = 0 ∧ (2 ^ 15 ≤ x k 2 → x k 2 % 64 < tags)
  let place := fun (f k : Nat) => if f = 1 ∨ f = 5 ∨ f = 7 then k / 2 else k
  1 ≤ opc ∧ opc ≤ 6 ∧ x 2 1 < 64 ∧ x 7 1 = 0 ∧ nw < 2 ∧ x 31 1 = 0 ∧ (∀ b ∈ bs.drop 48, b = 0) ∧ x 3 1 % 8 ≠ 7 ∧
  tagFits 24 ∧ tagFits 26 ∧ tagFits 28 ∧
  (opc = 1 → kext % 8 = 0 ∧ 8 ≤ kext ∧ kext ≤ 65528) ∧
  (opc = 2 ∨ opc = 3 → kext % 8 = 0 ∧ 8 ≤ kext ∧ kext ≤ 128) ∧
  (matrix → fa < 8 ∧ fb < 8 ∧ akind ≤ 2 ∧ bkind ≤ 1 ∧ (x 6 1 < 64 ∨ 192 ≤ x 6 1) ∧ (akind = 2 → fa = 0 ∨ fa = 2) ∧
    noScales ∧ (akind ≠ 0 → x 32 4 = 0) ∧ (bkind ≠ 0 → x 36 4 = 0) ∧ (akind ≠ 2 → noDown ∧ noRound) ∧ (opc = 2 → nw = 0)) ∧
  (opc = 3 → akind = 2 ∧ fa = 0 ∧ fb = 0 ∧ nw = 0 ∧ noB ∧ noStrides ∧ noDown) ∧
  (opc = 4 → fa = 0 ∧ fb = 0 ∧ akind = 0 ∧ x 8 8 = 0 ∧ noB ∧ kext = 0 ∧ noStrides ∧ noDown ∧ noRound ∧ noScales) ∧
  (opc = 5 → akind = 2 ∧ fa < 2 ∧ fb = 0 ∧ noB ∧ kext = 0 ∧ noStrides ∧ noDown ∧ noScales) ∧
  (opc = 6 → akind = 2 ∧ fa = 0 ∧ fb = 0 ∧ noB ∧ kext = 0 ∧ noStrides ∧ noDown ∧ noRound ∧ noScales) ∧
  (akind = 2 → x 8 8 < 64) ∧ (∀ n, taskWrites bs n → n < tiles) ∧ (∀ n, taskReads bs n → n < tiles) ∧
  (matrix ∨ opc = 3 → ∀ n, taskWrites bs n → ¬ taskReads bs n) ∧
  (matrix → akind = 0 → x 8 8 + 31 * x 32 4 + place fa (kext - 1) + 1 ≤ scratch) ∧
  (matrix → bkind = 0 → x 16 8 + (kext - 1) * x 36 4 + place fb (32 * (nw + 1) - 1) + 1 ≤ scratch) ∧
  (opc = 3 → x 40 4 + 16 * 31 + kext / 8 ≤ scratch ∧ x 44 4 + 16 * 31 + kext / 8 ≤ scratch)

/-! ### What a rounded result is -/

/-- How `x` stands to `y`. -/
def cmpRat (x y : Rat) : Ordering := if x < y then .lt else if x = y then .eq else .gt

/-- The magnitude of the code `k` of a format, its sign left out (R44, R54). -/
def Fmt.mag (f : Fmt) (k : Nat) : Rat :=
  if k < 2 ^ f.fb then (k : Rat) * (2 : Rat) ^ ((1 : Int) - f.bias - f.fb)
  else ((2 ^ f.fb + k % 2 ^ f.fb : Nat) : Rat) * (2 : Rat) ^ ((k / 2 ^ f.fb : Nat) - (f.bias : Int) - f.fb)

/-- The code after that of the greatest finite magnitude (R44, R54). -/
def Fmt.top (f : Fmt) : Nat :=
  match f.sp with
  | .ieee | .e5m2 => (2 ^ f.eb - 1) * 2 ^ f.fb
  | .e4m3 => 2 ^ (f.eb + f.fb) - 1
  | .none => 2 ^ (f.eb + f.fb)

/-- Whether a magnitude between two neighbours is rounded to the greater one under `rm` (R48, R49): `odd` says that the smaller one is odd, and `mid` how the
magnitude stands to the middle of the two. -/
def goesUp (rm : Rm) (neg odd : Bool) (mid : Ordering) : Bool :=
  match rm with
  | .dyn | .rne => mid = .gt || (mid = .eq && odd)
  | .rtz => false
  | .rdn => neg
  | .rup => !neg
  | .rna => mid ≠ .lt
  | .rso => !odd

/-- A magnitude, which stands to `q` as `x q` says, rounds to the code `k` of a format (R47, R48): `Fmt.top` where the rounded magnitude is beyond every finite
one; `nx` where it is inexact, and `tiny` where its rounding with an unbounded exponent is below the least normal. -/
def Fmt.roundsTo (f : Fmt) (rm : Rm) (neg : Bool) (x : Rat → Ordering) (k : Nat) (nx tiny : Bool) : Prop :=
  (nx = false ∧ k < f.top ∧ x (f.mag k) = .eq) ∨
  (nx = true ∧ k = f.top ∧ x (f.mag f.top) ≠ .lt) ∨
  (nx = true ∧ ∃ a < f.top, x (f.mag a) = .gt ∧ x (f.mag (a + 1)) = .lt ∧
    k = (if goesUp rm neg (a % 2 = 1) (x ((f.mag a + f.mag (a + 1)) / 2)) then a + 1 else a) ∧
    tiny = (decide (a + 1 < 2 ^ f.fb) || decide (a + 1 = 2 ^ f.fb) &&
      !(x ((f.mag a + f.mag (a + 1)) / 2) = .gt && goesUp rm neg true (x ((f.mag a + 3 * f.mag (a + 1)) / 4)))))

/-- The flags of a rounded result (R47). -/
def roundFlags (nx tiny : Bool) : Flags := (if nx then fNX else 0) ||| (if nx && tiny then fUF else 0)

/-- `r` is a magnitude rounded once to f64, f32, f16 or bf16, with its flags: overflow as the table of R48, and a subnormal under flush as R46. That a tiny result
which is not subnormal raises the flags of R47 under flush too is the model's choice (notes/assumptions/99.md). -/
def Fmt.isRound (f : Fmt) (rm : Rm) (flush neg : Bool) (x : Rat → Ordering) (r : FRes) : Prop :=
  ∃ k nx tiny, f.roundsTo rm neg x k nx tiny ∧
    r = if k = f.top then
        ⟨if rm = .rtz ∨ rm = .rso ∨ (rm = .rdn ∧ neg = false) ∨ (rm = .rup ∧ neg = true) then f.maxCode neg else f.infCode neg, fOV ||| fNX⟩
      else if flush = true ∧ 0 < k ∧ k < 2 ^ f.fb then ⟨signBit f neg, fUF ||| fNX⟩
      else ⟨signBit f neg + k, roundFlags nx tiny⟩

/-- `r` is a magnitude rounded to a narrow format, with its flags (R55). -/
def Fmt.isNarrow (f : Fmt) (rm : Rm) (satm neg : Bool) (x : Rat → Ordering) (r : FRes) : Prop :=
  ∃ k nx tiny, f.roundsTo rm neg x k nx tiny ∧
    r = if k = f.top then
        ⟨if satm then f.maxCode neg
          else match f.sp with
            | .e4m3 => signBit f neg + 0x7F
            | .ieee | .e5m2 => f.infCode neg
            | .none => f.maxCode neg, fOV ||| fNX⟩
      else ⟨signBit f neg + k, roundFlags nx tiny⟩

/-- A magnitude rounds to the integer `k` (R49). -/
def intRounds (rm : Rm) (neg : Bool) (x : Rat) (k : Nat) (nx : Bool) : Prop :=
  (nx = false ∧ x = (k : Rat)) ∨
  (nx = true ∧ ∃ a : Nat, (a : Rat) < x ∧ x < (a + 1 : Nat) ∧
    k = if goesUp rm neg (a % 2 = 1) (cmpRat x ((a : Rat) + 1 / 2)) then a + 1 else a)

/-- The magnitude of a finite value, and its value. -/
def FVal.mag : FVal → Rat
  | .fin _ m e => (m : Rat) * (2 : Rat) ^ e
  | _ => 0
def FVal.rat (v : FVal) : Rat := if v.neg then -v.mag else v.mag

def FVal.isFin : FVal → Bool
  | .fin _ _ _ => true
  | _ => false

/-- `r` is the exact value `v` rounded once; where it is zero, of the sign `zero` says. -/
def Fmt.isValue (f : Fmt) (rm : Rm) (flush zero : Bool) (v : Rat) (r : FRes) : Prop :=
  if v = 0 then r = ⟨signBit f zero, 0⟩ else f.isRound rm flush (decide (v < 0)) (cmpRat (if v < 0 then -v else v)) r

/-! ### How a lane word completes -/

/-- A lane that is given the result `v`, of 64 bits when `wide` is set, for the destination `d`: its operand registers and its latch (R25, R81, R120). -/
def Lane.given (y : Lane) (d : Dst) (wide : Bool) (v : Nat) : Lane :=
  let put := fun (n : Nat) =>
    let z := y.setO n (v % 2 ^ 32)
    if wide then z.setO (n + 1) (v / 2 ^ 32) else z
  let z := match d with
    | .o j | .vo _ j => put j.toNat
    | _ => y
  { z with latch := BitVec.ofNat 64 v, latchBad := false }

/-- The main registers that a destination names, with the values that the result `v` puts there (R24, R81). -/
def dstRegs (d : Dst) (wide : Bool) (v : Nat) : List (Nat × Nat) :=
  match d with
  | .v i | .vo i _ => (i.toNat, v % 2 ^ 32) :: (if wide then [(i.toNat + 1, v / 2 ^ 32 % 2 ^ 32)] else [])
  | _ => []

/-- Gang `h` is `g` with the cells `cells` at the word after their own: nothing is pending in them, and only lanes, flags and shared pages may differ. -/
def Gang.wentOn (g h : Gang) (cells : List Nat) : Prop :=
  h = { g with lanes := h.lanes, cells := h.cells, mode := h.mode, shared := h.shared, skipL := false } ∧
    ∀ c, Tbl.at? h.cells c = (Tbl.at? g.cells c).map fun x =>
      if c ∈ cells then { x with lpc := (g.lpcOf cells + 1) % 2 ^ 48, pending := none, unpaid := false, wait := .none } else x

/-- The device is as before but for gang `u`, energy counts, and the registers `regs` of lanes `act` of the gang `g`, whose window shares no page. -/
def State.onlyRegisters (s t : State) (u : Nat) (g : Gang) (act : List Nat) (regs : Nat → List (Nat × Nat)) : Prop :=
  t = { s with gangs := t.gangs, ctxs := t.ctxs, energy := t.energy, store := t.store, storeBad := t.storeBad } ∧
    (∀ v, v ≠ u → Tbl.at? t.gangs v = Tbl.at? s.gangs v) ∧ s.sameCtxs t ∧
    (g.shared = [] → ∀ a, (∀ l ∈ act, ∀ k ∈ regs l, a < s.regAddr g k.1 l ∨ s.regAddr g k.1 l + 4 ≤ a) →
      t.store.get a = s.store.get a ∧ (a ∈ t.storeBad ↔ a ∈ s.storeBad))

/-- Lane word `i` with the fields `w` completes for the issue group: every active lane becomes what `f` makes of it and its registers hold what
`regs` says, flags are raised, every other lane keeps what it has, and the cells go on. -/
def State.lanesDo (s : State) (i : Instr) (g : Gang) (w : LaneOp) (f : Nat → Lane → Lane) (regs : Nat → List (Nat × Nat))
    (flags : Nat → Flags) : Prop :=
  let act := g.active s.cells w
  ∃ t h, exec i s = .next t ∧ Tbl.at? t.gangs s.cur = some h ∧
    (∀ l, Tbl.at? h.lanes l = (Tbl.at? g.lanes l).map fun y => if l ∈ act then f l y else y) ∧
    (∀ l ∈ act, ∀ k ∈ regs l, t.readReg h k.1 l = (k.2, false)) ∧
    h.mode = { g.mode with flags := act.foldl (fun x l => x ||| flags l) g.mode.flags } ∧
    g.wentOn h s.cells ∧ s.onlyRegisters t s.cur g act regs

/-- Lane word `i` gives every active lane the result and the flags of `val`, of 64 bits when `wide` is set. -/
def State.lanesGive (s : State) (i : Instr) (g : Gang) (w : LaneOp) (wide : Bool) (val : Nat → FRes) : Prop :=
  s.lanesDo i g w (fun l y => y.given w.dst wide (val l).bits) (fun l => dstRegs w.dst wide (val l).bits) fun l => (val l).flags

/-- Lane word `i` gives every active lane a predicate, its latch with it (R120). -/
def State.lanesTest (s : State) (i : Instr) (g : Gang) (w : LaneOp) (val : Nat → Bool) (flags : Nat → Flags) : Prop :=
  let n := match w.dst with
    | .v k => k.toNat % 8
    | _ => 0
  s.lanesDo i g w (fun l y => { y.setPred n (val l) with latch := if val l then 1 else 0, latchBad := false }) (fun _ => []) flags

/-- The word breaks no rule of its encoding for the gang (R86, R87). -/
def State.legal (s : State) (g : Gang) (opc : Nat) (w : LaneOp) : Prop := laneOk opc w = true ∧ laneFits opc w (s.regsOf g) = true

/-- A cell that goes on at a word: nothing is pending in it. -/
def Cell.at_ (x : Cell) (lpc : Nat) : Cell := { x with lpc := lpc % 2 ^ 48, pending := none, unpaid := false, wait := .none }

/-- Lane word `i` changes the cells of gang `g` as `f` says, leaves what `P` says, and otherwise changes nothing but energy counts and the trace. -/
def State.cellsDo (s : State) (i : Instr) (g : Gang) (f : Nat → Cell → Cell) (P : State → Gang → Prop) : Prop :=
  ∃ t h, exec i s = .next t ∧ Tbl.at? t.gangs s.cur = some h ∧ h = { g with cells := h.cells, skipL := false, tr := h.tr } ∧
    (∀ c, Tbl.at? h.cells c = (Tbl.at? g.cells c).map (f c)) ∧ s.onlyTraced t s.cur ∧ P t h

/-! ### How a lane memory word completes -/

/-- Where in the cores' stores an element outside G and K lies; none where the context holds no register or scratchpad there (R153, R158, R268, R429). -/
def State.storeAddr (s : State) (g : Gang) (sg : Nat) (x : Target) : Option Nat :=
  match x with
  | .window w => some (coreBase (s.coreOf g) + g.wbase * 128 + w)
  | .off o =>
    if sg = 1 then some (s.scratchAddr g.team o)
    else if sg = 2 then (s.dTeam g o).map fun e => s.scratchAddr e.1 e.2
    else if sg = 5 then
      match s.mPlace (s.asidOf g) o with
      | some (core, w) =>
        if w < 0x100000 then if s.rowOwned (s.asidOf g) core (w / 128) then some (coreBase core + w) else none
        else if 0x200000 ≤ w ∧ w < 0x280000 then
          match s.gangInSlot (s.asidOf g) core ((w - 0x200000) / 0x8000) with
          | some u =>
            if w % 0x8000 / 128 < s.regsOf (s.gang u) then some (coreBase core + (s.gang u).wbase * 128 + w % 0x8000) else none
          | none => none
        else none
      | none => none
    else none
  | _ => none

/-- The bytes that a load of lane `l` finds at an element, and whether one is poisoned: those its core sees in G and K, with its cell's own buffered stores
over them (R152, R155), and else those of the place it names. -/
def State.found (s : State) (g : Gang) (l sg n : Nat) (x : Target) : List Byte × Bool :=
  match x with
  | .pa a => wcLoad (Tbl.atD g.wcl (l / 4) []) a (s.codeAt (s.coreOf g) (s.asidOf g) a n).1 (s.codeAt (s.coreOf g) (s.asidOf g) a n).2
  | x => (s.localRead g sg n x).2

/-- Every active lane of a memory word passes the checks of R150 in segment `sg`; `at_` is where its element lies. -/
def State.reaches (s : State) (g : Gang) (w : LaneOp) (sg : Nat) (store : Bool) (acc : Acc) (at_ : Nat → Target) : Prop :=
  let act := g.active s.cells w
  let place := fun l => g.place (s.regsOf g) sg (s.laneOff g w (decide (sg = 0)) l) (accBytes w.ty) store
  (∀ l ∈ act, (s.srcAddr g l (decide (sg = 0)) w.sa).2 = false) ∧ (∀ l ∈ act, ∀ c a, place l ≠ .bad c a) ∧
    (s.laneTargets g acc (act.map fun l => (l, place l))).2 = act.map (fun l => (l, at_ l)) ∧
    ∀ l ∈ act, (∀ k, at_ l ≠ .fault k) ∧ ∀ a, at_ l = .pa a → a % 128 + accBytes w.ty ≤ 128

/-- No element of the lanes lies in another device's memory. -/
def nearby (act : List Nat) (at_ : Nat → Target) : Prop := ∀ l ∈ act, ∀ a, at_ l = .pa a → isPeer a = false

/-- Every element of the lanes lies in another device's memory. -/
def far (act : List Nat) (at_ : Nat → Target) : Prop := ∀ l ∈ act, ∃ a, at_ l = .pa a ∧ isPeer a = true

/-- The requests of a pass for the elements of `n` bytes at the addresses `a` of lanes `act`, each a lane, an address and a length: one for each line, for the
lowest lane that names it, from the first byte that the lanes name to the last (R162, R385). -/
def lineRequests (act : List Nat) (a : Nat → Nat) (n : Nat) (es : List (Nat × Nat × Nat)) : Prop :=
  (es.map fun e => e.2.1 / 128).Nodup ∧ (∀ l ∈ act, ∃ e ∈ es, e.2.1 / 128 = a l / 128) ∧
    ∀ e ∈ es, (∃ l ∈ act, a l = e.2.1) ∧ (∃ l ∈ act, a l / 128 = e.2.1 / 128 ∧ a l + n = e.2.1 + e.2.2) ∧ e.1 ∈ act ∧ a e.1 / 128 = e.2.1 / 128 ∧
      ∀ l ∈ act, a l / 128 = e.2.1 / 128 → e.1 ≤ l ∧ e.2.1 ≤ a l ∧ a l + n ≤ e.2.1 + e.2.2

/-- Lane word `i` waits at its word for other devices; its gang is as it was but for its cells' waits, and `F` holds of the state reached. -/
def State.lanesAsk (s : State) (i : Instr) (g : Gang) (F : State → Prop) : Prop :=
  ∃ t h, exec i s = .next t ∧ Tbl.at? t.gangs s.cur = some h ∧ h = { g with cells := h.cells, wcl := h.wcl } ∧
    (∀ c, Tbl.atD h.wcl c [] = Tbl.atD g.wcl c []) ∧
    (∀ c, Tbl.at? h.cells c = (Tbl.at? g.cells c).map fun x => if c ∈ s.cells then { x with wait := .other } else x) ∧ F t

/-- No gang shares a register page with its template (R219). -/
def State.unshared (s : State) : Prop := ∀ v x, Tbl.at? s.gangs v = some x → x.shared = []

/-- The element of lane `l` has no byte in a destination register of lane `k`. -/
def State.apart (s : State) (g : Gang) (w : LaneOp) (sg : Nat) (at_ : Nat → Target) (l k : Nat) : Prop :=
  ∀ a, s.storeAddr g sg (at_ l) = some a → ∀ r ∈ dstRegs w.dst (w.ty.width = 64) 0,
    a + accBytes w.ty ≤ s.regAddr g r.1 k ∨ s.regAddr g r.1 k + 4 ≤ a

/-- The device is as before but for gang `u`, energy counts, memory, the cores' stores, frozen lines, and which lines and translations are held where. -/
def State.onlyAccessed (s t : State) (u : Nat) : Prop :=
  t = { s with
    gangs := t.gangs, ctxs := t.ctxs, energy := t.energy, teams := t.teams, tlb := t.tlb, walk := t.walk, l1 := t.l1, near := t.near,
    home := t.home, victim := t.victim, free := t.free, rowTab := t.rowTab, mem := t.mem, memBad := t.memBad, store := t.store,
    storeBad := t.storeBad, keyed := t.keyed } ∧
    (∀ v, v ≠ u → Tbl.at? t.gangs v = Tbl.at? s.gangs v) ∧
    (∀ a, (Tbl.at? t.teams a).map Team.thawed = (Tbl.at? s.teams a).map Team.thawed) ∧ s.sameCtxs t ∧ s.keysOnly t u

/-- The cores' stores are as before but for the registers `regs` of lanes `act` of the gang `g`, whose window shares no page. -/
def State.sameStore (s t : State) (g : Gang) (act : List Nat) (regs : Nat → List (Nat × Nat)) : Prop :=
  g.shared = [] → ∀ a, (∀ l ∈ act, ∀ k ∈ regs l, a < s.regAddr g k.1 l ∨ s.regAddr g k.1 l + 4 ≤ a) →
    t.store.get a = s.store.get a ∧ (a ∈ t.storeBad ↔ a ∈ s.storeBad)

/-- The cells of gang `g` go on at the word after theirs; nothing else of the gang changes but its cells' buffers. -/
def Gang.stored (g h : Gang) (cells : List Nat) : Prop :=
  h = { g with cells := h.cells, wcl := h.wcl, skipL := false } ∧
    ∀ c, Tbl.at? h.cells c = (Tbl.at? g.cells c).map fun x => if c ∈ cells then x.at_ (g.lpcOf cells + 1) else x

/-- Lane word `i` gives every active lane the loaded value `val`, extended as R42 says, and otherwise changes only where lines and translations are
held. -/
def State.lanesLoad (s : State) (i : Instr) (g : Gang) (w : LaneOp) (val : Nat → Nat) : Prop :=
  let act := g.active s.cells w
  let wide : Bool := w.ty.width = 64
  let regs := fun (l : Nat) => dstRegs w.dst wide (extendTo w.ty (val l))
  ∃ t h, exec i s = .next t ∧ Tbl.at? t.gangs s.cur = some h ∧
    (∀ l, Tbl.at? h.lanes l = (Tbl.at? g.lanes l).map fun y => if l ∈ act then y.given w.dst wide (extendTo w.ty (val l)) else y) ∧
    (∀ l ∈ act, ∀ k ∈ regs l, t.readReg h k.1 l = (k.2, false)) ∧ h.mode = g.mode ∧ g.wentOn h s.cells ∧
    s.onlyAccessed t s.cur ∧ t.mem = s.mem ∧ t.memBad = s.memBad ∧ t.keyed = s.keyed ∧ t.teams = s.teams ∧ s.holdsKept t (s.asidOf g) ∧
    s.sameStore t g act regs

/-- Memory `n` is `m` with the bytes `bs l` of every lane `l` of `ls` from the address `at_ l`: where lanes overlap the last one's bytes are left (R152), and a
lane without an address stores nothing. -/
def Mem.storedBy (m n : Mem) (ls : List Nat) (at_ : Nat → Option Nat) (bs : Nat → List Byte) : Prop :=
  ∀ x, n.get x =
    match ls.reverse.find? fun l => (at_ l).any fun a => a ≤ x && x < a + (bs l).length with
    | some l => ((bs l)[x - (at_ l).getD 0]?).getD 0
    | none => m.get x

/-- The memory of `t` is that of `s` with the bytes `bs l` of every lane `l` of `ls` stored for context `asid` from the address `at_ l`: the last lane's bytes
are left where lanes overlap (R152), and every byte of a line stored to that no lane stores is as the context found it (R404). -/
def State.storedForBy (s t : State) (asid : Nat) (ls : List Nat) (at_ : Nat → Option Nat) (bs : Nat → List Byte) : Prop :=
  ∀ x, t.mem.get x =
    match ls.reverse.find? fun l => (at_ l).any fun a => a ≤ x && x < a + (bs l).length with
    | some l => ((bs l)[x - (at_ l).getD 0]?).getD 0
    | none => if ls.any fun l => (at_ l).any fun a => decide (a / 128 = x / 128) then s.plainByte asid x else s.mem.get x

/-- No line gives way while `n` accesses of `core` for context `asid` fill the caches: its L1 and the sets of its region's slice, and of the home slices,
have room for them (R269, R272). -/
def State.roomFor (s : State) (core n : Nat) : Prop :=
  (s.l1Lines core = 0 ∨ (Tbl.atD s.l1 core []).length + n ≤ s.l1Lines core) ∧ (Tbl.atD s.near (regionOfCore core) []).length + n < 4 ∧
    ∀ r, s.home.length + (Tbl.atD s.near r []).length + 2 * n < 16

/-- What the elements of `n` bytes at the addresses `as` give `core` does not depend on which lines give way in the pass: all lie in one line, or no copy
of them that the core would read is older than memory, or no line gives way (R247, R269, R272). -/
def State.steady (s : State) (core asid n : Nat) (as : List Nat) : Prop :=
  (∃ k, ∀ a ∈ as, a / 128 = k) ∨ (∀ a ∈ as, s.codeAt core asid a n = s.memBytes asid a n) ∨ s.roomFor core as.length

/-- The marks of poison are as before outside the elements of `n` bytes at the addresses `at_`. -/
def poisonKept (old new : List Nat) (ls : List Nat) (at_ : Nat → Option Nat) (n : Nat) : Prop :=
  ∀ x, (∀ l ∈ ls, ∀ a, at_ l = some a → x < a ∨ a + n ≤ x) → (x ∈ new ↔ x ∈ old)

/-- The device or host address of a target. -/
def Target.addr (x : Target) : Option Nat :=
  match x with
  | .pa a => some a
  | _ => none

/-! ### How a word traps -/

/-- Gang `h` is `g` in its S handler (R224): PRIV is S, SPC is TVEC, the registers that describe the trap hold `x`, the lane side is saved in the frame and
emptied, and every lane that was there reads its latch, operand file and predicates as 0 (p0 reads 1). -/
def Gang.inHandler (g h : Gang) (tvec : Word64) (x : TrapRegs) : Prop :=
  h.priv = true ∧ h.spc = tvec ∧ h.trap = x ∧
    h.frame = some { lanes := g.lanes, cells := g.cells, queue := g.queue, block := g.block, bar := g.bar, rng := g.rng, spc := x.tspc, exiting := g.exiting } ∧
    h.exiting = false ∧ h.rng = none ∧
    h.queue = [] ∧ h.block = none ∧ h.s = g.s ∧ h.mode = g.mode ∧ h.segs = g.segs ∧ h.wbase = g.wbase ∧ h.sscr = g.sscr ∧ h.tfstat = g.tfstat ∧
    h.pspc = g.pspc ∧ h.pcause = g.pcause ∧
    ∀ l, Tbl.at? h.lanes l = (Tbl.at? g.lanes l).map fun y =>
      { o := [], latch := 0, p := 1, exited := y.exited, latchBad := false, oBad := 0 }

/-- A word of gang `g` that traps with the registers `x` enters the S handler from U when the context has one, and nothing else of the device changes but
energy counts, the trace, and the reads that the gang's waiting words have on the way, which the handler breaks off (notes/assumptions/113.md). -/
def State.entersHandler (s t : State) (g : Gang) (x : TrapRegs) : Prop :=
  ∃ h, Tbl.at? t.gangs s.cur = some h ∧ g.inHandler h (s.ctxOf g).tvec x ∧ (s.breakOff s.cur).onlyTraced t s.cur

/-- The word `i` of the scalar stream of gang `g`, at U with a handler set, raises `cause` precisely (R33): it has no effect, and the handler is entered
with TSPC at the word and TADDR at `addr`. -/
def State.raises (s : State) (i : Instr) (g : Gang) (cause addr : Nat) : Prop :=
  g.priv = false → (s.ctxOf g).tvec ≠ 0 →
    ∃ t x, exec i s = .next t ∧ s.entersHandler t g x ∧
      x.cause = BitVec.ofNat 64 cause ∧ x.tspc = g.spc ∧ x.tlpc = 0 ∧ x.tmask = 0 ∧ x.taddr = BitVec.ofNat 64 addr ∧ x.clanes = 0

/-- The device is as before but for gang `u`, energy counts, the trace, and the handler entered for lanes of the issue group (R33, R225): `pend` are the
pending lanes and `who` those that raised `cause`. -/
def State.lanesRaise (s : State) (i : Instr) (g : Gang) (cause : Nat) (pend who : List Nat) (addr : Nat) : Prop :=
  g.priv = false → (s.ctxOf g).tvec ≠ 0 → (∀ c ∈ s.cells, c < 8) →
    ∃ t h x, exec i s = .next t ∧ Tbl.at? t.gangs s.cur = some h ∧ g.inHandler h (s.ctxOf g).tvec x ∧
      (s.breakOff s.cur).onlyTraced t s.cur ∧
      x.cause.extractLsb' 0 4 = BitVec.ofNat 4 cause ∧ x.cause.getLsbD 32 = true ∧
      (∀ c < 8, x.cause.getLsbD (8 + c) = s.cells.contains c) ∧ x.tspc = g.spc ∧ x.tlpc = g.lpcOf s.cells ∧
      (∀ l < 32, x.tmask.getLsbD l = pend.contains l) ∧ (∀ l < 32, x.clanes.getLsbD l = who.contains l) ∧ x.taddr = BitVec.ofNat 64 addr

/-- A cell of a lane frame as TRET puts it back (R227): a cell named in CELLS re-executes the word at TLPC for the lanes of TMASK, or goes on behind it when
TMASK is 0. -/
def TrapRegs.resumed (x : TrapRegs) (c : Nat) (y z : Cell) : Prop :=
  if x.cause.getLsbD (8 + c) then
    if x.tmask = 0 then z = { y with lpc := x.tlpc + 1, pending := none, unpaid := false }
    else z = { y with pending := some (x.tmask.extractLsb' (4 * c) 4), unpaid := z.unpaid }
  else z = y

/-- Gang `h` is `g` after its return from the trap whose frame is `f` (R227): at U, at TSPC, with the lane frame and the lane queue restored; lanes that
exited in the handler stay exited. -/
def Gang.returned (g h : Gang) (f : LaneFrame) : Prop :=
  h.priv = false ∧ h.spc = g.trap.tspc ∧ h.frame = none ∧ h.queue = f.queue ∧ h.block = f.block ∧ h.s = g.s ∧ h.mode = g.mode ∧
    h.segs = g.segs ∧ h.trap = g.trap ∧ h.sscr = g.sscr ∧ h.tfstat = g.tfstat ∧ h.exiting = (f.exiting || g.exiting) ∧
    (∀ l, Tbl.at? h.lanes l = (Tbl.at? f.lanes l).map fun y =>
      { y with exited := y.exited || (Tbl.at? g.lanes l).any (·.exited) }) ∧
    ∀ c < 8, ∀ y, Tbl.at? f.cells c = some y → ∃ z, Tbl.at? h.cells c = some z ∧ g.trap.resumed c y z

end Sys2Proof.Machine
end

