-- ==== Sys2Proof/Certificates/Slice0/Obligations.lean ====
section
/-!
DEFINITION. The statements about the SX4 for the provers. Each says in its first words which rules of the spec it comes from; OBLIGATIONS.json lists
them.
-/

open Sys2Proof Sys2Proof.Machine

/-! ### Scalar words -/

/-- R103: every SALU operation but division writes its result to sD, nothing to s0, and the stream goes on; nothing else changes. -/
def Obligations.ScalarArithmetic : Prop :=
  ∀ (s : State) (g : Gang), s.issuing g → ∀ d ra rb : SReg,
    let a := g.sreg ra
    let b := g.sreg rb
    let writes := fun (i : Instr) (v : Word64) => s.completes i g (g.spc + 4) (g.withReg d v)
    let n := (b.extractLsb' 0 6).toNat
    writes (.sadd d ra rb) (a + b) ∧
    writes (.ssub d ra rb) (a - b) ∧
    writes (.smul d ra rb) (a * b) ∧
    writes (.smulh d ra rb) ((a.signExtend 128 * b.signExtend 128).extractLsb' 64 64) ∧
    writes (.smulhn d ra rb) ((a.zeroExtend 128 * b.zeroExtend 128).extractLsb' 64 64) ∧
    writes (.sand d ra rb) (a &&& b) ∧
    writes (.sor d ra rb) (a ||| b) ∧
    writes (.sxor d ra rb) (a ^^^ b) ∧
    writes (.sshl d ra rb) (a <<< n) ∧
    writes (.sshr d ra rb) (a >>> n) ∧
    writes (.ssra d ra rb) (a.sshiftRight n) ∧
    writes (.smin d ra rb) (if a.toInt ≤ b.toInt then a else b) ∧
    writes (.sminn d ra rb) (if a.toNat ≤ b.toNat then a else b) ∧
    writes (.smax d ra rb) (if b.toInt ≤ a.toInt then a else b) ∧
    writes (.smaxn d ra rb) (if b.toNat ≤ a.toNat then a else b) ∧
    writes (.sslt d ra rb) (if a.toInt < b.toInt then 1 else 0) ∧
    writes (.ssltn d ra rb) (if a.toNat < b.toNat then 1 else 0) ∧
    writes (.seq d ra rb) (if a = b then 1 else 0) ∧
    writes (.spopc d ra) (BitVec.ofNat 64 ((List.range 64).countP fun i => a.getLsbD i)) ∧
    (∃ z, writes (.sclz d ra) (BitVec.ofNat 64 z) ∧ z ≤ 64 ∧ (∀ i, 64 - z ≤ i → a.getLsbD i = false) ∧
      (z < 64 → a.getLsbD (63 - z) = true)) ∧
    ∀ k : BitVec 2, writes (.slea d ra rb k) (a + (b <<< k.toNat))

/-- R104: division never traps; with b = 0 the quotient is all ones and the remainder a; else the quotient is truncated toward zero, and −2⁶³ by −1
gives −2⁶³ and 0. -/
def Obligations.ScalarDivision : Prop :=
  ∀ (s : State) (g : Gang), s.issuing g → ∀ d ra rb : SReg,
    let a := g.sreg ra
    let b := g.sreg rb
    let writes := fun (i : Instr) (v : Word64) => s.completes i g (g.spc + 4) (g.withReg d v)
    writes (.sdiv d ra rb) (if b = 0 then BitVec.allOnes 64 else BitVec.ofInt 64 (a.toInt.tdiv b.toInt)) ∧
    writes (.srem d ra rb) (if b = 0 then a else BitVec.ofInt 64 (a.toInt.tmod b.toInt)) ∧
    writes (.sdivn d ra rb) (if b = 0 then BitVec.allOnes 64 else BitVec.ofNat 64 (a.toNat / b.toNat)) ∧
    writes (.sremn d ra rb) (if b = 0 then a else BitVec.ofNat 64 (a.toNat % b.toNat)) ∧
    (a = BitVec.intMin 64 → b = BitVec.allOnes 64 →
      writes (.sdiv d ra rb) (BitVec.intMin 64) ∧ writes (.srem d ra rb) 0) ∧
    (if b = 0 then BitVec.allOnes 64 else BitVec.ofInt 64 (a.toInt.tdiv b.toInt)) * b +
      (if b = 0 then a else BitVec.ofInt 64 (a.toInt.tmod b.toInt)) = a ∧
    (if b = 0 then BitVec.allOnes 64 else BitVec.ofNat 64 (a.toNat / b.toNat)) * b +
      (if b = 0 then a else BitVec.ofNat 64 (a.toNat % b.toNat)) = a

/-- R105, R75: the immediate is sign-extended from 13 bits; a shift takes its 6-bit count. R106: SLI loads its immediate, and SLX appends 19 bits to
its destination. -/
def Obligations.ScalarImmediates : Prop :=
  (∀ (s : State) (g : Gang), s.issuing g → ∀ (d ra : SReg) (imm : BitVec 13) (n : BitVec 6),
     let a := g.sreg ra
     let i : Word64 := imm.signExtend 64
     let writes := fun (x : Instr) (v : Word64) => s.completes x g (g.spc + 4) (g.withReg d v)
     writes (.saddi d ra imm) (a + i) ∧
     writes (.sandi d ra imm) (a &&& i) ∧
     writes (.sori d ra imm) (a ||| i) ∧
     writes (.sxori d ra imm) (a ^^^ i) ∧
     writes (.sshli d ra n) (a <<< n.toNat) ∧
     writes (.sshri d ra n) (a >>> n.toNat) ∧
     writes (.ssrai d ra n) (a.sshiftRight n.toNat) ∧
     writes (.sslti d ra imm) (if a.toInt < i.toInt then 1 else 0) ∧
     writes (.ssltni d ra imm) (if a.toNat < i.toNat then 1 else 0) ∧
     writes (.smuli d ra imm) (a * i)) ∧
  (∀ (s : State) (g : Gang), s.issuing g → ∀ (d : SReg) (imm : BitVec 19),
     s.completes (.sli d imm) g (g.spc + 4) (g.withReg d (imm.signExtend 64)) ∧
     s.completes (.slx d imm) g (g.spc + 4) (g.withReg d ((g.sreg d <<< 19) ||| imm.zeroExtend 64)))

/-- R107: a compare-and-branch word goes to its own SPC plus four times its displacement when its condition holds, else to the next word; no register
changes. R108, R109: SLOOP counts down and branches while the count is not 0 (always, for s0); SJ and SJAL go to SPC plus four times their
displacement, and SJAL leaves the address after it in s63. R110: a jump to an aligned target below 2⁵⁷ completes, its target read before the link is
written. R110: a jump to a misaligned target raises ALIGN, and one to a target of 2⁵⁷ or more raises XLAT, with no effect and no link. That TADDR
names the target is the model's choice (notes/assumptions/24.md). -/
def Obligations.BranchesAndJumps : Prop :=
  (∀ (s : State) (g : Gang), s.issuing g → ∀ (ra rb : SReg) (disp : BitVec 13),
     let a := g.sreg ra
     let b := g.sreg rb
     let goes := fun (i : Instr) (taken : Bool) =>
       s.completes i g (if taken then g.spc + disp.signExtend 64 * 4 else g.spc + 4) g.sreg
     goes (.sbeq ra rb disp) (a = b) ∧
     goes (.sbne ra rb disp) (a ≠ b) ∧
     goes (.sblt ra rb disp) (a.toInt < b.toInt) ∧
     goes (.sbge ra rb disp) (b.toInt ≤ a.toInt) ∧
     goes (.sbltn ra rb disp) (a.toNat < b.toNat) ∧
     goes (.sbgen ra rb disp) (b.toNat ≤ a.toNat)) ∧
  (∀ (s : State) (g : Gang), s.issuing g →
     (∀ (ra : SReg) (disp : BitVec 13),
       let c := g.sreg ra - 1
       s.completes (.sloop ra disp) g (if c ≠ 0 then g.spc + disp.signExtend 64 * 4 else g.spc + 4) (g.withReg ra c)) ∧
     ∀ disp : BitVec 25,
       s.completes (.sj disp) g (g.spc + disp.signExtend 64 * 4) g.sreg ∧
       s.completes (.sjal disp) g (g.spc + disp.signExtend 64 * 4) (g.withReg 63 (g.spc + 4))) ∧
  (∀ (s : State) (g : Gang), s.issuing g → ∀ (d ra : SReg) (imm : BitVec 13),
     let t := g.sreg ra + imm.signExtend 64
     t.toNat % 4 = 0 → t.toNat < 2 ^ 57 →
       s.completes (.sjr ra imm) g t g.sreg ∧ s.completes (.sjalr d ra imm) g t (g.withReg d (g.spc + 4))) ∧
  (∀ (s : State) (g : Gang), s.issuing g → ∀ (d ra : SReg) (imm : BitVec 13),
     let t := (g.sreg ra + imm.signExtend 64).toNat
     (t % 4 ≠ 0 → s.raises (.sjr ra imm) g 5 t ∧ s.raises (.sjalr d ra imm) g 5 t) ∧
     (t % 4 = 0 → 2 ^ 57 ≤ t → s.raises (.sjr ra imm) g 2 t ∧ s.raises (.sjalr d ra imm) g 2 t))

/-! ### Traps and returns -/

/-- R32, R236: a supervisor-only word, and a CSRR of a number that U may not read, raises ILLEGAL at U and has no effect. R77, R87: a word that is no
instruction raises ILLEGAL, in the scalar stream at its address, in an issue group for the lanes that its cells' masks name, which are all pending
(that these are their lanes is the model's choice, notes/assumptions/22.md). R223: TRAP completes and raises BREAK with SW = 1 and its code, with TSPC
at the word after it; SBRK raises BREAK at its own address. R100: a fetch of the scalar stream that does not translate, or reads a poisoned line, is a
trap at that SPC. -/
def Obligations.WordsThatTrap : Prop :=
  (∀ (s : State) (g : Gang), s.issuing g → g.priv = false → ∀ (d a b : SReg) (k : BitVec 2) (sc : BitVec 3) (c : BitVec 12),
     s.raises (.csrw b c) g 1 0 ∧ s.raises (.segw a b sc) g 1 0 ∧ s.raises .tret g 1 0 ∧ s.raises (.mapf d a) g 1 0 ∧
     s.raises (.fltpark d) g 1 0 ∧ s.raises .fltret g 1 0 ∧ s.raises (.tlbinv a k) g 1 0 ∧ s.raises (.poolq d) g 1 0 ∧
     s.raises (.cflush a b sc) g 1 0 ∧ s.raises (.cinv a b sc) g 1 0 ∧
     (c.toNat ∉ [0x001, 0x010, 0x020, 0x021, 0x022, 0x023, 0x024, 0x025, 0x026, 0x027, 0x028, 0x029, 0x02A, 0x02B, 0x030, 0x031, 0x032, 0x033,
       0x040, 0x051, 0x052, 0x053, 0x054, 0x055] → s.raises (.csrr d c) g 1 0)) ∧
  (∀ (s : State) (g : Gang), s.issuing g →
     (s.cells = [] → s.raises .illegalEncoding g 1 0) ∧
     (s.cells ≠ [] → (∀ c ∈ s.cells, c < 8) → g.priv = false → (s.ctxOf g).tvec ≠ 0 →
       ∃ t x, exec .illegalEncoding s = .next t ∧ s.entersHandler t g x ∧ x.cause.extractLsb' 0 4 = 1 ∧ x.cause.getLsbD 32 = true ∧
         x.tspc = g.spc ∧ x.tlpc = g.lpcOf s.cells ∧ x.tmask = x.clanes ∧
         ∀ l < 32, x.tmask.getLsbD l = (s.cells.contains (l / 4) && g.laneOn l))) ∧
  (∀ (s : State) (g : Gang), s.issuing g → g.priv = false → (s.ctxOf g).tvec ≠ 0 →
     (∀ code : BitVec 13, ∃ t x, exec (.trap code) s = .next t ∧ s.entersHandler t g x ∧
       x.cause.extractLsb' 0 4 = 10 ∧ x.cause.getLsbD 35 = true ∧ x.cause.extractLsb' 36 13 = code ∧ x.cause.getLsbD 32 = false ∧
       x.tspc = g.spc + 4 ∧ x.taddr = g.spc ∧ x.tmask = 0) ∧
     ∀ y : BitVec 25, s.raises (.sbrk y) g 10 g.spc.toNat) ∧
  (∀ (s : State) (g : Gang), s.issuing g → g.spc.toNat % 4 = 0 →
     (2 ^ 57 ≤ g.spc.toNat → s.raises .scalarFetchFault g 2 g.spc.toNat) ∧
     (g.spc.toNat < 2 ^ 57 → ∀ k, (s.translateFor (.fetch s.cur) (.core (s.coreOf g)) (s.asidOf g) g.spc.toNat .fetch).2 = .bad k →
       s.raises .scalarFetchFault g (if k = 2 then 3 else 2) g.spc.toNat) ∧
     (g.spc.toNat < 2 ^ 57 → g.priv = false → (s.ctxOf g).tvec ≠ 0 →
       ∀ t pa e n, s.translateFor (.fetch s.cur) (.core (s.coreOf g)) (s.asidOf g) g.spc.toNat .fetch = (t, .ok pa e n) → isPeer pa = false →
         (t.codeAt (s.coreOf g) (s.asidOf g) pa 4).2 = true →
         ∃ r x h, exec .scalarFetchFault s = .next r ∧ Tbl.at? r.gangs s.cur = some h ∧ g.inHandler h (s.ctxOf g).tvec x ∧ s.sameBytes r ∧
           x.cause = 6 ∧ x.tspc = g.spc ∧ x.taddr = g.spc))

/-- R224, R337: a trap at S kills the team, which ends at once unless a chunk or a step of its work is in hand, and a notice about it is left that
records its cause, TSPC and TADDR in a fault slot, or waits for one when all are in use; here ILLEGAL of a word that names nothing, and BREAK of SBRK.
R227: TRET at S restores the lane frame, the lane queue and U, and goes to TSPC; a request that an RNGACQ had made is left when the stream does not go
on there (the model's choice, notes/assumptions/112.md). R240: FLTRET returns as TRET does, its core holds no translation of TADDR any more, and the
fault slots of the frame are free. -/
def Obligations.TrapsAtSAndReturns : Prop :=
  (∀ (s : State) (g : Gang), s.issuing g → g.priv = true → (Tbl.at? s.teams g.team).isSome → (Tbl.at? s.ctxs (s.asidOf g)).isSome →
     let kills := fun (i : Instr) (cause addr : Nat) =>
       ∃ t, exec i s = .next t ∧ s.killed t g.team ∧
         let holds := fun (x : FaultSlot) =>
           x.st ≠ .free ∧ x.owner = .notice ∧ x.tspc = g.spc ∧ (x.rcd.drop 4).take 1 = bytesOf 1 cause ∧ (x.rcd.drop 8).take 8 = bytesOf 8 addr
         (∀ n, (s.ctxOf g).freeSlot = some n → ∃ x, Tbl.at? (t.ctx (s.asidOf g)).slots n = some x ∧ holds x) ∧
         ((s.ctxOf g).freeSlot = none →
           (∃ n x, Tbl.at? (t.ctx (s.asidOf g)).slots n = some x ∧ holds x) ∨
             ∃ e ∈ (t.ctx (s.asidOf g)).waiting, e.1 = .notice ∧ e.2.cause = cause ∧ e.2.va = addr ∧ e.2.tspc = g.spc)
     (s.cells = [] → kills .illegalEncoding 1 0) ∧ ∀ y : BitVec 25, kills (.sbrk y) 10 g.spc.toNat) ∧
  (∀ (s : State) (g : Gang) (f : LaneFrame), s.issuing g → g.priv = true → g.frame = some f →
     ∃ t h, exec .tret s = .next t ∧ Tbl.at? t.gangs s.cur = some h ∧ g.returned h f ∧
       (s.leaveAt s.cur f.rng (decide (f.spc = g.trap.tspc))).onlyTraced t s.cur) ∧
  (∀ (s : State) (g : Gang) (f : LaneFrame), s.issuing g → g.priv = true → g.frame = some f →
     ∃ t h, exec .fltret s = .next t ∧ Tbl.at? t.gangs s.cur = some h ∧ g.returned h f ∧ h.held = [] ∧ s.sameBytes t ∧
       (∀ e ∈ t.tlbEntries (.core (s.coreOf g)), e.covers (s.asidOf g) g.trap.taddr.toNat = false) ∧
       ((s.ctxOf g).waiting = [] → ∀ n ∈ g.held, ∀ x, Tbl.at? (t.ctx (s.asidOf g)).slots n = some x → x.st = .free))

/-! ### Scalar accesses and the lane queue -/

/-- R111, R112, R386, R388: a load through G or K whose checks pass, of bytes of the device or the host, puts the bytes that its core sees, with the
stream's own buffered stores over them, in its register; nothing else changes but where lines and translations are held. A load of another device's
memory asks that device once, waits for the answer and takes it (R386). Poisoned data raises POISON; data in a granule that those stores write whole
is not poisoned (R288). -/
def Obligations.ScalarLoads : Prop :=
  ∀ (s : State) (g : Gang), s.issuing g → ∀ (d ra : SReg) (imm : BitVec 13),
    let o := (g.sreg ra + imm.signExtend 64).toNat
    let loads := fun (i : Instr) (sg n : Nat) (ext : Nat → Word64) =>
      ∀ pa e k, o + n ≤ (g.seg sg).limit → ((g.seg sg).baseN + o) % n = 0 →
        (s.translateFor (.scalar s.cur) (.core (s.coreOf g)) (s.asidOf g) ((g.seg sg).baseN + o) .load).2 = .ok pa e k → isPeer pa = false →
        pa % 128 + n ≤ 128 →
        let seen := s.codeAt (s.coreOf g) (s.asidOf g) pa n
        let got := wcLoad g.wcs pa seen.1 seen.2
        (got.2 = false → s.does i g (g.spc + 4) (g.withReg d (ext (natOf got.1))) fun t => s.onlyCached t s.cur) ∧
        (got.2 = true → g.priv = false → (s.ctxOf g).tvec ≠ 0 →
          ∃ t h x, exec i s = .next t ∧ Tbl.at? t.gangs s.cur = some h ∧ g.inHandler h (s.ctxOf g).tvec x ∧ s.sameBytes t ∧
            x.cause = 6 ∧ x.tspc = g.spc ∧ x.taddr = BitVec.ofNat 64 ((g.seg sg).baseN + o))
    let asks := fun (i : Instr) (sg n : Nat) (ext : Nat → Word64) =>
      ∀ pa e k, o + n ≤ (g.seg sg).limit → ((g.seg sg).baseN + o) % n = 0 →
        (s.translateFor (.scalar s.cur) (.core (s.coreOf g)) (s.asidOf g) ((g.seg sg).baseN + o) .load).2 = .ok pa e k → isPeer pa = true →
        (s.findReq (.scalar s.cur) pa n = none →
          s.waits i g fun t => s.sameBytes t ∧ s.asked t g 0 [(.scalar s.cur, pa, n)] masked) ∧
        ∀ r, s.findReq (.scalar s.cur) pa n = some r →
          (r.answer = none → s.waits i g fun t => s.sameBytes t ∧ t.requests = s.requests ∧ t.outbox = s.outbox) ∧
          ∀ bs bad, r.answer = some (bs, bad) → (∀ k < n, bad.getLsbD (pa % 128 + k) = false) → bs.length = n →
            s.does i g (g.spc + 4) (g.withReg d (ext (natOf (wcLoad g.wcs pa bs false).1))) fun t =>
              s.sameBytes t ∧ t.requests = s.requests.filter fun x => x.tag ≠ r.tag
    let zext := fun (x : Nat) => (BitVec.ofNat 64 x : Word64)
    let reads := fun (i : Instr) (sg n : Nat) (ext : Nat → Word64) => loads i sg n ext ∧ asks i sg n ext
    reads (.sldb d ra imm) 0 1 zext ∧ reads (.sldh d ra imm) 0 2 zext ∧ reads (.sldw d ra imm) 0 4 zext ∧
    reads (.sldd d ra imm) 0 8 zext ∧ reads (.sldk d ra imm) 3 8 zext ∧
    reads (.sldbx d ra imm) 0 1 (fun x => (BitVec.ofNat 8 x).signExtend 64) ∧
    reads (.sldhx d ra imm) 0 2 (fun x => (BitVec.ofNat 16 x).signExtend 64) ∧
    reads (.sldwx d ra imm) 0 4 (fun x => (BitVec.ofNat 32 x).signExtend 64)

/-- R111, R112: a store through G that is not write-combined stores the low bytes of its register, and no byte of memory changes but these, and what
of their line was written under another key slot (R404); through a WC segment, with room in the buffers, it is entered there, memory is unchanged, and
the stream's own loads see it. A store to another device's memory sends it and goes on (R386). -/
def Obligations.ScalarStores : Prop :=
  ∀ (s : State) (g : Gang), s.issuing g → ∀ (b ra : SReg) (imm : BitVec 13),
    let o := (g.sreg ra + imm.signExtend 64).toNat
    let x := g.seg 0
    let stores := fun (i : Instr) (n : Nat) =>
      let bs := bytesOf n (g.sreg b).toNat
      ∀ pa e k, o + n ≤ x.limit → x.ros = false → (x.baseN + o) % n = 0 →
        (s.translate (.core (s.coreOf g)) (s.asidOf g) (x.baseN + o) .store).2 = .ok pa e k → isPeer pa = false → pa % 128 + n ≤ 128 →
        (x.wc = false → (∀ y ∈ g.wcs, y.line ≠ pa / 128) →
          s.does i g (g.spc + 4) g.sreg fun t => s.onlyMemory t s.cur ∧ s.storedFor t (s.asidOf g) pa bs ∧ t.memBad = clearPoison s.memBad pa n) ∧
        (x.wc = true → g.wcs.length < 2 → (∀ y ∈ g.wcs, y.line ≠ pa / 128) →
          ∃ t h, exec i s = .next t ∧ Tbl.at? t.gangs s.cur = some h ∧ h.spc = g.spc + 4 ∧ (∀ r, h.sreg r = g.sreg r) ∧ g.kept h ∧
            s.onlyCached t s.cur ∧ ∀ old : List Byte, old.length = n → wcOverlay h.wcs pa old = bs)
    let sends := fun (i : Instr) (n : Nat) =>
      ∀ pa e k, o + n ≤ x.limit → x.ros = false → (x.baseN + o) % n = 0 → x.wc = false → (∀ y ∈ g.wcs, y.line ≠ pa / 128) →
        (s.translate (.core (s.coreOf g)) (s.asidOf g) (x.baseN + o) .store).2 = .ok pa e k → isPeer pa = true →
          s.does i g (g.spc + 4) g.sreg fun t => s.sameBytes t ∧ s.asked t g 1 [(.scalar s.cur, pa, n)] fun e y =>
            masked e y ∧ y.value = BitVec.ofNat 64 ((g.sreg b).toNat % 2 ^ (8 * n))
    stores (.sstb b ra imm) 1 ∧ stores (.ssth b ra imm) 2 ∧ stores (.sstw b ra imm) 4 ∧ stores (.sstd b ra imm) 8 ∧
    sends (.sstb b ra imm) 1 ∧ sends (.ssth b ra imm) 2 ∧ sends (.sstw b ra imm) 4 ∧ sends (.sstd b ra imm) 8

/-- R31, R112, in the order of R88: a scalar access out of bounds, or a store through a read-only segment, raises SBOUND; a misaligned one raises
ALIGN; through G or K, one that does not translate raises XLAT or OWN. None of them has an effect. That TADDR names BASE plus the offset is the
model's choice (notes/assumptions/24.md). -/
def Obligations.ScalarAccessChecks : Prop :=
  ∀ (s : State) (g : Gang), s.issuing g → ∀ (d b ra : SReg) (imm : BitVec 13),
    let o := (g.sreg ra + imm.signExtend 64).toNat
    let checks := fun (i : Instr) (sg n : Nat) (store : Bool) =>
      let x := g.seg sg
      let va := x.baseN + o
      (x.limit < o + n → s.raises i g 4 va) ∧
      (store = true → x.ros = true → s.raises i g 4 va) ∧
      (o + n ≤ x.limit → (store = true → x.ros = false) → va % n ≠ 0 → s.raises i g 5 va) ∧
      (o + n ≤ x.limit → (store = true → x.ros = false) → va % n = 0 → (sg = 0 ∨ sg = 3) →
        ∀ k, (if store then s.translate (.core (s.coreOf g)) (s.asidOf g) va .store
          else s.translateFor (.scalar s.cur) (.core (s.coreOf g)) (s.asidOf g) va .load).2 = .bad k →
          s.raises i g (if k = 2 then 3 else 2) va)
    checks (.sldb d ra imm) 0 1 false ∧ checks (.sldh d ra imm) 0 2 false ∧ checks (.sldw d ra imm) 0 4 false ∧
    checks (.sldd d ra imm) 0 8 false ∧ checks (.sldbx d ra imm) 0 1 false ∧ checks (.sldhx d ra imm) 0 2 false ∧
    checks (.sldwx d ra imm) 0 4 false ∧ checks (.sldk d ra imm) 3 8 false ∧ checks (.sstb b ra imm) 0 1 true ∧
    checks (.ssth b ra imm) 0 2 true ∧ checks (.sstw b ra imm) 0 4 true ∧ checks (.sstd b ra imm) 0 8 true ∧
    (o < 0x100000 → checks (.slds d ra imm) 1 8 false ∧
      (s.frozenHit g g.team o 8 = false → checks (.ssts b ra imm) 1 8 true) ∧
      (s.frozenHit g g.team o 8 = true → s.raises (.ssts b ra imm) g 4 ((g.seg 1).baseN + o)))

/-- R113, R268: below 10_0000 hex SLDS and SSTS reach the team's scratchpad. R113: offset 10_0000 hex + 128K + 8m reaches register vK of lanes 2m and
2m + 1, for K below the gang's registers per lane. That TADDR names BASE plus the offset is the model's choice (notes/assumptions/24.md). -/
def Obligations.ScratchpadAndWindowWords : Prop :=
  (∀ (s : State) (g : Gang), s.issuing g → ∀ (d b ra : SReg) (imm : BitVec 13),
     let o := (g.sreg ra + imm.signExtend 64).toNat
     let x := g.seg 1
     let a := s.scratchAddr g.team o
     o < 0x100000 → o + 8 ≤ x.limit → (x.baseN + o) % 8 = 0 →
       (poisoned s.storeBad a 8 = false → s.completes (.slds d ra imm) g (g.spc + 4) (g.withReg d (BitVec.ofNat 64 (natOf (s.store.read a 8))))) ∧
       (poisoned s.storeBad a 8 = true → s.raises (.slds d ra imm) g 6 (x.baseN + o)) ∧
       (x.ros = false → s.frozenHit g g.team o 8 = false →
         s.does (.ssts b ra imm) g (g.spc + 4) g.sreg fun t =>
           s.onlyStore t s.cur ∧ Mem.storedAt s.store t.store a (bytesOf 8 (g.sreg b).toNat) ∧ t.storeBad = clearPoison s.storeBad a 8)) ∧
  (∀ (s : State) (g : Gang), s.issuing g → ∀ (d b ra : SReg) (imm : BitVec 13) (K m : Nat),
     let o := (g.sreg ra + imm.signExtend 64).toNat
     let x := g.seg 1
     let lo := s.readReg g K (2 * m)
     let hi := s.readReg g K (2 * m + 1)
     m < 16 → o = 0x100000 + 128 * K + 8 * m → x.baseN % 8 = 0 →
       (s.regsOf g ≤ K → s.raises (.slds d ra imm) g 4 (x.baseN + o) ∧ s.raises (.ssts b ra imm) g 4 (x.baseN + o)) ∧
       (K < s.regsOf g → lo.2 = false → hi.2 = false →
         s.completes (.slds d ra imm) g (g.spc + 4) (g.withReg d (BitVec.ofNat 64 (lo.1 + hi.1 * 2 ^ 32)))) ∧
       (K < s.regsOf g → (lo.2 || hi.2) = true → s.raises (.slds d ra imm) g 6 (x.baseN + o)) ∧
       (K < s.regsOf g → x.ros = false → (K / 16) ∉ g.shared →
         s.does (.ssts b ra imm) g (g.spc + 4) g.sreg fun t =>
           s.onlyStore t s.cur ∧ t.readReg g K (2 * m) = ((g.sreg b).toNat % 2 ^ 32, false) ∧
           t.readReg g K (2 * m + 1) = ((g.sreg b).toNat / 2 ^ 32, false) ∧
           Mem.storedAt s.store t.store (s.regAddr g K (2 * m)) (bytesOf 8 (g.sreg b).toNat)))

/-- R115 to R117: LQ appends a block with copies of s32 to s47 and of MODE's control fields, waits while the queue is full, and raises XLAT beyond the
code space; LQW and SGETL wait while a block is queued or running, and else LQW completes and SGETL reads the register of its lane. That TADDR names
the lane word's address is the model's choice (notes/assumptions/24.md). -/
def Obligations.LaneQueue : Prop :=
  ∀ (s : State) (g : Gang), s.issuing g → ∀ (d ra : SReg) (imm : BitVec 13) (r : BitVec 8) (l : BitVec 5),
    let n := (g.sreg ra + imm.signExtend 64).toNat
    let va := (s.recOf g).lcbase + 12 * n
    (2 ^ 48 ≤ n ∨ 2 ^ 57 ≤ va → s.raises (.lq ra imm) g 2 va) ∧
    (n < 2 ^ 48 → va < 2 ^ 57 → 16 ≤ g.queue.length → s.waits (.lq ra imm) g fun t => s.onlyGang t s.cur) ∧
    (n < 2 ^ 48 → va < 2 ^ 57 → g.queue.length < 16 → g.wcs = [] →
      s.passes (.lq ra imm) g g.sreg fun t h =>
        s.onlyGang t s.cur ∧ h.block = g.block ∧ ∃ e, h.queue = g.queue ++ [e] ∧ e.idx = n ∧ e.den = g.mode.den ∧ e.satd = g.mode.satd ∧
          e.rmd = g.mode.rmd ∧ e.k.length = 16 ∧ ∀ j < 16, e.k[j]? = some (g.sreg (BitVec.ofNat 6 (32 + j)))) ∧
    (g.queue ≠ [] ∨ g.block.isSome →
      s.waits .lqw g (fun t => s.onlyGang t s.cur) ∧
      (r.toNat < s.regsOf g → s.waits (.sgetl d r l) g fun t => s.onlyGang t s.cur)) ∧
    (g.queue = [] → g.block = none → (∀ c, Tbl.atD g.wcl c [] = []) → s.requests = [] →
      s.passes .lqw g g.sreg (fun t _ => s.onlyGang t s.cur) ∧
      (r.toNat < s.regsOf g →
        s.passes (.sgetl d r l) g (g.withReg d (BitVec.ofNat 64 (s.readReg g r.toNat l.toNat).1)) fun t _ => s.onlyGang t s.cur)) ∧
    (s.regsOf g ≤ r.toNat → s.raises (.sgetl d r l) g 1 0)

/-! ### Control registers and supervisor words -/

/-- R225, R236, R412: CSRR reads each register by its number, at S, or at U where U may read it; MODE is read with its flags cleared, TRLOST is read
and cleared, and a number that names no register is ILLEGAL, which kills the team at S. -/
def Obligations.ControlRegisterReads : Prop :=
  ∀ (s : State) (g : Gang), s.issuing g → ∀ (d : SReg) (c : BitVec 12),
    let x := s.ctxOf g
    let n := c.toNat
    let reads := fun (v : Word64) => s.completes (.csrr d c) g (g.spc + 4) (g.withReg d v)
    let ofN := fun (v : Nat) => (BitVec.ofNat 64 v : Word64)
    (g.priv = true ∨ n ∈ [0x001, 0x020, 0x021, 0x022, 0x023, 0x024, 0x025, 0x026, 0x027, 0x028, 0x029, 0x02A, 0x02B, 0x030, 0x031, 0x032, 0x033,
        0x040, 0x051, 0x052, 0x053, 0x054, 0x055] →
      (n = 0x001 → reads (ofN (s.asidOf g % 2 ^ 16 + x.part % 2 ^ 12 * 2 ^ 16))) ∧
      (∀ k < 6, (n = 0x020 + 2 * k → reads (g.seg k).base) ∧ (n = 0x021 + 2 * k → reads (g.seg k).lim)) ∧
      (∀ k < 4, n = 0x030 + k → reads (x.events.extractLsb' (64 * k) 64)) ∧
      (n = 0x040 → reads (ofN ((if x.ecsat then 2 ^ 63 else 0) + x.ectr))) ∧
      (n = 0x050 → reads x.tvec) ∧ (n = 0x051 → reads x.pvec) ∧ (n = 0x052 → reads (ofN x.pbudget)) ∧
      (n = 0x053 → reads (if g.pframe.isSome then ofN ((g.pbleft + 99) / 100) else 0)) ∧
      (n = 0x054 → reads g.pspc) ∧ (n = 0x055 → reads g.pcause) ∧ (n = 0x058 → reads g.trap.cause) ∧ (n = 0x059 → reads g.trap.tspc) ∧
      (n = 0x05A → reads (ofN g.trap.tlpc)) ∧ (n = 0x05B → reads (g.trap.tmask.zeroExtend 64)) ∧ (n = 0x05C → reads g.trap.taddr) ∧
      (n = 0x05D → reads g.tfstat) ∧ (n = 0x05E → reads (g.trap.clanes.zeroExtend 64)) ∧
      (∀ k < 4, n = 0x060 + k → reads (Tbl.atD g.sscr k 0)) ∧ (∀ k < 4, n = 0x078 + k → reads (Tbl.atD x.dbp k 0)) ∧
      (n = 0x070 → reads x.trbase) ∧
      (n = 0x071 → reads (ofN ((if x.trts then 2 ^ 9 else 0) + (if x.tren then 2 ^ 8 else 0) + x.trlog))) ∧
      (n = 0x072 → reads (x.trhead.zeroExtend 64)) ∧ (n = 0x07C → reads (g.dbctl.zeroExtend 64))) ∧
    (n = 0x010 →
      s.completes (.csrr d c) { g with mode := { g.mode with flags := 0 } } (g.spc + 4)
        (g.withReg d (ofN (g.mode.flags.toNat * 2 ^ 16 + (if g.mode.den then 16 else 0) + (if g.mode.satd then 8 else 0) + g.mode.rmd.toNat)))) ∧
    (g.priv = true → n = 0x073 →
      s.does (.csrr d c) g (g.spc + 4) (g.withReg d (x.trtail.zeroExtend 64)) fun t => s.onlyCached t s.cur) ∧
    (g.priv = true → n = 0x074 →
      s.does (.csrr d c) g (g.spc + 4) (g.withReg d (ofN x.trlost)) fun t => s.onlyTraced t s.cur ∧ (t.ctxOf g).trlost = 0) ∧
    (g.priv = true → n ∉ [0x001, 0x010, 0x020, 0x021, 0x022, 0x023, 0x024, 0x025, 0x026, 0x027, 0x028, 0x029, 0x02A, 0x02B, 0x030, 0x031, 0x032,
        0x033, 0x040, 0x050, 0x051, 0x052, 0x053, 0x054, 0x055, 0x058, 0x059, 0x05A, 0x05B, 0x05C, 0x05D, 0x05E, 0x060, 0x061, 0x062, 0x063, 0x070,
        0x071, 0x072, 0x073, 0x074, 0x078, 0x079, 0x07A, 0x07B, 0x07C] → s.kills (.csrr d c) g)

/-- R35, R225, R236, R412: at S, CSRW writes the registers of the gang that a write reaches; a write of TRLOST does nothing (R6). R225, R412 to R414,
R420: at S, CSRW writes the registers of the context that a write reaches; the vectors are aligned to 4 bytes, the breakpoints and TRBASE keep 57
bits, and EN newly set in TRCTL asks every gang of the context for a SYNC packet. -/
def Obligations.ControlRegisterWrites : Prop :=
  (∀ (s : State) (g : Gang), s.issuing g → g.priv = true → ∀ (b : SReg) (c : BitVec 12),
     let n := c.toNat
     let v := g.sreg b
     (∀ k < 4, n = 0x060 + k → s.completes (.csrw b c) { g with sscr := Tbl.put g.sscr k v } (g.spc + 4) g.sreg) ∧
     (n = 0x010 → v.extractLsb' 0 3 ≠ 0 → v.extractLsb' 0 3 ≠ 7 →
       s.completes (.csrw b c)
         { g with mode := { g.mode with den := v.getLsbD 4, satd := v.getLsbD 3, rmd := v.extractLsb' 0 3 } } (g.spc + 4) g.sreg) ∧
     (n = 0x010 → v.extractLsb' 0 3 = 0 ∨ v.extractLsb' 0 3 = 7 → s.kills (.csrw b c) g) ∧
     (n = 0x059 → s.completes (.csrw b c) { g with trap := { g.trap with tspc := v } } (g.spc + 4) g.sreg) ∧
     (n = 0x05B → s.completes (.csrw b c) { g with trap := { g.trap with tmask := v.extractLsb' 0 32 } } (g.spc + 4) g.sreg) ∧
     (n = 0x07C → s.completes (.csrw b c) { g with dbctl := v.extractLsb' 0 2 } (g.spc + 4) g.sreg) ∧
     (n = 0x074 → s.completes (.csrw b c) g (g.spc + 4) g.sreg) ∧
     (n ∉ [0x010, 0x050, 0x051, 0x059, 0x05B, 0x060, 0x061, 0x062, 0x063, 0x070, 0x071, 0x072, 0x074, 0x078, 0x079, 0x07A, 0x07B, 0x07C] →
       s.kills (.csrw b c) g)) ∧
  (∀ (s : State) (g : Gang), s.issuing g → g.priv = true → ∀ (b : SReg) (c : BitVec 12),
     let n := c.toNat
     let v := g.sreg b
     let sets := fun (f : Ctx → Ctx) => s.does (.csrw b c) g (g.spc + 4) g.sreg fun t => s.onlyCtx t s.cur (s.asidOf g) f
     (n = 0x050 → sets fun x => { x with tvec := v &&& ~~~ 3 }) ∧
     (n = 0x051 → sets fun x => { x with pvec := v &&& ~~~ 3 }) ∧
     (∀ k < 4, n = 0x078 + k → sets fun x => { x with dbp := Tbl.put x.dbp k (v &&& 0x01FFFFFFFFFFFFFF) }) ∧
     (n = 0x070 → sets fun x => { x with trbase := v &&& 0x01FFFFFFFFFFF000, trwait := false }) ∧
     (n = 0x072 → sets fun x => { x with trhead := v.extractLsb' 0 32, trwait := false }) ∧
     (n = 0x071 → v.getLsbD 8 = false ∨ (s.ctxOf g).tren = true → v.toNat % 16 < 10 →
       sets fun x => { x with tren := v.getLsbD 8, trts := v.getLsbD 9, trlog := v.toNat % 16, trwait := false }) ∧
     (n = 0x071 → v.getLsbD 8 = true → (s.ctxOf g).tren = false → (Tbl.at? s.ctxs (s.asidOf g)).isSome →
       ∃ t, exec (.csrw b c) s = .next t ∧ s.sameBytes t ∧ (t.ctxOf g).tren = true ∧
         ∀ u h, Tbl.at? s.gangs u = some h → s.asidOf h = s.asidOf g → h.isTpl = false →
           ∃ k, Tbl.at? t.gangs u = some k ∧ k.tr.due = some 8))

/-- R237, R29, R30: SEGW waits for the lanes, then writes BASE and LIM of G or K with their reserved bits 0; another segment accepts only its own base
and a limit within its grant, and anything else is ILLEGAL. -/
def Obligations.SegmentWrites : Prop :=
  ∀ (s : State) (g : Gang), s.issuing g → g.priv = true → ∀ (a b : SReg) (sc : BitVec 3),
    let x : Seg := { base := g.sreg a &&& 0x01FFFFFFFFFFFFFF, lim := g.sreg b &&& 0x0DFFFFFFFFFFFFFF }
    let granted := Tbl.atD (s.createSegs g.team) sc.toNat { base := 0, lim := 0 }
    let ok := sc.toNat = 0 ∨ sc.toNat = 3 ∨ (sc.toNat < 6 ∧ x.baseN = granted.baseN ∧ x.limit ≤ granted.limit)
    (ok → g.queue = [] → g.block = none → (∀ c, Tbl.atD g.wcl c [] = []) → s.requests = [] →
      ∃ t h, exec (.segw a b sc) s = .next t ∧ Tbl.at? t.gangs s.cur = some h ∧ h.spc = g.spc + 4 ∧ (∀ r, h.sreg r = g.sreg r) ∧
        g.kept { h with segs := g.segs } ∧ h.segs = Tbl.put g.segs sc.toNat x ∧ s.onlyGang t s.cur) ∧
    (ok → g.queue ≠ [] ∨ g.block.isSome → s.waits (.segw a b sc) g fun t => s.onlyGang t s.cur) ∧
    (¬ ok → s.kills (.segw a b sc) g)

/-- R238, R298: MAPF maps a page from the pool where an entry of level 4 asks for one, zeroed, and answers 0; it answers 2 with an empty pool, 3 where
a leaf maps the address, and 1 otherwise (at 2⁵⁷ and beyond too, which is the model's choice, notes/assumptions/121.md). What else the entry's line
holds under another key slot does not decrypt (R404). R239, R301: FLTPARK takes a free fault slot for the fault of its frame and parks the gang; with
every slot in use it answers with all ones. -/
def Obligations.FaultServices : Prop :=
  (∀ (s : State) (g : Gang), s.issuing g → g.priv = true → ∀ (d a : SReg),
     let r := s.peek (s.asidOf g) (g.sreg a).toNat
     let p := (s.ctxOf g).part
     let answers := fun (v : Word64) => s.completes (.mapf d a) g (g.spc + 4) (g.withReg d v)
     ((∃ x l e n, r = .leaf x l e n) → answers 3) ∧
     (r = .malformed → answers 1) ∧
     (∀ x l e, r = .unmapped x l e →
       (l ≠ 4 ∨ pteKind e ≠ 0 ∨ ptePool e = false → answers 1) ∧
       (l = 4 → pteKind e = 0 → ptePool e = true → (s.part p).pool = [] → answers 2) ∧
       (l = 4 → pteKind e = 0 → ptePool e = true → ∀ page rest, (s.part p).pool = page :: rest →
         s.passes (.mapf d a) g (g.withReg d 0) fun t _ =>
           (t.part p).pool = rest ∧ t.store = s.store ∧ t.acc = s.acc ∧
             ∀ y, t.mem.get y = if x ≤ y ∧ y < x + 8 then ((bytesOf 8 (page + 2 ^ 58 + 7))[y - x]?).getD 0
               else if page ≤ y ∧ y < page + 65536 then 0
               else if y / 128 = x / 128 ∧ s.foreign (s.asidOf g) (x / 128) = true then t.mem.get y else s.mem.get y))) ∧
  (∀ (s : State) (g : Gang) (x : Ctx), s.issuing g → g.priv = true → Tbl.at? s.ctxs (s.asidOf g) = some x → ∀ d : SReg,
     let free := fun n => ∀ y, Tbl.at? x.slots n = some y → y.st = .free
     ((∃ n < 1024, free n) →
       ∃ n < 1024, free n ∧ s.passes (.fltpark d) g (g.withReg d (BitVec.ofNat 64 n)) fun t h =>
         h.run = .parked n ∧ h.held = n :: g.held ∧ s.sameBytes t ∧
           ∃ y, Tbl.at? (t.ctxOf g).slots n = some y ∧ y.st = .waiting ∧ y.owner = .gang s.cur ∧ y.rcd.take 2 = bytesOf 2 n ∧
             (y.rcd.drop 4).take 1 = bytesOf 1 (g.trap.cause.toNat % 16) ∧ (y.rcd.drop 8).take 8 = bytesOf 8 g.trap.taddr.toNat) ∧
     ((∀ n < 1024, ¬ free n) → s.completes (.fltpark d) g (g.spc + 4) (g.withReg d (BitVec.allOnes 64))))

/-- R241, R297: TLBINV drops, from every TLB of its partition, the translations of one address, of its context, or of all. R242: POOLQ reads the pages
of its partition's pool, in all and left. R174: CFLUSH leaves no dirty line of its range in a slice from cohort scope outward, and CINV leaves besides
no copy of a line of the range in its core's L1, nor from cohort scope outward in its region's near slice; neither changes what memory holds. A length
of 0 does nothing, a reserved scope is ILLEGAL, and a range out of bounds is SBOUND. -/
def Obligations.CacheAndTranslationWords : Prop :=
  (∀ (s : State) (g : Gang), s.issuing g → g.priv = true → ∀ (a : SReg) (k : BitVec 2),
     let p := (s.ctxOf g).part
     let drops := fun (e : TlbEntry) =>
       (k = 0 ∧ e.asid = s.asidOf g ∧ e.vbase = (g.sreg a).toNat / 2 ^ e.bits) ∨ (k = 1 ∧ e.asid = s.asidOf g) ∨ k = 2
     (k ≠ 3 → g.wcs = [] → s.passes (.tlbinv a k) g g.sreg fun t _ => s.sameBytes t ∧ s.sameCtxs t ∧
       (∀ c, c ∈ s.coresOf p → ∀ e, e ∈ t.tlbEntries (.core c) ↔ e ∈ s.tlbEntries (.core c) ∧ ¬ drops e) ∧
       (∀ r, r ∈ s.regionsOf p → ∀ e, e ∈ t.tlbEntries (.region r) ↔ e ∈ s.tlbEntries (.region r) ∧ ¬ drops e) ∧
       (∀ c, c ∉ s.coresOf p → t.tlbEntries (.core c) = s.tlbEntries (.core c))) ∧
     (k = 3 → s.kills (.tlbinv a k) g)) ∧
  (∀ (s : State) (g : Gang), s.issuing g → g.priv = true → ∀ d : SReg,
     let p := s.part (s.ctxOf g).part
     p.poolTotal < 2 ^ 32 → p.pool.length < 2 ^ 32 →
       s.completes (.poolq d) g (g.spc + 4) (g.withReg d (BitVec.ofNat 64 (p.poolTotal * 2 ^ 32 + p.pool.length)))) ∧
  (∀ (s : State) (g : Gang), s.issuing g → g.priv = true → ∀ (a b : SReg) (sc : BitVec 3),
     let x := g.seg 0
     let o := (g.sreg a).toNat
     let n := (g.sreg b).toNat
     let inside := s.lineIn (s.asidOf g) [(x.baseN + o, n)]
     let clean := fun (t : State) => sc.toNat ≥ 2 → ∀ line, inside line = true → s.heldAt (128 * line) = none →
       t.homeDirty line = false ∧ t.victimDirty line = false
     (sc.toNat < 6 → n = 0 → s.completes (.cflush a b sc) g (g.spc + 4) g.sreg ∧ s.completes (.cinv a b sc) g (g.spc + 4) g.sreg) ∧
     (sc.toNat < 6 → n ≠ 0 → o + n ≤ x.limit →
       s.does (.cflush a b sc) g (g.spc + 4) g.sreg (fun t => s.sameBytes t ∧ s.sameCtxs t ∧ t.l1 = s.l1 ∧ t.near = s.near ∧ clean t) ∧
       s.does (.cinv a b sc) g (g.spc + 4) g.sreg fun t => s.sameBytes t ∧ s.sameCtxs t ∧ clean t ∧
         (∀ line, inside line = true → t.l1Copy (s.coreOf g) line = none) ∧
         (∀ line, inside line = false → t.l1Copy (s.coreOf g) line = s.l1Copy (s.coreOf g) line) ∧
         (2 ≤ sc.toNat → ∀ line, inside line = true → ∀ k, t.nearCopy (s.regOf g) k line = none)) ∧
     (sc.toNat < 6 → n ≠ 0 → x.limit < o + n → s.kills (.cflush a b sc) g ∧ s.kills (.cinv a b sc) g) ∧
     (6 ≤ sc.toNat → s.kills (.cflush a b sc) g ∧ s.kills (.cinv a b sc) g))

/-! ### Tags, barriers, keys and events -/

/-- R176, R213: the words on completion tags. A tag at or above the grant is ILLEGAL. TAGX reads a tag; WAITALL completes once every tag of its mask
has a COUNT of 0; WAITANY and TAGFF give the lowest DONE tag of their mask (64 for an empty mask, and TAGFF for none), WAITANY waiting for one; TAGCLR
clears DONE and ERR of the tags of its mask. -/
def Obligations.TagWords : Prop :=
  ∀ (s : State) (g : Gang), s.issuing g → ∀ (d a : SReg) (n : BitVec 6),
    let m := (g.sreg a).toNat
    let tag := fun n => (s.team g.team).tag n
    let has := fun n => n < 64 ∧ (g.sreg a).getLsbD n = true
    let lowest := fun n => has n ∧ (tag n).done = true ∧ ∀ k < n, has k → (tag k).done = false
    let ofN := fun (v : Nat) => (BitVec.ofNat 64 v : Word64)
    (s.tagsOf g.team ≤ n.toNat → s.raises (.tagx d n) g 1 0) ∧
    (n.toNat < s.tagsOf g.team → s.completes (.tagx d n) g (g.spc + 4)
      (g.withReg d (ofN ((if (tag n.toNat).done then 2 ^ 63 else 0) + (if (tag n.toNat).err then 2 ^ 62 else 0) + (tag n.toNat).count)))) ∧
    (2 ^ s.tagsOf g.team ≤ m →
      s.raises (.waitall a) g 1 0 ∧ s.raises (.waitany d a) g 1 0 ∧ s.raises (.tagff d a) g 1 0 ∧ s.raises (.tagclr a) g 1 0) ∧
    (m < 2 ^ s.tagsOf g.team →
      ((∀ k, has k → (tag k).count = 0) → s.does (.waitall a) g (g.spc + 4) g.sreg fun t => s.onlyCached t s.cur) ∧
      ((∃ k, has k ∧ (tag k).count ≠ 0) → s.waits (.waitall a) g fun t => s.onlyGang t s.cur) ∧
      (m = 0 → s.completes (.waitany d a) g (g.spc + 4) (g.withReg d 64)) ∧
      (∀ k, lowest k → s.does (.waitany d a) g (g.spc + 4) (g.withReg d (ofN k)) fun t => s.onlyCached t s.cur) ∧
      (m ≠ 0 → (∀ k, has k → (tag k).done = false) → s.waits (.waitany d a) g fun t => s.onlyGang t s.cur) ∧
      (∀ k, lowest k → s.completes (.tagff d a) g (g.spc + 4) (g.withReg d (ofN k))) ∧
      ((∀ k, has k → (tag k).done = false) → s.completes (.tagff d a) g (g.spc + 4) (g.withReg d 64)) ∧
      s.does (.tagclr a) g (g.spc + 4) g.sreg fun t =>
        s.onlyTeam t s.cur g.team (fun x => { x with tags := (t.team g.team).tags }) ∧
        (∀ k, has k → (t.team g.team).tag k = { tag k with done := false, err := false }) ∧
        ∀ k, ¬ has k → (t.team g.team).tag k = tag k)

/-- R211, R78: an arrival waits while the gang's earlier one is of an open phase, counts once, and completes the phase when it is the last; BARW waits
for the phase, and BAR does both. An arrival waits besides for the writes that other devices have not acknowledged, where a binding of the barrier has
domain scope or wider (R253; that it waits for every write of the context, and that the own scope of an xb barrier is device, are the model's choices,
notes/assumptions/96.md and 117.md), and at an xb barrier for the gang's contributions (R257). A name that is no barrier of the gang is ILLEGAL. -/
def Obligations.BarrierWords : Prop :=
  ∀ (s : State) (g : Gang), s.issuing g → ∀ (l : BitVec 3) (x : BitVec 4),
    let b := l.toNat * 16 + x.toNat
    let r := s.recOf g
    let named := (l = 1 ∧ x.toNat < r.ntb) ∨ (l = 2 ∧ x.toNat < 8 ∧ x.toNat < r.ncb) ∨ (l = 3 ∧ x.toNat < 4 ∧ x.toNat < r.nkb) ∨
      (l = 4 ∧ x.toNat < 4 ∧ x.toNat < r.nxb ∧ r.cor = true)
    let y := s.barrier g.team b
    let waiting := Tbl.at? g.armed b = some y.phase
    let last := y.exp ≤ y.arr + 1
    let arrived : Barrier := if last then { y with arr := 0, phase := y.phase + 1 } else { y with arr := y.arr + 1 }
    let counts := fun (t : State) => s.sameBytes t ∧ t.barrier g.team b = arrived ∧
      (∀ c < 80, 16 ≤ c → c ≠ b → t.barrier g.team c = s.barrier g.team c) ∧ ∀ v, v ≠ s.cur → Tbl.at? t.gangs v = Tbl.at? s.gangs v
    let wide := 4 ≤ s.widest (s.asidOf g) (if l = 1 then 0 else if l = 2 then 1 else if l = 3 then 2 else 3) (s.isBar s.cur b)
    let unpaid := (wide ∧ s.ctxWritesOut (s.asidOf g) = true) ∨ (l = 4 ∧ s.contributesOut s.cur = true)
    (¬ named → s.raises (.bara l x) g 1 0 ∧ s.raises (.barw l x) g 1 0 ∧ s.raises (.bar l x) g 1 0) ∧
    (named → waiting → s.waits (.bara l x) g (fun t => s.onlyGang t s.cur) ∧ s.waits (.barw l x) g (fun t => s.onlyGang t s.cur) ∧
      s.waits (.bar l x) g fun t => s.onlyGang t s.cur) ∧
    (named → ¬ waiting → s.passes (.barw l x) g g.sreg fun t h => s.onlyCached t s.cur ∧ Tbl.at? h.armed b = none) ∧
    (named → ¬ waiting → g.bar = some b →
      s.passes (.bar l x) g g.sreg fun t h => s.onlyCached t s.cur ∧ Tbl.at? h.armed b = none ∧ h.bar = none) ∧
    (named → ¬ waiting → g.wcs = [] → unpaid →
      s.waits (.bara l x) g (fun t => s.onlyGang t s.cur) ∧ (g.bar ≠ some b → s.waits (.bar l x) g fun t => s.onlyGang t s.cur)) ∧
    (named → ¬ waiting → g.wcs = [] → ¬ unpaid → (Tbl.at? s.teams g.team).isSome → (Tbl.at? s.clusters (s.team g.team).cluster).isSome →
        (Tbl.at? s.grids (s.team g.team).grid).isSome →
      s.passes (.bara l x) g g.sreg (fun t h => counts t ∧ Tbl.at? h.armed b = some y.phase) ∧
      (g.bar ≠ some b → last → s.passes (.bar l x) g g.sreg fun t h => counts t ∧ Tbl.at? h.armed b = none ∧ h.bar = none) ∧
      (g.bar ≠ some b → ¬ last → ∃ t h, exec (.bar l x) s = .next t ∧ Tbl.at? t.gangs s.cur = some h ∧
        h = { g with wait := .bar b, bar := some b, armed := h.armed } ∧ Tbl.at? h.armed b = some y.phase ∧ counts t))

/-- R169, R244, R249, R270: FENCE releases and acquires at its scope: the stream's buffers are empty, no copy is left in its core's L1 from cluster
scope outward, nor in its region's near slice from cohort scope outward; it waits while a row slot that the gang pinned is opening, and from domain
scope outward for the context's writes that other devices have not acknowledged (R252; for every write of the context: the model's choice,
notes/assumptions/96.md). R171, R386: ACQ reads its key word at the point of its line, past every copy, and REL writes it there after a release, which
waits from domain scope outward for the context's writes that other devices have not acknowledged (R252, R253; for every write of the context: the
model's choice, notes/assumptions/96.md). That ALIGN is judged on BASE plus offset is the model's choice too (notes/assumptions/122.md). A key word in
another device's memory is asked for there, and sent there. That TADDR names BASE plus the offset is the model's choice (notes/assumptions/24.md). -/
def Obligations.FencesAndKeys : Prop :=
  (∀ (s : State) (g : Gang), s.issuing g → ∀ sc : BitVec 3,
     let acquired := fun (t : State) => (1 ≤ sc.toNat → ∀ line, t.l1Copy (s.coreOf g) line = none) ∧
       (2 ≤ sc.toNat → ∀ line k, t.nearCopy (s.regOf g) k line = none)
     let opening := ∃ n < 8, ((s.team g.team).row n).st = .opening ∧ ((s.team g.team).row n).pinner = s.cur
     (sc.toNat < 4 → ¬ opening → s.passes (.fence sc) g g.sreg fun t h => h.wcs = [] ∧ acquired t) ∧
     (sc.toNat < 6 → ¬ opening → g.wcs = [] → s.ctxWritesOut (s.asidOf g) = false →
       s.does (.fence sc) g (g.spc + 4) g.sreg fun t => s.onlyCached t s.cur ∧ acquired t) ∧
     (sc.toNat < 6 → opening → g.wcs = [] → s.waits (.fence sc) g fun t => s.onlyGang t s.cur) ∧
     (4 ≤ sc.toNat → sc.toNat < 6 → g.wcs = [] → s.ctxWritesOut (s.asidOf g) = true → s.waits (.fence sc) g fun t => s.onlyGang t s.cur) ∧
     (6 ≤ sc.toNat → s.raises (.fence sc) g 1 0)) ∧
  (∀ (s : State) (g : Gang), s.issuing g → ∀ (d a b : SReg) (sc : BitVec 3),
     let x := g.seg 0
     let o := (g.sreg a).toNat
     let va := x.baseN + o
     let xl := fun (k : Acc) => (s.translateFor (.scalar s.cur) (.core (s.coreOf g)) (s.asidOf g) va k).2
     (6 ≤ sc.toNat → s.raises (.acq d a sc) g 1 0 ∧ s.raises (.rel a b sc) g 1 0) ∧
     (sc.toNat < 6 → x.limit < o + 8 → s.raises (.acq d a sc) g 4 va ∧ s.raises (.rel a b sc) g 4 va) ∧
     (sc.toNat < 6 → x.ros = true → s.raises (.rel a b sc) g 4 va) ∧
     (sc.toNat < 6 → o + 8 ≤ x.limit → va % 8 ≠ 0 →
       s.raises (.acq d a sc) g 5 va ∧ (x.ros = false → s.raises (.rel a b sc) g 5 va)) ∧
     (sc.toNat < 6 → o + 8 ≤ x.limit → va % 8 = 0 →
       (∀ k, xl .load = .bad k → s.raises (.acq d a sc) g (if k = 2 then 3 else 2) va) ∧
       (∀ k, x.ros = false → xl .store = .bad k → s.raises (.rel a b sc) g (if k = 2 then 3 else 2) va) ∧
       (∀ pa e k, xl .load = .ok pa e k → isPeer pa = false →
         let got := wcLoad g.wcs pa (Mem.read (s.memOf (s.asidOf g)) pa 8) (poisoned s.memBad pa 8)
         (got.2 = false → s.does (.acq d a sc) g (g.spc + 4) (g.withReg d (BitVec.ofNat 64 (natOf got.1))) fun t => s.onlyCached t s.cur) ∧
         (got.2 = true → g.priv = false → (s.ctxOf g).tvec ≠ 0 →
           ∃ t h y, exec (.acq d a sc) s = .next t ∧ Tbl.at? t.gangs s.cur = some h ∧ g.inHandler h (s.ctxOf g).tvec y ∧ s.sameBytes t ∧
             y.cause = 6 ∧ y.tspc = g.spc ∧ y.taddr = BitVec.ofNat 64 va)) ∧
       (∀ pa e k, xl .load = .ok pa e k → isPeer pa = true → s.findReq (.scalar s.cur) pa 8 = none →
         s.waits (.acq d a sc) g fun t => s.sameBytes t ∧ s.asked t g 0 [(.scalar s.cur, pa, 8)] masked) ∧
       (∀ pa e k, x.ros = false → xl .store = .ok pa e k → isPeer pa = true → g.wcs = [] →
         s.widest (s.asidOf g) sc.toNat (isKey va) < 4 ∨ s.ctxWritesOut (s.asidOf g) = false →
           s.does (.rel a b sc) g (g.spc + 4) g.sreg fun t => s.sameBytes t ∧ s.asked t g 1 [(.scalar s.cur, pa, 8)] fun e y =>
             masked e y ∧ y.value = g.sreg b) ∧
       ∀ pa e k, x.ros = false → xl .store = .ok pa e k → isPeer pa = false → g.wcs = [] →
         let paid := s.widest (s.asidOf g) sc.toNat (isKey va) < 4 ∨ s.ctxWritesOut (s.asidOf g) = false
         (paid → pa % 8 = 0 → s.does (.rel a b sc) g (g.spc + 4) g.sreg fun t =>
           s.onlyMemory t s.cur ∧ s.storedFor t (s.asidOf g) pa (bytesOf 8 (g.sreg b).toNat) ∧ t.memBad = clearPoison s.memBad pa 8) ∧
         (¬ paid → s.waits (.rel a b sc) g fun t => s.sameBytes t)))

/-- R172, R173, R78: BIND adds a binding of a range to the object its descriptor names (a gang barrier may be one: the model's choice,
notes/assumptions/28.md); a descriptor of nothing, with a must-be-zero bit set or of a tag or barrier beyond the grant is ILLEGAL, an empty range, one
out of bounds or overlapping a live one, or the 513th SBOUND, and one whose offset or length is misaligned ALIGN (that the offset is judged is the
model's choice, notes/assumptions/27.md); UNBIND ends the binding at its base, which still covers what was written under it (R253;
notes/assumptions/97.md), and else does nothing. That TADDR names BASE plus the offset is the model's choice (notes/assumptions/24.md). R215: EVSET
drains the stream's buffers and sets its event, and EVWAIT waits until its event is set and then acquires at device scope. -/
def Obligations.BindingsAndEvents : Prop :=
  (∀ (s : State) (g : Gang), s.issuing g → ∀ (c a b : SReg) (sc : BitVec 3),
     let x := g.seg 0
     let o := (g.sreg a).toNat
     let n := (g.sreg b).toNat
     let va := x.baseN + o
     let r := s.recOf g
     let live := (s.ctxOf g).binds
     let desc := (g.sreg c).toNat
     let names := fun (kind owner name : Nat) =>
       (kind = 0 ∧ ∃ l i, desc = 1024 * l + i ∧ name = 16 * l + i ∧ owner = s.barOwner g s.cur name ∧
         ((l = 0 ∧ i < 4) ∨ (l = 1 ∧ i < 16 ∧ i < r.ntb) ∨ (l = 2 ∧ i < 8 ∧ i < r.ncb) ∨ (l = 3 ∧ i < 4 ∧ i < r.nkb) ∨
           (l = 4 ∧ i < 4 ∧ i < r.nxb ∧ r.cor = true))) ∨
       (kind = 1 ∧ ∃ i, i < 64 ∧ desc = 2 ^ 60 + i ∧ i < s.tagsOf g.team ∧ name = i ∧ owner = g.team) ∨
       (kind = 2 ∧ ∃ i, i < 8 ∧ desc = 2 * 2 ^ 60 + i ∧ name = i ∧ owner = s.asidOf g) ∨
       (kind = 3 ∧ name < 2 ^ 57 ∧ desc = 3 * 2 ^ 60 + name ∧ owner = 0)
     let nothing :=
       let v := desc % 2 ^ 60
       let l := v / 1024
       let i := v % 16
       (desc / 2 ^ 60 = 0 ∧ (2 ^ 13 ≤ v ∨ v / 16 % 64 ≠ 0 ∨ 5 ≤ l ∨ (l = 0 ∧ 4 ≤ i) ∨ (l = 1 ∧ r.ntb ≤ i) ∨ (l = 2 ∧ (8 ≤ i ∨ r.ncb ≤ i)) ∨
         (l = 3 ∧ (4 ≤ i ∨ r.nkb ≤ i)) ∨ (l = 4 ∧ (4 ≤ i ∨ r.nxb ≤ i ∨ r.cor = false)))) ∨
       (desc / 2 ^ 60 = 1 ∧ s.tagsOf g.team ≤ v) ∨ (desc / 2 ^ 60 = 2 ∧ 8 ≤ v) ∨ (desc / 2 ^ 60 = 3 ∧ 2 ^ 57 ≤ v) ∨ 4 ≤ desc / 2 ^ 60
     let clash := ∃ y ∈ live, y.len ≠ 0 ∧ va < y.base + y.len ∧ y.base < va + n
     s.does (.unbind a) g (g.spc + 4) g.sreg
       (fun t => s.onlyCtx t s.cur (s.asidOf g) fun y => { y with
         binds := y.binds.filter fun z => z.base ≠ va
         unbound := y.unbound ++ y.binds.filter fun z => z.base = va && !y.unbound.contains z }) ∧
     (6 ≤ sc.toNat → s.raises (.bind c a b sc) g 1 0) ∧
     (nothing → s.raises (.bind c a b sc) g 1 0) ∧
     (sc.toNat < 6 → ∀ kind owner name, names kind owner name →
       (n = 0 ∨ x.limit < o + n ∨ clash ∨ 512 ≤ live.length → s.raises (.bind c a b sc) g 4 va) ∧
       (n ≠ 0 → o + n ≤ x.limit → ¬ clash → live.length < 512 →
         (o % 128 ≠ 0 ∨ n % 128 ≠ 0 ∨ (kind = 3 ∧ name % 8 ≠ 0) → s.raises (.bind c a b sc) g 5 va) ∧
         (o % 128 = 0 → n % 128 = 0 → (kind = 3 → name % 8 = 0) →
           s.does (.bind c a b sc) g (g.spc + 4) g.sreg fun t => s.onlyCtx t s.cur (s.asidOf g) fun y =>
             { y with binds := y.binds ++ [{ base := va, len := n, scope := sc.toNat, kind := kind, owner := owner, name := name }] })))) ∧
  (∀ (s : State) (g : Gang) (x : Ctx), s.issuing g → Tbl.at? s.ctxs (s.asidOf g) = some x → ∀ e : BitVec 8,
     s.passes (.evset e) g g.sreg (fun t h => h.wcs = [] ∧ (t.ctxOf g).events = x.events ||| BitVec.twoPow 256 e.toNat) ∧
     (g.wcs = [] → s.does (.evset e) g (g.spc + 4) g.sreg fun t =>
       s.onlyCtx t s.cur (s.asidOf g) fun y => { y with events := y.events ||| BitVec.twoPow 256 e.toNat }) ∧
     (x.events.getLsbD e.toNat = true → s.does (.evwait e) g (g.spc + 4) g.sreg fun t =>
       s.onlyCached t s.cur ∧ (∀ line, t.l1Copy (s.coreOf g) line = none) ∧ ∀ line k, t.nearCopy (s.regOf g) k line = none) ∧
     (x.events.getLsbD e.toNat = false → s.waits (.evwait e) g fun t => s.onlyGang t s.cur))

/-- R216, R92, R93: LAUNCH answers 1 for a queue that is not enabled and device-fed, has failed, or is full; else it captures the record and answers
its status, or 1 when the slot does not take it; a good record joins the queue's tail and becomes a grid with the context's next identifier. That
TADDR names BASE plus the offset is the model's choice (notes/assumptions/24.md). -/
def Obligations.Launches : Prop :=
  ∀ (s : State) (g : Gang) (x : Ctx), s.issuing g → g.wcs = [] → Tbl.at? s.ctxs (s.asidOf g) = some x → ∀ (d a : SReg) (n : BitVec 3),
    let y := Tbl.atD x.queues n.toNat Queue.blank
    let o := (g.sreg a).toNat
    let va := (g.seg 0).baseN + o
    let usable := y.prod = true ∧ y.en = true ∧ y.ferr = false ∧ (y.tail - y.head).toNat < 2 ^ y.log2s
    (¬ usable → s.completes (.launch d a n) g (g.spc + 4) (g.withReg d 1)) ∧
    (usable → (g.seg 0).limit < o + 192 → s.raises (.launch d a n) g 4 va) ∧
    (usable → o + 192 ≤ (g.seg 0).limit → ∀ r bs,
      (s.drainScalar s.cur).readRange (.scalar s.cur) g.team (s.asidOf g) (s.regOf g) (.core (s.coreOf g)) va 192
        (fun s pa n seen => s.coreRead (s.coreOf g) (s.asidOf g) pa n seen) = .bytes r bs none →
      (∀ st, s.recordGives x.part va bs st → st ≠ 0 → ∃ t h, exec (.launch d a n) s = .next t ∧ Tbl.at? t.gangs s.cur = some h ∧ h.spc = g.spc + 4 ∧
        (∀ q, h.sreg q = g.withReg d (BitVec.ofNat 64 st) q) ∧ t.grids = s.grids) ∧
      (s.recordGives x.part va bs 0 → (r.appendRecord (s.asidOf g) n.toNat bs).2 = false →
        ∃ t h, exec (.launch d a n) s = .next t ∧ Tbl.at? t.gangs s.cur = some h ∧ h.spc = g.spc + 4 ∧
          (∀ q, h.sreg q = g.withReg d 1 q) ∧ t.grids = s.grids) ∧
      (s.recordGives x.part va bs 0 → (r.appendRecord (s.asidOf g) n.toNat bs).2 = true →
        ∃ t h m gr, exec (.launch d a n) s = .next t ∧ Tbl.at? t.gangs s.cur = some h ∧ h.spc = g.spc + 4 ∧
          (∀ q, h.sreg q = g.withReg d 0 q) ∧ Tbl.at? t.grids m = some gr ∧ gr.rcd = LaunchRec.of bs ∧ gr.asid = s.asidOf g ∧
          gr.gid = x.nextGid.toNat ∧ gr.queue = n.toNat ∧ gr.qslot = y.tail.toNat ∧ gr.placed = 0 ∧
          (Tbl.atD (t.ctxOf g).queues n.toNat Queue.blank).tail = y.tail + 1))

/-! ### Engine words -/

/-- R177 to R180, R31, R220: a copy command whose checks pass joins its team's commands and its bytes join the COUNT of its tag; one of no bytes
passes the checks and does nothing, and one beyond a limit waits. The checks raise ILLEGAL, SBOUND and ALIGN in that order. That TADDR names BASE plus
the offset is the model's choice (notes/assumptions/24.md). -/
def Obligations.CopyCommands : Prop :=
  ∀ (s : State) (g : Gang) (y : Team), s.issuing g → Tbl.at? s.teams g.team = some y → ∀ (n : BitVec 6) (a b : SReg) (x z : BitVec 3) (op : BitVec 4),
    let dst := (g.sreg a).toNat
    let src := (g.sreg (a + 1)).toNat
    let c := (g.sreg b).toNat
    let cores := (s.coresOf (s.ctxOf g).part).length
    let va := fun (k o : Nat) => if k = 0 ∨ k = 3 then (g.seg k).baseN + o else o
    let command := fun (q d k : Nat) (o : Option (BitVec 4)) => ({
      op := o, seq := q, gang := s.cur, gidx := g.idx, tag := n.toNat, dseg := d, sseg := k, dst := va d dst, src := va k src,
      count := c, prog := 0, engine := none, fault := none, landing := none } : Copy)
    let behaves := fun (i : Instr) (legal : Prop) (d k e : Nat) (o : Option (BitVec 4)) =>
      let granted := n.toNat < s.tagsOf g.team
      let fine := c ≤ 2 ^ 40 ∧ g.fits (s.regsOf g) d dst c = true ∧ (g.seg d).ros = false ∧
        (∀ l ∈ s.frozenAt g d, overlap dst c l 128 = false) ∧ (d = 5 → readOnlyRange cores dst c = false)
      let fits := g.fits (s.regsOf g) k src c = true
      let aligned := dst % e = 0 ∧ c % e = 0 ∧ src % e = 0
      (¬ (legal ∧ granted) → s.raises i g 1 0) ∧
      (legal → granted → c = 0 → s.completes i g (g.spc + 4) g.sreg) ∧
      (legal → granted → c ≠ 0 → ¬ fine → s.raises i g 4 ((g.seg d).baseN + dst)) ∧
      (legal → granted → c ≠ 0 → fine → ¬ fits → s.raises i g 4 ((g.seg k).baseN + src)) ∧
      (legal → granted → c ≠ 0 → fine → fits → (dst % e ≠ 0 ∨ c % e ≠ 0) → s.raises i g 5 ((g.seg d).baseN + dst)) ∧
      (legal → granted → c ≠ 0 → fine → fits → dst % e = 0 → c % e = 0 → src % e ≠ 0 → s.raises i g 5 ((g.seg k).baseN + src)) ∧
      (legal → granted → fine → fits → aligned → c ≠ 0 →
        (32 ≤ y.copies.length ∨ 2 ^ 48 ≤ (y.tag n.toNat).count + c → s.waits i g fun t => s.onlyGang t s.cur) ∧
        (y.copies.length < 32 → (y.tag n.toNat).count + c < 2 ^ 48 →
          s.does i g (g.spc + 4) g.sreg fun t => s.onlyTeam t s.cur g.team fun y =>
            { y with
              tags := Tbl.put y.tags n.toNat { y.tag n.toNat with count := (y.tag n.toNat).count + c, done := false }
              nextCopy := y.nextCopy + 1
              copies := y.copies ++ [command y.nextCopy d k o] }))
    behaves (.bcopy n a b x z)
      (a.toNat % 2 = 0 ∧ (x = 0 ∨ x = 1 ∨ x = 2 ∨ x = 5) ∧ (z = 0 ∨ z = 1 ∨ z = 2 ∨ z = 3 ∨ z = 5)) x.toNat z.toNat 1 none ∧
    behaves (.bred n a b x op) (a.toNat % 2 = 0 ∧ (x = 0 ∨ x = 1 ∨ x = 2) ∧ op.toNat < 10) x.toNat 1
      (if op = 1 then 2 else if op = 3 ∨ op = 8 ∨ op = 9 then 8 else 4) (some op)

/-- R189, R190, R94, R175: TTQ captures the record in scratchpad; poisoned bytes raise POISON, and one that breaks a rule it alone decides TASKFMT, in
this order by the model's choice (notes/assumptions/44.md), and it is not queued; else it takes the team's next enqueue number, the installed code
table and the stream's rounding mode, and its bytes join the COUNT of SIG, after its wait tags are tested (the model's choice,
notes/assumptions/85.md). It waits at a limit. That TADDR names BASE plus the offset is the model's choice (notes/assumptions/24.md). -/
def Obligations.TaskEnqueue : Prop :=
  ∀ (s : State) (g : Gang) (y : Team), s.issuing g → Tbl.at? s.teams g.team = some y → ∀ (a : SReg) (imm : BitVec 13),
    let i := Instr.ttq a imm
    let o := (g.sreg a + imm.signExtend 64).toNat
    let at_ := s.scratchAddr g.team o
    let bs := s.store.read at_ 64
    let r := s.recOf g
    let x := TaskRec.of bs
    let region := ((s.teamsIn (s.regOf g)).map fun k => (s.team k).tasks.length).sum
    let beyond := 64 ≤ y.tasks.length ∨ 512 ≤ region ∨ ∃ n, tagField x.sig = some n ∧ 2 ^ 48 ≤ (y.tag n).count + x.bytes
    let free := fun (w : Nat) => ∀ n, tagField w = some n → (y.tag n).count = 0
    let va := (g.seg 1).baseN + o
    ((g.seg 1).limit < o + 64 → s.raises i g 4 va) ∧
    (o + 64 ≤ (g.seg 1).limit → o % 64 ≠ 0 → s.raises i g 5 va) ∧
    (o + 64 ≤ (g.seg 1).limit → o % 64 = 0 →
      (poisoned s.storeBad at_ 64 = true → s.raises i g 6 va) ∧
      (poisoned s.storeBad at_ 64 = false →
        (¬ taskLegal bs r.tiles r.tags r.scratch → s.raises i g 9 va) ∧
        (taskLegal bs r.tiles r.tags r.scratch → beyond → s.waits i g fun t => s.onlyGang t s.cur) ∧
        (taskLegal bs r.tiles r.tags r.scratch → ¬ beyond →
          ∃ k : Task, k.enq = y.nextEnq ∧ k.gang = s.cur ∧ k.soff = o ∧ k.ctv = y.ctCur.version ∧ k.rmd = g.mode.rmd ∧ k.prog = 0 ∧
            k.engine = none ∧ k.rcd = bs.set 7 (BitVec.ofNat 8 y.ctCur.version) ∧ (k.wait0 = true ↔ free x.wait0) ∧ (k.wait1 = true ↔ free x.wait1) ∧
            s.does i g (g.spc + 4) g.sreg fun t => s.onlyTeam t s.cur g.team fun y =>
              { y with
                tags := match tagField x.sig with
                  | some n => Tbl.put y.tags n { y.tag n with count := (y.tag n).count + x.bytes, done := false }
                  | none => y.tags
                tasks := y.tasks ++ [k]
                nextEnq := y.nextEnq + 1 })))

/-- R44, R60, R198, R199: CTSET captures an image of 64 bytes and installs it as the team's next code-table version, once no task uses the version it
replaces; an image whose reserved bytes are not 0 raises TASKFMT, after POISON by the model's choice (notes/assumptions/44.md). An entry is reserved
when the mask marks it or it is not usable: a finite number that is a multiple of 2⁻⁹ and of at most 262,143 of them. That TADDR names BASE plus the
offset is the model's choice (notes/assumptions/24.md). -/
def Obligations.CodeTableSet : Prop :=
  ∀ (s : State) (g : Gang) (y : Team), s.issuing g → Tbl.at? s.teams g.team = some y → ∀ (a : SReg) (imm : BitVec 13),
    let i := Instr.ctset a imm
    let o := (g.sreg a + imm.signExtend 64).toNat
    let at_ := s.scratchAddr g.team o
    let bs := s.store.read at_ 64
    let va := (g.seg 1).baseN + o
    let used := ∃ k ∈ y.tasks, k.ctv = y.ctOld.version
    ((g.seg 1).limit < o + 64 → s.raises i g 4 va) ∧
    (o + 64 ≤ (g.seg 1).limit → o % 64 ≠ 0 → s.raises i g 5 va) ∧
    (o + 64 ≤ (g.seg 1).limit → o % 64 = 0 →
      (poisoned s.storeBad at_ 64 = true → s.raises i g 6 va) ∧
      (poisoned s.storeBad at_ 64 = false →
        ((∃ b ∈ bs.drop 34, b ≠ 0) → s.raises i g 9 va) ∧
        ((∀ b ∈ bs.drop 34, b = 0) → used → s.waits i g fun t => s.onlyGang t s.cur) ∧
        ((∀ b ∈ bs.drop 34, b = 0) → ¬ used →
          ∃ ct : CodeTable, ct.version = (y.ctCur.version + 1) % 256 ∧ ct.entries.length = 16 ∧
            (∀ k < 16, ct.entries[k]? = some (BitVec.ofNat 16 (natOf ((bs.drop (2 * k)).take 2)))) ∧
            (∀ k < 16,
              let x := natOf ((bs.drop (2 * k)).take 2)
              let e := x / 1024 % 32
              let m := if e = 0 then 2 * (x % 1024) else (1024 + x % 1024) * 2 ^ e
              let usable := e ≠ 31 ∧ m % 2 ^ 16 = 0 ∧ m / 2 ^ 16 ≤ 262143
              ct.reserved.getLsbD k = true ↔ (natOf ((bs.drop 32).take 2)).testBit k = true ∨ ¬ usable) ∧
            s.does i g (g.spc + 4) g.sreg fun t => s.onlyTeam t s.cur g.team fun y => { y with ctOld := y.ctCur, ctCur := ct })))

/-- R185, R299: SHADOW gives a range of 64 KiB pages a zeroed twin at the lowest run of the shadow window that holds it, answers with its G offset,
and keeps the pair; an equal live range answers with the twin it has; with no pages or no run it answers 0; a length of 0 removes. That ALIGN is
judged on BASE plus offset is the model's choice (notes/assumptions/27.md). A page that does not translate raises XLAT before one that is not owned
raises OWN (R88). What memory holds afterwards is said for one page. R187: PUBLISH of a base that is no live shadow's raises SBOUND; it waits while a
copy of its gang into the pair is in progress; then it exchanges the pages mapped at the range and at its twin, increments the generation, and leaves
no copy of their lines in a core's L1, a near slice or a home slice of the partition (that a home slice gives them up too is the model's reading,
notes/assumptions/47.md); shown for a pair of one page each. That TADDR names BASE plus the offset is the model's choice (notes/assumptions/24.md). -/
def Obligations.ShadowsAndPublishing : Prop :=
  (∀ (s : State) (g : Gang) (c : Ctx), s.issuing g → Tbl.at? s.ctxs (s.asidOf g) = some c → ∀ d a b : SReg,
     let i := Instr.shadow d a b
     let o := (g.sreg a).toNat
     let n := (g.sreg b).toNat
     let x := g.seg 0
     let va := x.baseN + o
     let pages := (List.range (n / 65536)).map fun j => va + j * 65536
     let equal := fun (y : Shadow) => y.base = va ∧ y.len = n
     let clash := ∃ y ∈ c.shadows, (overlap va n y.base y.len = true ∧ ¬ equal y) ∨ overlap va n y.twin y.len = true
     let most := (∀ y ∈ c.shadows, ¬ equal y) ∧ n ≠ 0 ∧ 256 ≤ c.shadows.length
     let bounds := x.limit < o + n ∨ clash ∨ most
     let maps := fun (p : Nat) (k : Option Nat) => if 2 ^ 57 ≤ p then k = some 7 else
       match s.walkXl (s.walkOf (s.asidOf g) p).2 p .probe with
       | .bad f => k = some f
       | .ok _ _ _ => k = none
     let answers := fun (v : Nat) => s.completes i g (g.spc + 4) (g.withReg d (BitVec.ofNat 64 v))
     let small := ∀ p ∈ pages, ∃ q e m, s.peek (s.asidOf g) p = .leaf q 4 e m
     let run := lowestRun (reserveFrom (s.memOf (s.asidOf g)) walkLevels 1 c.l1 0) pages.length x.baseN x.limit
     (bounds → s.raises i g 4 va) ∧
     (¬ bounds → va % 65536 ≠ 0 ∨ n % 65536 ≠ 0 → s.raises i g 5 va) ∧
     (¬ bounds → va % 65536 = 0 → n % 65536 = 0 →
       (n = 0 → (∀ y ∈ c.shadows, y.base ≠ va) → s.completes i g (g.spc + 4) g.sreg) ∧
       (n = 0 → (∃ y ∈ c.shadows, y.base = va) →
         s.passes i g (g.withReg d 0) fun t _ => (t.ctxOf g).shadows = c.shadows.filter fun y => y.base ≠ va) ∧
       (n ≠ 0 → ∀ p k, p ∈ pages → (∀ q ∈ pages, q < p → maps q none ∨ maps q (some 2)) → maps p (some k) → k ≠ 2 → s.raises i g 2 p) ∧
       (n ≠ 0 → ∀ p, p ∈ pages → (∀ q ∈ pages, maps q none ∨ maps q (some 2)) → (∀ q ∈ pages, q < p → maps q none) → maps p (some 2) →
         s.raises i g 3 p) ∧
       (n ≠ 0 → (∀ p ∈ pages, maps p none) →
         (∀ y, c.shadows.find? (fun y => y.base = va && y.len = n) = some y → answers (y.twin + 2 ^ 64 - x.baseN)) ∧
         ((∀ y ∈ c.shadows, ¬ equal y) →
           (¬ small ∨ run = none ∨ (s.part c.part).pool.length < pages.length → answers 0) ∧
           (small → ∀ twin, run = some twin → pages.length ≤ (s.part c.part).pool.length →
             s.passes i g (g.withReg d (BitVec.ofNat 64 (twin - x.baseN))) fun t _ =>
               (t.ctxOf g).shadows = c.shadows ++ [{ base := va, len := n, twin := twin, gen := 0 }] ∧ t.store = s.store ∧ t.acc = s.acc ∧
               ∀ q e page rest, n = 65536 → s.pte4 (s.asidOf g) twin = some (q, e) → (s.part c.part).pool = page :: rest →
                 (t.part c.part).pool = rest ∧
                 ∀ m, t.mem.get m = if q ≤ m ∧ m < q + 8 then ((bytesOf 8 (page + 7))[m - q]?).getD 0
                   else if page ≤ m ∧ m < page + 65536 then 0
                   else if m / 128 = q / 128 ∧ s.foreign (s.asidOf g) (q / 128) = true then t.mem.get m else s.mem.get m))))) ∧
  (∀ (s : State) (g : Gang) (c : Ctx), s.issuing g → g.wcs = [] → Tbl.at? s.ctxs (s.asidOf g) = some c → ∀ a : SReg,
     let i := Instr.publish a
     let va := (g.seg 0).baseN + (g.sreg a).toNat
     ((∀ y ∈ c.shadows, y.base ≠ va) → s.raises i g 4 va) ∧
     ∀ y, c.shadows.find? (fun y => y.base = va) = some y →
       let mine := ∃ k ∈ (s.team g.team).copies, k.gang = s.cur ∧ k.dseg = 0 ∧
         (overlap k.dst k.count y.base y.len = true ∨ overlap k.dst k.count y.twin y.len = true)
       (mine → s.waits i g fun t => s.onlyGang t s.cur) ∧
       (¬ mine → s.passes i g g.sreg fun t _ =>
         (t.ctxOf g).shadows = (c.shadows.map fun z => if z.base = va then { z with gen := z.gen + 1 } else z) ∧
         t.store = s.store ∧ t.acc = s.acc ∧
         (∀ pa line, y.len = 65536 → s.peekPa (s.asidOf g) y.base = some pa ∨ s.peekPa (s.asidOf g) y.twin = some pa →
           pa / 128 ≤ line → line < pa / 128 + 512 →
             (∀ k ∈ s.coresOf c.part, t.l1Copy k line = none) ∧ (∀ r ∈ s.regionsOf c.part, ∀ k, t.nearCopy r k line = none) ∧
             (homeOf (128 * line) ∈ s.regionsOf c.part → Tbl.at? t.home line = none)) ∧
         ∀ p e q f, y.len = 65536 → s.pte4 (s.asidOf g) y.base = some (p, e) → s.pte4 (s.asidOf g) y.twin = some (q, f) →
           p + 8 ≤ q ∨ q + 8 ≤ p →
           ∀ m, t.mem.get m =
             if p ≤ m ∧ m < p + 8 then ((bytesOf 8 (e - pteAddr e + pteAddr f))[m - p]?).getD 0
             else if q ≤ m ∧ m < q + 8 then ((bytesOf 8 (f - pteAddr f + pteAddr e))[m - q]?).getD 0
             else if (m / 128 = p / 128 ∨ m / 128 = q / 128) ∧ s.foreign (s.asidOf g) (m / 128) = true then t.mem.get m
             else s.mem.get m))

/-- R188, R430: TRCHK never traps on its address and reports what maps it; whenever V is 0, W, MRW and GEN are 0 and PSZ is 3. -/
def Obligations.TranslationProbe : Prop :=
  ∀ (s : State) (g : Gang), s.issuing g → ∀ (d a : SReg) (imm : BitVec 13),
    let o := (g.sreg a + imm.signExtend 64).toNat
    let va := (g.seg 0).baseN + o
    let sh := (s.ctxOf g).shadowOf va
    ∃ w : Word64, s.completes (.trchk d a imm) g (g.spc + 4) (g.withReg d w) ∧
      w.extractLsb' 16 41 = 0 ∧ w.extractLsb' 3 5 = 0 ∧ w.getLsbD 60 = sh.isSome ∧
      (w.getLsbD 63 = false → w.getLsbD 62 = false ∧ w.getLsbD 59 = false ∧ w.extractLsb' 8 8 = 0 ∧ w.extractLsb' 57 2 = 3) ∧
      ((g.seg 0).limit ≤ o ∨ 2 ^ 57 ≤ va → w.getLsbD 63 = false ∧ w.extractLsb' 0 3 = 1) ∧
      (o < (g.seg 0).limit → va < 2 ^ 57 →
        (s.peek (s.asidOf g) va = .malformed → w.getLsbD 63 = false ∧ w.extractLsb' 0 3 = 5) ∧
        (∀ x l e, s.peek (s.asidOf g) va = .unmapped x l e →
          w.getLsbD 63 = false ∧ w.extractLsb' 0 3 = (if pteKind e = 0 ∧ ptePool e = true then 4 else 2)) ∧
        (∀ x l e n, s.peek (s.asidOf g) va = .leaf x l e n →
          (pteHost e = true → w.getLsbD 63 = false ∧ w.extractLsb' 0 3 = 3) ∧
          (pteHost e = false → n = 16 ∨ n = 26 ∨ n = 36 →
            w.getLsbD 63 = true ∧ w.extractLsb' 0 3 = 0 ∧ w.getLsbD 62 = pteW e ∧ w.getLsbD 61 = ptePool e ∧
            w.getLsbD 59 = decide (pteKind e = 1) ∧ w.extractLsb' 57 2 = BitVec.ofNat 2 ((n - 16) / 10) ∧
            w.extractLsb' 8 8 = (match sh with | some y => y.gen | none => 0))))

/-! ### Templates, rows, power and ranges -/

/-- R217, R218, R221, R222: STAMP keeps a count below 2³² and STT a store that passes its checks, where templates may still nest and fewer than 16 are
kept; FREEZE makes a template of a gang with a count, once its lanes and its copies have ended: the gang leaves its barriers, and a count of 0 retires
it at once. Leaving a barrier reduces its EXP by one, and completes its phase when every other member has arrived (R37, R39). That TADDR names BASE
plus the offset is the model's choice (notes/assumptions/24.md). -/
def Obligations.Templates : Prop :=
  ∀ (s : State) (g : Gang), s.issuing g → ∀ (b a : SReg) (imm : BitVec 13),
    let r := s.recOf g
    let x := g.seg 0
    let o := (g.sreg a).toNat
    let va := x.baseN + o
    let quiet := g.queue = [] ∧ g.block = none ∧ (∀ c, Tbl.atD g.wcl c [] = []) ∧ s.requests = []
    let copying := ∃ c ∈ (s.team g.team).copies, c.gang = s.cur
    let member := fun (k : Nat) => (k / 16 = 1 ∧ k % 16 < r.ntb) ∨ (k / 16 = 2 ∧ k % 16 < r.ncb) ∨ (k / 16 = 3 ∧ k % 16 < r.nkb) ∨
      (k / 16 = 4 ∧ k % 16 < r.nxb)
    let left := fun (y : Barrier) =>
      if y.exp - 1 ≤ y.arr then { y with exp := y.exp - 1, arr := 0, phase := y.phase + 1 } else { y with exp := y.exp - 1 }
    let leaves := fun (t : State) => r.ntb ≤ 16 → r.ncb ≤ 8 → r.nkb ≤ 4 → r.nxb ≤ 4 → (Tbl.at? s.teams g.team).isSome →
      (Tbl.at? s.clusters (s.team g.team).cluster).isSome → (Tbl.at? s.grids (s.team g.team).grid).isSome →
      ∀ k, member k → t.barrier g.team k = left (s.barrier g.team k)
    (g.ntpl = r.tdepth ∨ 2 ^ 32 ≤ o → s.raises (.stamp a) g 1 0) ∧
    (g.ntpl ≠ r.tdepth → o < 2 ^ 32 → s.completes (.stamp a) { g with stamp := some o } (g.spc + 4) g.sreg) ∧
    (g.ntpl = r.tdepth ∨ 16 ≤ g.stts.length → s.raises (.stt b a imm) g 1 0) ∧
    (g.ntpl ≠ r.tdepth → g.stts.length < 16 →
      (x.limit < o + 8 ∨ x.ros = true → s.raises (.stt b a imm) g 4 va) ∧
      (o + 8 ≤ x.limit → x.ros = false → va % 8 ≠ 0 → s.raises (.stt b a imm) g 5 va) ∧
      (o + 8 ≤ x.limit → x.ros = false → va % 8 = 0 → s.completes (.stt b a imm)
        { g with stts := g.stts ++ [{ data := g.sreg b, addr := g.sreg a, stride := imm.signExtend 64 * 8 }] } (g.spc + 4) g.sreg)) ∧
    (g.stamp = none ∨ g.ntpl = r.tdepth ∨ r.gangs ≤ (s.templatesOf g.team).length + 1 → s.raises .freeze g 1 0) ∧
    (∀ n, g.stamp = some n → g.ntpl ≠ r.tdepth → (s.templatesOf g.team).length + 1 < r.gangs →
      (g.queue ≠ [] ∨ g.block.isSome → s.waits .freeze g fun t => s.onlyGang t s.cur) ∧
      (quiet → copying → ∃ t h, exec .freeze s = .next t ∧ Tbl.at? t.gangs s.cur = some h ∧ h.spc = g.spc ∧ h.run = g.run ∧ s.sameBytes t) ∧
      (quiet → ¬ copying → g.wcs = [] →
        (n ≠ 0 → s.passes .freeze g g.sreg fun t h =>
          h.run = .template n 0 ∧ h.stts = g.stts ∧ h.armed = [] ∧ s.sameBytes t ∧ leaves t ∧ ∀ v, v ≠ s.cur → Tbl.at? t.gangs v = Tbl.at? s.gangs v) ∧
        (n = 0 → g.tplOf = none → (∀ e ∈ s.gangs, e.2.tplOf ≠ some s.cur) →
          ∃ t, exec .freeze s = .next t ∧ Tbl.at? t.gangs s.cur = none ∧ s.sameBytes t ∧ leaves t)))

/-- R223, R37: EXIT ends the scalar stream with its buffers drained; YIELD takes a pending pre-emption at U, and else only advances. That the handler
breaks off the reads which the gang has on the way is the model's choice (notes/assumptions/113.md). R230: PDONE outside the pre-emption handler is
ILLEGAL and a misaligned resume address ALIGN; else it suspends the gang with its scalar registers, MODE and segments, and gives up its lane side; it
waits while its stores are on the way. That every lane is live afterwards, that requests for its lanes and for an RNGACQ it does not resume at are
left, and that it is suspended whether or not a save is in hand are the model's choices (notes/assumptions/53.md, 113.md, 112.md, 37.md). That TADDR
names BASE plus the offset, or a jump's target, is the model's choice (notes/assumptions/24.md). -/
def Obligations.EndsOfTheStream : Prop :=
  (∀ (s : State) (g : Gang), s.issuing g →
     s.passes .exit g g.sreg (fun _ h => h.exiting = true ∧ h.wcs = []) ∧
     (g.preq = none ∨ g.priv = true → s.completes .yield g (g.spc + 4) g.sreg) ∧
     (∀ cause, g.preq = some cause → g.priv = false → (s.ctxOf g).pvec ≠ 0 →
       ∃ t h, exec .yield s = .next t ∧ Tbl.at? t.gangs s.cur = some h ∧ (s.breakOff s.cur).onlyTraced t s.cur ∧
         h.spc = (s.ctxOf g).pvec ∧ h.pspc = g.spc + 4 ∧ h.pcause = cause ∧ h.preq = none ∧ h.priv = false ∧ h.queue = [] ∧ h.block = none ∧
         h.pframe = some
           { lanes := g.lanes, cells := g.cells, queue := g.queue, block := g.block, bar := g.bar, rng := g.rng, spc := g.spc + 4, exiting := g.exiting } ∧
         ∀ r, h.sreg r = g.sreg r) ∧
     (∀ cause, g.preq = some cause → g.priv = false → (s.ctxOf g).pvec = 0 → g.run = .run → g.pframe = none →
       ∃ t h, exec .yield s = .next t ∧ Tbl.at? t.gangs s.cur = some h ∧ s.onlyGang t s.cur ∧ h.run = .forced ∧ h.spc = g.spc + 4 ∧
         h.lanes = g.lanes ∧ h.cells = g.cells ∧ h.queue = g.queue ∧ h.block = g.block ∧ ∀ r, h.sreg r = g.sreg r)) ∧
  (∀ (s : State) (g : Gang), s.issuing g → ∀ a : SReg,
     (g.pframe = none → s.raises (.pdone a) g 1 0) ∧
     (g.priv = true → s.kills (.pdone a) g) ∧
     (g.pframe.isSome → g.priv = false → (g.sreg a).toNat % 4 ≠ 0 → s.raises (.pdone a) g 5 (g.sreg a).toNat) ∧
     (g.pframe.isSome → g.priv = false → (g.sreg a).toNat % 4 = 0 → g.wcs = [] → (∀ c, Tbl.atD g.wcl c [] = []) → s.gangWritesOut s.cur = true →
       ∃ t h, exec (.pdone a) s = .next t ∧ Tbl.at? t.gangs s.cur = some h ∧ h = { g with wait := h.wait, wcl := h.wcl } ∧ h.wait ≠ .none ∧
         s.onlyGang t s.cur) ∧
     (g.pframe.isSome → g.priv = false → (g.sreg a).toNat % 4 = 0 → g.wcs = [] → (∀ c, Tbl.atD g.wcl c [] = []) → s.gangWritesOut s.cur = false →
       ∃ t h, exec (.pdone a) s = .next t ∧ Tbl.at? t.gangs s.cur = some h ∧ (s.leaveAtPdone s.cur (g.sreg a)).onlyGang t s.cur ∧ h.run = .suspended (g.sreg a) ∧
         (∀ r, h.sreg r = g.sreg r) ∧ h.mode = g.mode ∧ h.segs = g.segs ∧ h.queue = [] ∧ h.block = none ∧ h.pframe = none ∧ h.preq = none ∧
         (∀ l < 32, Tbl.at? h.lanes l = some { o := [], latch := 0, p := 1, exited := false, latchBad := false, oBad := 0 })))

/-- R164, R166, R167: ROWPIN checks its address and makes its slot OPENING for the row, with the lanes done first when the slot is in use; ROWREL
frees its slot, and the last reference closes the table entry; ROWQ reads the slot's status word, with OPEN of the table entry and DIRTY of the slot's
own opening, and waits for nothing. That TADDR names BASE plus the offset is the model's choice (notes/assumptions/24.md). -/
def Obligations.RowSlots : Prop :=
  ∀ (s : State) (g : Gang) (y : Team), s.issuing g → Tbl.at? s.teams g.team = some y → ∀ (n : BitVec 3) (d a : SReg) (m : BitVec 8),
    let x := g.seg 0
    let o := (g.sreg a).toNat
    let va := x.baseN + o
    let granted := n.toNat < (s.recOf g).rows
    let slot := y.row n.toNat
    let quiet := g.queue = [] ∧ g.block = none ∧ (∀ c, Tbl.atD g.wcl c [] = []) ∧ s.requests = []
    let busy := g.queue ≠ [] ∨ g.block.isSome
    let keeps := fun (t : State) => s.sameBytes t ∧ (∀ v, v ≠ s.cur → Tbl.at? t.gangs v = Tbl.at? s.gangs v) ∧
      ∀ k, k ≠ n.toNat → (t.team g.team).row k = y.row k
    let closes := fun (t : State) => slot.st = .held → slot.saved = false → (∀ e ∈ s.rowTab, e.row = slot.row → ∀ z ∈ e.slots, z.team = g.team ∧ z.slot = n.toNat) →
      ∀ e ∈ t.rowTab, e.row ≠ slot.row
    let pin := fun (i : Instr) (pers : Bool) =>
      (m = 0 ∨ ¬ granted → s.raises i g 1 0) ∧
      (m ≠ 0 → granted → x.limit < o + 1024 → s.raises i g 4 va) ∧
      (m ≠ 0 → granted → o + 1024 ≤ x.limit → va % 1024 ≠ 0 → s.raises i g 5 va) ∧
      (m ≠ 0 → granted → o + 1024 ≤ x.limit → va % 1024 = 0 →
        (∀ k, (s.translateFor (.scalar s.cur) (.core (s.coreOf g)) (s.asidOf g) va .rowpin).2 = .bad k → s.raises i g (if k = 2 then 3 else 2) va) ∧
        ∀ pa e k, (s.translateFor (.scalar s.cur) (.core (s.coreOf g)) (s.asidOf g) va .rowpin).2 = .ok pa e k →
          (slot.st ≠ .free → busy → s.waits i g fun t => s.sameBytes t ∧ t.teams = s.teams ∧ t.rowTab = s.rowTab ∧
            ∀ v, v ≠ s.cur → Tbl.at? t.gangs v = Tbl.at? s.gangs v) ∧
          (slot.st = .free ∨ quiet → s.passes i g g.sreg fun t _ => keeps t ∧
            (t.team g.team).row n.toNat =
              { st := .opening, pers := pers, why := 0, row := pa / 1024, mask := m, saved := false, savedOpen := 0, pinner := s.cur }))
    pin (.rowpinP n a m) true ∧ pin (.rowpinV n a m) false ∧
    (¬ granted → s.raises (.rowrel n) g 1 0 ∧ s.raises (.rowq d n) g 1 0) ∧
    (granted → busy → s.waits (.rowrel n) g fun t => s.onlyGang t s.cur) ∧
    (granted → quiet → s.passes (.rowrel n) g g.sreg fun t _ => keeps t ∧ closes t ∧
      (t.team g.team).row n.toNat = { st := .free, pers := false, why := 0, row := 0, mask := 0, saved := false, savedOpen := 0, pinner := 0 }) ∧
    (granted → slot.why < 8 → ∃ w : Word64, s.completes (.rowq d n) g (g.spc + 4) (g.withReg d w) ∧
      w.extractLsb' 62 2 = (match slot.st with | .free => 0 | .opening => 1 | .held => 2 | .lost => 3) ∧ w.getLsbD 61 = slot.pers ∧
      w.extractLsb' 58 3 = BitVec.ofNat 3 slot.why ∧ w.extractLsb' 16 42 = 0 ∧
      (slot.st ≠ .held → w.extractLsb' 0 16 = 0) ∧
      (slot.st = .held → ∀ e, s.rowTab.find? (fun e => e.row = slot.row) = some e →
        w.extractLsb' 0 8 = e.slots.foldl (fun k z => k ||| z.opens) 0 ∧
        ∀ z, e.slots.find? (fun z => z.team = g.team && z.slot = n.toNat) = some z → w.extractLsb' 8 8 = z.dirty))

/-- R27, R101, R123, R231 to R234, R359: OPREQ asks for an operating point within its partition's range and answers 0, and else only answers 1; EBKT
reads the context's bucket; DROWSE sets the gang's wish; TMARK leaves a packet in the trace, if there is one. R101, R123, R162, R214, R345, R346,
R349: what a word charges its context, in the island where the event lies: a scalar word that executes 4 eu, ILLEGAL nothing, any other trap 4 eu; a
load the level at which it finds its line and those above it; a lane word its weight for each cell with an active lane, so nothing under ?!p0; a cell
control word, and LWAITT, 5 eu for each cell of the group with a lane that has not exited; and what waits to land lands once. -/
def Obligations.PowerAndTraceWords : Prop :=
  (∀ (s : State) (g : Gang), s.issuing g → ∀ (d : SReg) (n : BitVec 4) (e : BitVec 1) (m : BitVec 12),
     let p := s.part (s.ctxOf g).part
     let c := s.ctxOf g
     let inside := p.opfast ≤ n.toNat ∧ n.toNat ≤ p.opslow
     (¬ inside → s.completes (.opreq d n) g (g.spc + 4) (g.withReg d 1)) ∧
     (inside → (Tbl.at? s.regions (s.regOf g)).isSome → s.does (.opreq d n) g (g.spc + 4) (g.withReg d 0) fun t =>
       (t.region (s.regOf g)).req = n.toNat ∧ s.sameBytes t ∧ s.sameCtxs t ∧ t.teams = s.teams ∧
         (∀ r, r ≠ s.regOf g → Tbl.at? t.regions r = Tbl.at? s.regions r) ∧ ∀ v, v ≠ s.cur → Tbl.at? t.gangs v = Tbl.at? s.gangs v) ∧
     s.completes (.ebkt d) g (g.spc + 4) (g.withReg d (BitVec.ofNat 64 ((if c.empty then 2 ^ 63 else 0) + c.bal.toNat % 2 ^ 48))) ∧
     s.does (.drowse e) { g with drowse := decide (e = 1) } (g.spc + 4) g.sreg (fun t =>
       s.sameBytes t ∧ s.sameCtxs t ∧ t.teams = s.teams ∧ ∀ v, v ≠ s.cur → Tbl.at? t.gangs v = Tbl.at? s.gangs v) ∧
     (∃ t h, exec (.tmark m) s = .next t ∧ Tbl.at? t.gangs s.cur = some h ∧ g.untraced.moved h.untraced (g.spc + 4) g.sreg ∧
       s.onlyTraced t s.cur ∧ (c.tren = false → s.onlyGang t s.cur)) ∧
     (c.tren = true → c.trts = false → g.tr.due = none → (∀ v ∈ s.gangsOnCore (s.coreOf g) (s.asidOf g), (s.gang v).tr.due ≠ some 7) → (s.traceBuf (s.coreOf g) (s.asidOf g)).lost = 0 →
       (s.traceBuf (s.coreOf g) (s.asidOf g)).bytes.length + 4 ≤ s.traceShare (s.coreOf g) →
       ∃ t, exec (.tmark m) s = .next t ∧ (t.traceBuf (s.coreOf g) (s.asidOf g)).bytes =
         (s.traceBuf (s.coreOf g) (s.asidOf g)).bytes ++ [BitVec.ofNat 8 (0x60 + g.slot % 16)] ++ bytesOf 3 m.toNat)) ∧
  (∀ (s : State) (g : Gang) (c : Ctx), s.issuing g → Tbl.at? s.ctxs (s.asidOf g) = some c → c.ectr < 2 ^ 48 →
     let r := s.regOf g
     let atU := g.priv = false ∧ c.tvec ≠ 0
     (∀ (d a b : SReg) (k : BitVec 2) (i : BitVec 13) (n : BitVec 6) (j : BitVec 19) (x : BitVec 25),
       (∀ w ∈ [Instr.sadd d a b, .ssub d a b, .smul d a b, .smulh d a b, .smulhn d a b, .sdiv d a b, .sdivn d a b, .srem d a b, .sremn d a b,
           .sand d a b, .sor d a b, .sxor d a b, .sshl d a b, .sshr d a b, .ssra d a b, .smin d a b, .sminn d a b, .smax d a b, .smaxn d a b,
           .sslt d a b, .ssltn d a b, .seq d a b, .spopc d a, .sclz d a, .slea d a b k, .saddi d a i, .sandi d a i, .sori d a i, .sxori d a i,
           .sshli d a n, .sshri d a n, .ssrai d a n, .sslti d a i, .ssltni d a i, .sli d j, .slx d j, .smuli d a i, .sbeq a b i, .sbne a b i,
           .sblt a b i, .sbge a b i, .sbltn a b i, .sbgen a b i, .sloop a i, .sj x, .sjal x, .ebkt d], s.pays w g c [(r, 4)]) ∧
       (∀ (q : BitVec 4) (e : BitVec 1) (m : BitVec 12), s.pays (.opreq d q) g c [(r, 4)] ∧ s.pays (.drowse e) g c [(r, 4)] ∧
         s.pays (.tmark m) g c [(r, 4)]) ∧
       (s.cells = [] → atU → s.pays .illegalEncoding g c []) ∧ (atU → s.pays (.sbrk x) g c [(r, 4)]) ∧
       (let o := (g.sreg a + i.signExtend 64).toNat
       (o + 8 ≤ (g.seg 1).limit → o < 2 ^ 20 → ((g.seg 1).baseN + o) % 8 = 0 →
         ((s.readScratch g.team o 8).2 = false ∨ atU → s.pays (.slds d a i) g c [(r, 4), (r, 24)]) ∧
         ((g.seg 1).ros = false → s.frozenHit g g.team o 8 = false → s.pays (.ssts b a i) g c [(r, 4), (r, 24)])) ∧
       ((g.seg 1).limit < o + 8 → o < 2 ^ 20 → atU → s.pays (.slds d a i) g c [(r, 4)] ∧ s.pays (.ssts b a i) g c [(r, 4)]))) ∧
     (∀ (d a : SReg) (i : BitVec 13) pa e n t,
       let o := (g.sreg a + i.signExtend 64).toNat
       let k := s.coreOf g
       let line := pa / 128
       let stack := 48 + stackOf pa
       let loads := fun (l : List (Nat × Nat)) => s.pays (.sldd d a i) g c ([(r, 4), (r, 24)] ++ l)
       o + 8 ≤ (g.seg 0).limit → ((g.seg 0).baseN + o) % 8 = 0 →
       s.translateFor (.scalar s.cur) (.core k) (s.asidOf g) ((g.seg 0).baseN + o) .load = (t, .ok pa e n) → t.ctxs = s.ctxs →
       isPeer pa = false → (wcLoad g.wcs pa (s.codeAt k (s.asidOf g) pa 8).1 (s.codeAt k (s.asidOf g) pa 8).2).2 = false ∨ atU →
       (isDev pa = false → loads []) ∧
       (isDev pa = true → (s.l1Copy k line).isSome → loads []) ∧
       (isDev pa = true → s.l1Copy k line = none →
         (homeOf pa ≠ r → (s.nearCopy r (s.asidOf g) line).isSome → loads [(r, 96)]) ∧
         (homeOf pa = r → s.heldAt pa = none → (∀ x, Tbl.at? s.home line = some x → x.asid = s.asidOf g) →
           (∀ x, Tbl.at? s.victim line = some x → x.asid = s.asidOf g) → s.home.length + (Tbl.atD s.near r []).length < 16 →
           ((Tbl.at? s.home line).isSome → loads [(r, 150)]) ∧
           (Tbl.at? s.home line = none → (Tbl.at? s.victim line).isSome → loads [(r, 150), (stack, 320)]) ∧
           (Tbl.at? s.home line = none → Tbl.at? s.victim line = none → loads [(r, 150), (stack, 300), (stack, 2 * 1280)])) ∧
         (homeOf pa = r → (s.heldFor (s.asidOf g) pa).isSome → loads [(r, 150), (stack, 1280)]))) ∧
     (∀ w : LaneOp, (∀ x ∈ s.cells, (g.cell x).unpaid = false) → atU →
       let charged := ((List.range 8).filter fun x => (g.active s.cells w).any fun l => l / 4 = x).length
       let pays := fun (opc eu : Nat) (i : Instr) => s.legal g opc w → s.pays i g c [(r, eu * charged)]
       let wide := w.ty.width = 64
       pays 0x00 5 (.vadd w) ∧ pays 0x01 5 (.vsub w) ∧ pays 0x02 5 (.vmul w) ∧ pays 0x05 5 (.vdiv w) ∧ pays 0x0B 5 (.vand w) ∧
       pays 0x17 5 (.vcmp w) ∧ pays 0x18 5 (.vsel w) ∧ pays 0x34 5 (.fmin w) ∧ pays 0x38 16 (.fdiv w) ∧ pays 0x39 16 (.fsqrt w) ∧
       pays 0x30 (if wide then 20 else 8) (.fadd w) ∧ pays 0x32 (if wide then 20 else 8) (.fmul w) ∧ pays 0x33 (if wide then 20 else 8) (.ffma w) ∧
       pays 0x40 6 (.cvt w) ∧ pays 0xD1 5 (.ltmark w) ∧
       (laneOk 0x00 w = false → s.pays (.vadd w) g c []) ∧
       let live := s.cells.filter fun x => (List.range 4).any fun k => !(g.lane (4 * x + k)).exited
       let holds := fun (opc : Nat) (ready : Prop) (i : Instr) => s.legal g opc w → ready → s.pays i g c [(r, 5 * live.length)]
       let empty := ∀ x, Tbl.atD g.wcl x [] = []
       holds 0x80 True (.lbra w) ∧ holds 0x81 True (.ljmp w) ∧ holds 0x82 True (.lcall w) ∧ holds 0x83 True (.lret w) ∧
       holds 0x84 (∀ x ∈ live, (g.cell x).stack.length < 8) (.lif w) ∧ holds 0x85 (∀ x ∈ live, (g.cell x).stack ≠ []) (.lelse w) ∧
       holds 0x86 (∀ x ∈ live, (g.cell x).stack ≠ []) (.lendif w) ∧ holds 0x87 True (.lregang w) ∧ holds 0x88 True (.lend w) ∧
       holds 0x89 True (.lexit w) ∧ holds 0x8A True (.lyield w) ∧ holds 0x8B (empty ∧ s.requests = []) (.lbarg w) ∧ holds 0x8C True (.lnop w) ∧
       holds 0xD0 (w.imm.toNat < s.tagsOf g.team ∧ ((s.team g.team).tag w.imm.toNat).count = 0) (.lwaitt w) ∧
       (laneOk 0x87 w = false → s.pays (.lregang w) g c [])) ∧
     ((s.energy.owed = [] → s.pins = [] → s.landCharges = s) ∧
       ∀ who eu, s.energy.owed = [{ who := who, asid := s.asidOf g, island := r, eu := eu }] →
         (s.ended who = true → ∃ d, Tbl.at? s.landCharges.ctxs (s.asidOf g) = some d ∧ c.paid d [(r, eu)] ∧ s.landCharges.energy.owed = []) ∧
         (s.ended who = false → s.landCharges.ctxs = s.ctxs ∧ s.landCharges.energy.owed = s.energy.owed)))

/-- R235, R310: RNGACQ completes with an acquire once no page of its range is the host's; while one is, it asks the host in a fault slot (or waits for
one) and waits for the reply, and it raises OWN when the host refuses or a page is still the host's. That alignment is judged on BASE plus offset,
that an unmapped page is the device's, that the slot is freed as the word goes on, that the checks come before a length of 0, and that TADDR of a
refusal without a host-owned page is the range's base are the model's choices (notes/assumptions/27.md, 48.md, 112.md, 114.md, 115.md). R235, R310,
R174: RNGREL hands the pages of its range to the host once the stores of its context have been accepted, and waits for them: no dirty line of the
range is left, the owner bit of every page mapped there is set, and no translation of the range is kept in any core's TLB or walk-ahead TLB of the
partition; the bytes of memory are stated for a range of one page. Alignment and a length of 0 are as in RNGACQ. That TADDR names BASE plus the offset
is the model's choice (notes/assumptions/24.md). -/
def Obligations.RangeWords : Prop :=
  (∀ (s : State) (g : Gang) (c : Ctx), s.issuing g → Tbl.at? s.ctxs (s.asidOf g) = some c → ∀ a b : SReg,
     let i := Instr.rngacq a b
     let o := (g.sreg a).toNat
     let n := (g.sreg b).toNat
     let x := g.seg 0
     let va := x.baseN + o
     let host := s.hostPage (s.asidOf g) va n
     let asked := fun (k : Nat) => g.rng = some { slot := k, base := va, len := n }
     let slot := fun (k : Nat) => Tbl.atD c.slots k FaultSlot.blank
     let acquired := fun (t : State) => (∀ line, t.l1Copy (s.coreOf g) line = none) ∧ ∀ line k, t.nearCopy (s.regOf g) k line = none
     (x.limit < o + n → s.raises i g 4 va) ∧
     (o + n ≤ x.limit → va % 65536 ≠ 0 ∨ n % 65536 ≠ 0 → s.raises i g 5 va) ∧
     (o + n ≤ x.limit → va % 65536 = 0 → n % 65536 = 0 →
       (n = 0 → s.completes i g (g.spc + 4) g.sreg) ∧
       (n ≠ 0 → g.rng = none → host = none → s.does i g (g.spc + 4) g.sreg fun t => s.onlyCached t s.cur ∧ acquired t) ∧
       (n ≠ 0 → (g.rng = none ∧ host.isSome) ∨ asked 1024 →
         ((∀ k < 1024, (slot k).st ≠ .free) →
           s.waits i { g with rng := some { slot := 1024, base := va, len := n } } fun t => s.onlyGang t s.cur) ∧
         ((∃ k < 1024, (slot k).st = .free) →
           ∃ k < 1024, (slot k).st = .free ∧ ∃ z, s.waits i { g with rng := some { slot := k, base := va, len := n } } fun t =>
             s.sameBytes t ∧ Tbl.at? (t.ctxOf g).slots k = some z ∧ z.st = .waiting ∧ z.owner = .range s.cur ∧
               (z.rcd.drop 3).take 1 = [4] ∧ (z.rcd.drop 8).take 8 = bytesOf 8 va)) ∧
       ∀ k < 1024, n ≠ 0 → asked k →
         ((slot k).st ≠ .replied → s.waits i g fun t => s.onlyGang t s.cur) ∧
         ((slot k).st = .replied → (slot k).status = 0 → host = none →
           s.passes i g g.sreg fun t h => h.rng = none ∧ s.sameBytes t ∧ acquired t ∧
             (c.waiting = [] → ∀ z, Tbl.at? (t.ctxOf g).slots k = some z → z.st = .free)) ∧
         ((slot k).st = .replied → host.isSome ∨ (slot k).status ≠ 0 → g.priv = false → c.tvec ≠ 0 →
           ∃ t h y, exec i s = .next t ∧ Tbl.at? t.gangs s.cur = some h ∧ y.cause = 3 ∧ y.tspc = g.spc ∧ y.taddr = BitVec.ofNat 64 (host.getD va) ∧
             ({ g with rng := none } : Gang).inHandler h c.tvec y ∧ s.sameBytes t))) ∧
  (∀ (s : State) (g : Gang), s.issuing g → ∀ a b : SReg,
     let i := Instr.rngrel a b
     let o := (g.sreg a).toNat
     let n := (g.sreg b).toNat
     let x := g.seg 0
     let va := x.baseN + o
     let p := (s.ctxOf g).part
     (x.limit < o + n → s.raises i g 4 va) ∧
     (o + n ≤ x.limit → va % 65536 ≠ 0 ∨ n % 65536 ≠ 0 → s.raises i g 5 va) ∧
     (o + n ≤ x.limit → va % 65536 = 0 → n % 65536 = 0 →
       (n = 0 → s.completes i g (g.spc + 4) g.sreg) ∧
       (n ≠ 0 → g.wcs = [] → (∀ c, Tbl.atD g.wcl c [] = []) → s.ctxWritesOut (s.asidOf g) = true →
         ∃ t h, exec i s = .next t ∧ Tbl.at? t.gangs s.cur = some h ∧ h = { g with wait := h.wait, wcl := h.wcl } ∧ h.wait ≠ .none ∧ s.onlyGang t s.cur) ∧
       (n ≠ 0 → g.wcs = [] → (∀ c, Tbl.atD g.wcl c [] = []) → s.ctxWritesOut (s.asidOf g) = false →
         s.passes i g g.sreg fun t _ => t.store = s.store ∧ t.acc = s.acc ∧ s.sameCtxs t ∧
           (∀ c ∈ s.coresOf p, ∀ e ∈ t.tlbEntries (.core c), e.asid = s.asidOf g → overlap (e.vbase * 2 ^ e.bits) (2 ^ e.bits) va n = false) ∧
           (∀ r ∈ s.regionsOf p, ∀ e ∈ t.tlbEntries (.region r), e.asid = s.asidOf g → overlap (e.vbase * 2 ^ e.bits) (2 ^ e.bits) va n = false) ∧
           (∀ line, s.lineIn (s.asidOf g) [(va, n)] line = true → s.heldAt (128 * line) = none →
             t.homeDirty line = false ∧ t.victimDirty line = false) ∧
           (n = 65536 → ∀ q l e k, s.peek (s.asidOf g) va = .leaf q l e k → pteHost e = false → q % 8 = 0 →
             s.storedFor t (s.asidOf g) q (bytesOf 8 (e + 2 ^ 59))))))

/-! ### Lane words -/

/-- R124, R125, R128, R42, R120: the integer arithmetic of every active lane, wrapped or saturated to its type; no other lane changes. R124, R126,
R119: the bitwise words, shifts and bit fields of every active lane. R127: VCMP writes its condition to its predicate, VSEL chooses by a predicate,
and VADC adds with the carry that its predicate holds and leaves the carry there. -/
def Obligations.LaneIntegers : Prop :=
  (∀ (s : State) (g : Gang), s.issuing g → ∀ w : LaneOp,
     let act := g.active s.cells w
     let n := w.ty.width
     let src := fun (x : Src) (l : Nat) => s.srcInt g l n w.imm x
     let int := fun (x : Src) (l : Nat) => Ty.int w.ty (src x l).1
     let lo : Int := if w.ty.signed then -(2 ^ (n - 1) : Nat) else 0
     let hi : Int := if w.ty.signed then (2 ^ (n - 1) : Nat) - 1 else (2 ^ n : Nat) - 1
     let exact := fun (r : Int) => (⟨wrapN n r, 0⟩ : FRes)
     let fit := fun (r : Int) => if g.satOf w.sm = true ∧ (r < lo ∨ hi < r) then (⟨wrapN n (if r < lo then lo else hi), 0x40⟩ : FRes) else exact r
     let gives := fun (i : Instr) (opc : Nat) (xs : List Src) (val : Nat → FRes) =>
       s.legal g opc w → (∀ l ∈ act, ∀ x ∈ xs, (src x l).2 = false) →
         s.lanesGive i g w (n = 64) fun l => ⟨extendTo w.ty (val l).bits, (val l).flags⟩
     let a := int w.sa
     let b := int w.sb
     let c := int w.sc
     let two := [w.sa, w.sb]
     gives (.vadd w) 0x00 two (fun l => fit (a l + b l)) ∧
     gives (.vsub w) 0x01 two (fun l => fit (a l - b l)) ∧
     gives (.vmul w) 0x02 two (fun l => fit (a l * b l)) ∧
     gives (.vmulh w) 0x03 two (fun l => exact (a l * b l / 2 ^ n)) ∧
     gives (.vmad w) 0x04 [w.sa, w.sb, w.sc] (fun l => fit (a l * b l + c l)) ∧
     gives (.vdiv w) 0x05 two (fun l => exact (if b l = 0 then -1 else (a l).tdiv (b l))) ∧
     gives (.vrem w) 0x06 two (fun l => exact (if b l = 0 then a l else (a l).tmod (b l))) ∧
     gives (.vabs w) 0x07 [w.sa] (fun l => fit (if a l < 0 then -(a l) else a l)) ∧
     gives (.vneg w) 0x08 [w.sa] (fun l => fit (-(a l))) ∧
     gives (.vmin w) 0x09 two (fun l => exact (min (a l) (b l))) ∧
     gives (.vmax w) 0x0A two (fun l => exact (max (a l) (b l))) ∧
     gives (.vsad w) 0x1A [w.sa, w.sb, w.sc] (fun l => exact (c l + if a l < b l then b l - a l else a l - b l)) ∧
     gives (.vdot4 w) 0x1B [w.sa, w.sb, w.sc] (fun l =>
       let e := fun (x : Src) (k : Nat) => let y := (src x l).1 / 2 ^ (8 * k); if w.ty.signed then sext 8 y else ((y % 256 : Nat) : Int)
       fit (c l + e w.sa 0 * e w.sb 0 + e w.sa 1 * e w.sb 1 + e w.sa 2 * e w.sb 2 + e w.sa 3 * e w.sb 3))) ∧
  (∀ (s : State) (g : Gang), s.issuing g → ∀ w : LaneOp,
     let act := g.active s.cells w
     let n := w.ty.width
     let src := fun (x : Src) (l : Nat) => s.srcInt g l n w.imm x
     let ctl := fun (x : Src) (l : Nat) => s.srcInt g l 32 w.imm x
     let lo : Int := if w.ty.signed then -(2 ^ (n - 1) : Nat) else 0
     let hi : Int := if w.ty.signed then (2 ^ (n - 1) : Nat) - 1 else (2 ^ n : Nat) - 1
     let fit := fun (r : Int) =>
       if g.satOf w.sm = true ∧ (r < lo ∨ hi < r) then (⟨wrapN n (if r < lo then lo else hi), 0x40⟩ : FRes) else ⟨wrapN n r, 0⟩
     let gives := fun (i : Instr) (opc : Nat) (clean : Nat → Prop) (val : Nat → FRes) =>
       s.legal g opc w → (∀ l ∈ act, clean l) → s.lanesGive i g w (n = 64) fun l => ⟨extendTo w.ty (val l).bits, (val l).flags⟩
     let pat := fun (v : Nat) => (⟨v, 0⟩ : FRes)
     let a := fun l => (src w.sa l).1
     let b := fun l => (src w.sb l).1
     let k := fun l => (ctl w.sb l).1 % n
     let one := fun l => (src w.sa l).2 = false
     let two := fun l => (src w.sa l).2 = false ∧ (src w.sb l).2 = false
     let sh := fun l => (src w.sa l).2 = false ∧ (ctl w.sb l).2 = false
     gives (.vand w) 0x0B two (fun l => pat (a l &&& b l)) ∧
     gives (.vor w) 0x0C two (fun l => pat (a l ||| b l)) ∧
     gives (.vxor w) 0x0D two (fun l => pat (a l ^^^ b l)) ∧
     gives (.vnot w) 0x0E one (fun l => pat (2 ^ n - 1 - a l)) ∧
     gives (.vshl w) 0x0F sh (fun l => fit (Ty.int w.ty (a l) * 2 ^ k l)) ∧
     gives (.vshr w) 0x10 sh (fun l => pat (a l >>> k l)) ∧
     gives (.vsra w) 0x11 sh (fun l => pat (wrapN n (sext n (a l) / 2 ^ k l))) ∧
     gives (.vrot w) 0x12 sh (fun l => pat (((a l <<< k l) ||| (a l >>> (n - k l))) % 2 ^ n)) ∧
     gives (.vpopc w) 0x13 one (fun l => pat ((List.range n).countP fun j => (a l).testBit j)) ∧
     (∀ z : Nat → Nat, (∀ l ∈ act, z l ≤ n ∧ (∀ j, n - z l ≤ j → (a l).testBit j = false) ∧ (z l < n → (a l).testBit (n - 1 - z l) = true)) →
       gives (.vclz w) 0x14 one fun l => pat (z l)) ∧
     (∀ z : Nat → Nat, (∀ l ∈ act, z l < 2 ^ n ∧ ∀ j < n,
         let c := (ctl w.sb l).1
         let pos := c % 64
         let len := c / 256 % 128
         let bitOf := fun (p : Nat) => if p < n then (a l).testBit p else w.ty.signed && (a l).testBit (n - 1)
         (z l).testBit j = if len = 0 then false else if j < len then bitOf (pos + j) else w.ty.signed && bitOf (pos + len - 1)) →
       gives (.vbfx w) 0x15 sh fun l => pat (z l)) ∧
     ∀ z : Nat → Nat, (∀ l ∈ act, z l < 2 ^ n ∧ ∀ j < n,
         let c := (ctl w.sc l).1
         let pos := c % 64
         let len := c / 256 % 128
         (z l).testBit j = if pos ≤ j ∧ j < pos + len then (b l).testBit (j - pos) else (a l).testBit j) →
       gives (.vbfi w) 0x16 (fun l => two l ∧ (ctl w.sc l).2 = false) fun l => pat (z l)) ∧
  (∀ (s : State) (g : Gang), s.issuing g → ∀ w : LaneOp,
     let act := g.active s.cells w
     let n := w.ty.width
     let src := fun (x : Src) (l : Nat) => s.srcInt g l n w.imm x
     let a := fun l => (src w.sa l).1
     let b := fun l => (src w.sb l).1
     let x := fun l => Ty.int w.ty (a l)
     let y := fun l => Ty.int w.ty (b l)
     let q := w.fn.toNat % 8
     let sum := fun l => a l + b l + if (g.lane l).pred q then 1 else 0
     (∀ l ∈ act, (src w.sa l).2 = false ∧ (src w.sb l).2 = false) →
       (s.legal g 0x17 w →
         (w.fn = 0 → s.lanesTest (.vcmp w) g w (fun l => x l = y l) fun _ => 0) ∧ (w.fn = 1 → s.lanesTest (.vcmp w) g w (fun l => x l ≠ y l) fun _ => 0) ∧
         (w.fn = 2 → s.lanesTest (.vcmp w) g w (fun l => x l < y l) fun _ => 0) ∧ (w.fn = 3 → s.lanesTest (.vcmp w) g w (fun l => x l ≤ y l) fun _ => 0) ∧
         (w.fn = 4 → s.lanesTest (.vcmp w) g w (fun l => y l < x l) fun _ => 0) ∧ (w.fn = 5 → s.lanesTest (.vcmp w) g w (fun l => decide (y l ≤ x l)) fun _ => 0)) ∧
       (s.legal g 0x18 w →
         s.lanesGive (.vsel w) g w (n = 64) fun l => ⟨extendTo w.ty (if (g.lane l).pred q = (w.fn.toNat < 8 : Bool) then a l else b l), 0⟩) ∧
       (s.legal g 0x19 w →
         s.lanesDo (.vadc w) g w (fun l z => (z.given w.dst (n = 64) (extendTo w.ty (sum l))).setPred q (2 ^ n ≤ sum l))
           (fun l => dstRegs w.dst (n = 64) (extendTo w.ty (sum l))) fun _ => 0))

/-- R129 to R133, R50, R46, R48: the floating-point words of every active lane: each reads its sources in its type's format, rounds with the mode of
its own RM or MODE, flushes as DM says, and raises its flags. The high element of an immediate in FDOT2 is 0, the model's choice
(notes/assumptions/32.md). R44 to R50, R129 to R133: what the results of LaneFloats are. A code of f64, f32, f16 or bf16 stands for the value of R44;
add, multiply, dot, divide, square root and scale give the exact result rounded once to a neighbour, as the table of R48 and the flags of R47 say,
under the flush of R46; rounding to an integer follows R49; infinities, NaNs, zeros and division by zero follow the table of R129, FMIN and FMAX R130,
FCLASS R131. FTRN follows the table of R132 at its special inputs; rcp and rsq, exp2 of an integer and log2 of a power of two are the exact value
rounded once. -/
def Obligations.LaneFloats : Prop :=
  (∀ (s : State) (g : Gang), s.issuing g → ∀ w : LaneOp,
     let act := g.active s.cells w
     let f := Ty.fmt w.ty
     let rm := g.rmOf w.rm
     let fl := g.flushOf w.dm
     let code := fun (x : Src) (l : Nat) => s.srcFlt g l f rm w.imm x
     let plain := fun (x : Src) (l : Nat) => s.srcFlt g l f .rne w.imm x
     let clean := fun (xs : List Src) => ∀ l ∈ act, ∀ x ∈ xs, (s.srcFlt g l f rm w.imm x).2 = false ∧ (s.srcFlt g l f .rne w.imm x).2 = false
     let A := fun l => f.read fl (code w.sa l).1
     let B := fun l => f.read fl (code w.sb l).1
     let C := fun l => f.read fl (code w.sc l).1
     let P := fun l => f.read fl (plain w.sa l).1
     let Q := fun l => f.read fl (plain w.sb l).1
     let gives := fun (i : Instr) (opc : Nat) (xs : List Src) (val : Nat → FRes) =>
       s.legal g opc w → clean xs → s.lanesGive i g w (w.ty.width = 64) fun l => ⟨extendTo w.ty (val l).bits, (val l).flags⟩
     let two := [w.sa, w.sb]
     let sign := 2 ^ (w.ty.width - 1)
     gives (.fadd w) 0x30 two (fun l => f.add rm fl (A l) (B l)) ∧
     gives (.fsub w) 0x31 two (fun l => f.add rm fl (A l) (B l).negate) ∧
     gives (.fmul w) 0x32 two (fun l => f.mul rm fl (A l) (B l)) ∧
     gives (.ffma w) 0x33 [w.sa, w.sb, w.sc] (fun l => f.dot rm fl [(A l, B l)] (C l)) ∧
     gives (.fdiv w) 0x38 two (fun l => f.div rm fl (A l) (B l)) ∧
     gives (.fsqrt w) 0x39 [w.sa] (fun l => f.sqrt rm fl (A l)) ∧
     gives (.ftrn w) 0x3A [w.sa] (fun l => f.trans w.fn.toNat fl (P l)) ∧
     gives (.frnd w) 0x3E [w.sa] (fun l => f.rint rm fl (A l)) ∧
     gives (.fmin w) 0x34 two (fun l => f.minmax false (w.fn = 1) fl (plain w.sa l).1 (plain w.sb l).1) ∧
     gives (.fmax w) 0x35 two (fun l => f.minmax true (w.fn = 1) fl (plain w.sa l).1 (plain w.sb l).1) ∧
     gives (.fabs w) 0x36 [w.sa] (fun l => ⟨(plain w.sa l).1 % sign, 0⟩) ∧
     gives (.fneg w) 0x37 [w.sa] (fun l => ⟨((plain w.sa l).1 + sign) % (2 * sign), 0⟩) ∧
     (s.legal g 0x3C w → clean [w.sa] → s.lanesGive (.fclass w) g w false fun l => ⟨2 ^ f.class_ (plain w.sa l).1, 0⟩) ∧
     (s.legal g 0x3D w → (∀ l ∈ act, (code w.sa l).2 = false ∧ (s.srcInt g l 32 w.imm w.sb).2 = false) →
       s.lanesGive (.fscale w) g w (w.ty.width = 64) fun l =>
         let r := f.scaleb rm fl (A l) (sext 32 (s.srcInt g l 32 w.imm w.sb).1)
         ⟨extendTo w.ty r.bits, r.flags⟩) ∧
     (s.legal g 0x3F w →
       (∀ l ∈ act, (s.srcPair g l f rm w.imm w.sa).2 = false ∧ (s.srcPair g l f rm w.imm w.sb).2 = false ∧
         (s.srcFlt g l .f32 rm w.imm w.sc).2 = false) →
       s.lanesGive (.fdot2 w) g w false fun l =>
         let el := fun (x : Src) (k : Nat) =>
           f.read fl (if x = .imm then (if k = 0 then immFloat f rm w.imm else 0) else (s.srcRaw g l 32 x).1 / 2 ^ (16 * k) % 2 ^ 16)
         Fmt.f32.dot rm fl [(el w.sa 0, el w.sb 0), (el w.sa 1, el w.sb 1)] (Fmt.f32.read fl (s.srcFlt g l .f32 rm w.imm w.sc).1)) ∧
     (s.legal g 0x3B w → clean two →
       let un := fun l => (P l).isNan || (Q l).isNan
       let holds := fun l => match w.fn.toNat % 8 with
         | 0 => feq (P l) (Q l)
         | 1 => un l || !feq (P l) (Q l)
         | 2 => fltB false (P l) (Q l)
         | 3 => fltB false (P l) (Q l) || feq (P l) (Q l)
         | 4 => fltB false (Q l) (P l)
         | 5 => fltB false (Q l) (P l) || feq (P l) (Q l)
         | 6 => !un l
         | _ => un l
       let nv := fun l => if 8 ≤ w.fn.toNat then un l else decide (P l = .nan true ∨ Q l = .nan true)
       s.lanesTest (.fcmp w) g w holds fun l => if nv l then 0x01 else 0)) ∧
  (∀ f ∈ [Fmt.f64, .f32, .f16, .bf16], ∀ rm, rm ≠ Rm.dyn → ∀ fl : Bool,
     let half := 2 ^ (f.width - 1)
     let none_ : FRes := ⟨f.qnan, fNV⟩
     let is := fun (zero : Bool) (v : Rat) (r : FRes) => f.isValue rm fl zero v r
     let common := fun (l : List Bool) => if ∀ n ∈ l, n = true then true else if ∀ n ∈ l, n = false then false else decide (rm = .rdn)
     let quiet := fun (l : List Bool) (r : FRes) => r = ⟨f.qnan, if true ∈ l then fNV else 0⟩
     f.qnan = f.top + 2 ^ (f.fb - 1) ∧
     (∀ n, signBit f n = (if n then half else 0) ∧ f.infCode n = signBit f n + f.top ∧ f.maxCode n = signBit f n + f.top - 1) ∧
     (∀ x < 2 ^ f.width,
       let k := x % half
       let n := decide (half ≤ x)
       let v := f.read fl x
       (k < f.top → v.isFin = true ∧ v.neg = n ∧ v.mag = (if fl = true ∧ k < 2 ^ f.fb then 0 else f.mag k) ∧
         (let r := f.rint rm fl v
          ∃ i nx j, intRounds rm n v.mag i nx ∧ j < f.top ∧ f.mag j = (i : Rat) ∧ r = ⟨signBit f n + j, if nx then fNX else 0⟩)) ∧
       (k = f.top → v = .inf n) ∧ (f.top < k → v = .nan (decide (k < f.qnan)))) ∧
     (∀ a b c a' b' : FVal, a.isFin = true → b.isFin = true → c.isFin = true → a'.isFin = true → b'.isFin = true →
       is (common [a.neg, b.neg]) (a.rat + b.rat) (f.add rm fl a b) ∧
       is (a.neg != b.neg) (a.rat * b.rat) (f.mul rm fl a b) ∧
       is (common [a.neg != b.neg, c.neg]) (a.rat * b.rat + c.rat) (f.dot rm fl [(a, b)] c) ∧
       is (common [a.neg != b.neg, a'.neg != b'.neg, c.neg]) (a.rat * b.rat + a'.rat * b'.rat + c.rat) (f.dot rm fl [(a, b), (a', b')] c) ∧
       (b.mag ≠ 0 → is (a.neg != b.neg) (a.rat / b.rat) (f.div rm fl a b)) ∧
       (b.mag = 0 → f.div rm fl a b = if a.mag = 0 then none_ else ⟨f.infCode (a.neg != b.neg), fDZ⟩) ∧
       (a.mag = 0 → f.sqrt rm fl a = ⟨signBit f a.neg, 0⟩) ∧
       (a.mag ≠ 0 → a.neg = true → f.sqrt rm fl a = none_) ∧
       (a.mag ≠ 0 → a.neg = false → f.isRound rm fl false (fun q => cmpRat a.mag (q * q)) (f.sqrt rm fl a)) ∧
       (∀ k : Int, is a.neg (a.rat * (2 : Rat) ^ k) (f.scaleb rm fl a k)) ∧
       (fltB false a b = decide (a.rat < b.rat)) ∧ (feq a b = decide (a.rat = b.rat)) ∧
       ∀ m n : Bool,
         f.add rm fl (.inf n) a = ⟨f.infCode n, 0⟩ ∧ f.add rm fl a (.inf n) = ⟨f.infCode n, 0⟩ ∧
         f.add rm fl (.inf m) (.inf n) = (if m = n then ⟨f.infCode n, 0⟩ else none_) ∧
         f.mul rm fl (.inf n) a = (if a.mag = 0 then none_ else ⟨f.infCode (n != a.neg), 0⟩) ∧
         f.mul rm fl a (.inf n) = (if a.mag = 0 then none_ else ⟨f.infCode (n != a.neg), 0⟩) ∧
         f.mul rm fl (.inf m) (.inf n) = ⟨f.infCode (m != n), 0⟩ ∧
         f.div rm fl (.inf m) (.inf n) = none_ ∧ f.div rm fl (.inf n) a = ⟨f.infCode (n != a.neg), 0⟩ ∧
         f.div rm fl a (.inf n) = ⟨signBit f (n != a.neg), 0⟩ ∧
         f.sqrt rm fl (.inf n) = (if n then none_ else ⟨f.infCode false, 0⟩) ∧
         f.dot rm fl [(.inf m, a)] c = (if a.mag = 0 then none_ else ⟨f.infCode (m != a.neg), 0⟩) ∧
         f.dot rm fl [(a, b)] (.inf n) = ⟨f.infCode n, 0⟩ ∧
         (a.mag ≠ 0 → f.dot rm fl [(.inf m, a)] (.inf n) = if (m != a.neg) = n then ⟨f.infCode n, 0⟩ else none_) ∧
         (a.mag = 0 → f.dot rm fl [(.inf m, a)] (.nan n) = none_) ∧
         quiet [n] (f.dot rm fl [(a, b)] (.nan n)) ∧ quiet [n] (f.dot rm fl [(.nan n, a)] c) ∧ quiet [m, n] (f.dot rm fl [(a, .nan m)] (.nan n)) ∧
         quiet [n] (f.add rm fl (.nan n) a) ∧ quiet [n] (f.add rm fl a (.nan n)) ∧ quiet [m, n] (f.add rm fl (.nan m) (.nan n)) ∧
         quiet [n] (f.add rm fl (.nan n) (.inf m)) ∧ quiet [n] (f.mul rm fl (.inf m) (.nan n)) ∧
         quiet [n] (f.mul rm fl (.nan n) a) ∧ quiet [n] (f.mul rm fl a (.nan n)) ∧ quiet [m, n] (f.mul rm fl (.nan m) (.nan n)) ∧
         quiet [n] (f.div rm fl (.nan n) a) ∧ quiet [n] (f.div rm fl a (.nan n)) ∧ quiet [m, n] (f.div rm fl (.nan m) (.nan n)) ∧
         quiet [n] (f.sqrt rm fl (.nan n)) ∧ quiet [n] (f.rint rm fl (.nan n))) ∧
     (∀ x < 2 ^ f.width, ∀ y < 2 ^ f.width,
       let a := f.read fl x
       let b := f.read fl y
       let code := fun (c : Nat) (v : FVal) => if v.isFin = true ∧ v.mag = 0 then signBit f v.neg else c
       let below := fun (v u : FVal) => (v = .inf true ∧ u ≠ .inf true) ∨ (u = .inf false ∧ v ≠ .inf false) ∨
         (v.isFin = true ∧ u.isFin = true ∧ (v.rat < u.rat ∨ (v.mag = 0 ∧ u.mag = 0 ∧ v.neg = true ∧ u.neg = false)))
       let nv : Flags := if a = .nan true ∨ b = .nan true then fNV else 0
       ∀ isMax prop : Bool,
         let r := f.minmax isMax prop fl x y
         r.flags = nv ∧
         (a.isNan = true → b.isNan = true → r.bits = f.qnan) ∧
         (a.isNan = true → b.isNan = false → r.bits = if prop then f.qnan else code y b) ∧
         (a.isNan = false → b.isNan = true → r.bits = if prop then f.qnan else code x a) ∧
         (a.isNan = false → b.isNan = false →
           (isMax = true → (below a b → r.bits = code y b) ∧ (¬ below a b → r.bits = code x a)) ∧
           (isMax = false → (below b a → r.bits = code y b) ∧ (¬ below b a → r.bits = code x a)))) ∧
     (∀ x < 2 ^ f.width,
       let k := x % half
       let n := decide (half ≤ x)
       f.class_ x = if f.top < k then (if k < f.qnan then 8 else 9) else if k = f.top then (if n then 0 else 7)
         else if k = 0 then (if n then 3 else 4) else if k < 2 ^ f.fb then (if n then 2 else 5) else if n then 1 else 6) ∧
     (f ≠ .f64 →
       let T := fun (k : Nat) (a : FVal) => f.trans k fl a
       let once := fun (zero : Bool) (v : Rat) (r : FRes) => ∃ y, f.isValue .rne fl zero v y ∧ r = ⟨y.bits, 0⟩
       (∀ n, ∀ k < 8, quiet [n] (T k (.nan n))) ∧
       (∀ n, T 0 (.inf n) = ⟨signBit f n, 0⟩ ∧ T 1 (.inf n) = (if n then none_ else ⟨0, 0⟩) ∧
         T 2 (.inf n) = (if n then ⟨0, 0⟩ else ⟨f.infCode false, 0⟩) ∧ T 3 (.inf n) = (if n then none_ else ⟨f.infCode false, 0⟩) ∧
         once false (if n then 0 else 1) (T 4 (.inf n)) ∧ once n (if n then -1 else 1) (T 5 (.inf n)) ∧
         T 6 (.inf n) = none_ ∧ T 7 (.inf n) = none_) ∧
       ∀ a : FVal, a.isFin = true →
         (a.mag = 0 → T 0 a = ⟨f.infCode a.neg, fDZ⟩ ∧ T 1 a = ⟨f.infCode a.neg, fDZ⟩ ∧ T 3 a = ⟨f.infCode true, fDZ⟩ ∧
           once false (1 / 2) (T 4 a) ∧ T 5 a = ⟨signBit f a.neg, 0⟩ ∧ T 6 a = ⟨signBit f a.neg, 0⟩ ∧ once false 1 (T 7 a)) ∧
         (a.mag ≠ 0 → once a.neg (1 / a.rat) (T 0 a) ∧ (a.neg = true → T 1 a = none_ ∧ T 3 a = none_) ∧
           (a.neg = false → ∃ y, f.isRound .rne fl false (fun q => cmpRat (1 / a.mag) (q * q)) y ∧ T 1 a = ⟨y.bits, 0⟩)) ∧
         ∀ k : Int, (a.rat = (k : Rat) → once false ((2 : Rat) ^ k) (T 2 a)) ∧ (a.rat = (2 : Rat) ^ k → once false (k : Rat) (T 3 a))))

/-- R134 to R137: the conversions of every active lane. CVTB and VAMAX read the lane's block of eight. How an immediate is read as a narrow source is
the model's choice (notes/assumptions/31.md). R53 to R56, R58, R59, R61, R134 to R137: what the results of LaneConversions are. A conversion gives the
exact value of its source rounded once: to f64, f32, f16 or bf16 as R48 and R46, to a narrow format as R55, to an integer as R53; CVTB takes the scale
of R59 and rounds or clamps each element; CVTX multiplies and rounds once; VAMAX gives the greatest magnitude. That an element which clamps raises
ISAT alone, and that an integer which its new integer type cannot hold wraps, or saturates with ISAT, are the model's choices
(notes/assumptions/100.md, 116.md). -/
def Obligations.LaneConversions : Prop :=
  (∀ (s : State) (g : Gang), s.issuing g → ∀ w : LaneOp,
     let act := g.active s.cells w
     let f := Ty.fmt w.ty
     let rm := g.rmOf w.rm
     let fl := g.flushOf w.dm
     let from_ := Ty.ofCode w.fn.toNat
     let src := fun l => s.srcCvt g l from_ rm w.imm w.sa
     let flt := fun l => s.srcFlt g l f rm w.imm w.sa
     let flt0 := fun l => s.srcFlt g l f .rne w.imm w.sa
     let block := fun (l : Nat) => act.filter fun k => k / 8 = l / 8
     let elems := (MFmt.ofCode w.fn.toNat).getD .i8
     (s.legal g 0x40 w → (∀ l ∈ act, (src l).2 = false) → s.lanesGive (.cvt w) g w (w.ty.width = 64) fun l =>
       let r := convertTo from_ w.ty rm (g.satOf w.sm) fl (src l).1
       ⟨extendTo w.ty r.bits, r.flags⟩) ∧
     (s.legal g 0x41 w → (∀ l ∈ act, (flt l).2 = false) → s.lanesGive (.cvtb w) g w false fun l =>
       blockScale f elems rm (g.satOf w.sm) fl ((block l).map fun k => (flt k).1) (flt l).1) ∧
     (s.legal g 0x42 w → (∀ l ∈ act, (s.srcInt g l 32 w.imm w.sa).2 = false ∧ (s.srcInt g l 32 w.imm w.sb).2 = false) →
       s.lanesGive (.cvtx w) g w (w.ty.width = 64) fun l =>
         let r := expandElem f elems rm fl (s.srcInt g l 32 w.imm w.sa).1 (s.srcInt g l 32 w.imm w.sb).1
         ⟨extendTo w.ty r.bits, r.flags⟩) ∧
     (s.legal g 0x43 w → (∀ l ∈ act, (flt0 l).2 = false) → s.lanesGive (.vamax w) g w (w.ty.width = 64) fun l =>
       let r := blockMax f fl ((block l).map fun k => (flt0 k).1)
       ⟨extendTo w.ty r.bits, r.flags⟩)) ∧
  (∀ rm, rm ≠ Rm.dyn → ∀ satm fl : Bool,
     (∀ (src dst : Ty) (x : Nat), x < 2 ^ src.width →
       let a := Ty.source src fl x
       let r := convertTo src dst rm satm fl x
       let lo := intMin dst.signed dst.width
       let hi := intMax dst.signed dst.width
       let into := fun (v : Int) (nx : Bool) =>
         r = if lo ≤ v ∧ v ≤ hi then ⟨wrapN dst.width v, if nx then fNX else 0⟩
           else if satm then ⟨wrapN dst.width (if v < lo then lo else hi), fISAT⟩ else ⟨wrapN dst.width v, 0⟩
       (∀ f, Ty.fmt? src = some f → src.binary = false →
         let k := x % 2 ^ (f.width - 1)
         let n := decide (2 ^ (f.width - 1) ≤ x)
         (k < f.top → a.isFin = true ∧ a.neg = n ∧ a.mag = f.mag k) ∧ (f.top ≤ k → a = if src = .e5m2 ∧ k = f.top then .inf n else .nan false)) ∧
       (src.binary = true → a = (Ty.fmt src).read fl x) ∧
       (Ty.fmt? src = none → a.isFin = true ∧ a.rat = (Ty.int src x : Rat)) ∧
       (∀ f, Ty.fmt? dst = some f → dst.binary = true →
         (a.isFin = true → f.isValue rm fl a.neg a.rat r) ∧ (∀ n, a = .inf n → r = ⟨f.infCode n, 0⟩) ∧
         ∀ n, a = .nan n → r = ⟨f.qnan, if n then fNV else 0⟩) ∧
       (∀ f, Ty.fmt? dst = some f → dst.binary = false →
         (a.isFin = true → if a.mag = 0 then r = ⟨signBit f a.neg, 0⟩ else f.isNarrow rm satm a.neg (cmpRat a.mag) r) ∧
         (∀ n, a = .inf n → r =
           ⟨if dst = .e4m3 ∧ satm = false then signBit f n + 0x7F else if dst = .e5m2 ∧ satm = false then signBit f n + 0x7C else f.maxCode n,
             if dst = .e5m2 then 0 else fNV⟩) ∧
         ∀ n, a = .nan n → r =
           ⟨if dst = .e4m3 then 0x7F else if dst = .e5m2 then 0x7E else 0, if n = true ∨ dst = .e2m3 ∨ dst = .e2m1 then fNV else 0⟩) ∧
       (Ty.fmt? dst = none →
         (Ty.fmt? src = none → into (Ty.int src x) false) ∧
         ((Ty.fmt? src).isSome → (a.isFin = true → ∃ k nx, intRounds rm a.neg a.mag k nx ∧ into (if a.neg then -(k : Int) else k) nx) ∧
           (∀ n, a = .inf n → r = ⟨wrapN dst.width (if n then lo else hi), fNV⟩) ∧ ∀ n, a = .nan n → r = ⟨0, fNV⟩))) ∧
     (∀ f ∈ [Fmt.f16, .bf16, .f32], ∀ (block : List Nat), block ≠ [] → (∀ x ∈ block, x < 2 ^ f.width) →
       let vals := block.map (f.read fl)
       (∀ e ∈ [(MFmt.e4m3, (8 : Int), 0x7F), (.e3m2, 4, 0), (.e2m3, 2, 0), (.e2m1, 2, 0), (.bx8, 6, 0x80)], ∀ x ∈ block,
         let r := blockScale f e.1 rm satm fl block x
         let v := f.read fl x
         ((∃ y ∈ vals, y.isFin = false) → r = ⟨0xFF00 + e.2.2, fNV⟩) ∧
         ((∀ y ∈ vals, y.isFin = true) → ∃ scale code flags,
           r = ⟨scale * 256 + code, flags⟩ ∧ ((∀ y ∈ vals, y.mag = 0) → scale = 127) ∧
           (∀ l : Int, (∃ y ∈ vals, (2 : Rat) ^ l ≤ y.mag) → (∀ y ∈ vals, y.mag < (2 : Rat) ^ (l + 1)) →
             (scale : Int) = if l - e.2.1 + 127 < 0 then 0 else if 254 < l - e.2.1 + 127 then 254 else l - e.2.1 + 127) ∧
           let y := v.mag * (2 : Rat) ^ ((127 : Int) - scale)
           (e.1 = .bx8 → ∃ k nx, intRounds rm v.neg y k nx ∧
             code = wrapN 8 (if v.neg then -(min k 127 : Nat) else (min k 127 : Nat)) ∧ flags = if 127 < k then fISAT else if nx then fNX else 0) ∧
           ∀ t, e.1.flt = some t → if y = 0 then code = signBit t v.neg ∧ flags = 0 else
             ∃ z, t.isNarrow rm satm v.neg (cmpRat y) z ∧ code = z.bits ∧ flags = if satm then z.flags &&& ~~~ fOV else z.flags)) ∧
       (∀ t c scale : Nat, t < 7 →
         let m := (MFmt.ofCode t).getD .i8
         let r := expandElem f m rm fl c scale
         let is := fun (zero : Bool) (v : Rat) => f.isValue rm fl zero (v * (2 : Rat) ^ ((scale % 256 : Nat) - (127 : Int))) r
         (scale % 256 = 255 ∨ (t = 6 ∧ c % 256 = 0x80) → r = ⟨f.qnan, fNV⟩) ∧
         (scale % 256 ≠ 255 → ¬ (t = 6 ∧ c % 256 = 0x80) →
           (t = 0 ∨ t = 6 → is false (sext 8 c : Int)) ∧ (t = 1 → is false (sext 4 c : Int)) ∧
           ∀ q, m.flt = some q →
             let k := c % 2 ^ (q.width - 1)
             let n := decide (2 ^ (q.width - 1) ≤ c % 2 ^ q.width)
             (q.top ≤ k → r = ⟨f.qnan, 0⟩) ∧ (k < q.top → is n (if n then -q.mag k else q.mag k)))) ∧
       let r := blockMax f fl block
       ((∃ y ∈ vals, y.isNan = true) → r = ⟨f.qnan, if FVal.nan true ∈ vals then fNV else 0⟩) ∧
       ((∀ y ∈ vals, y.isNan = false) → ∃ k ≤ f.top, r = ⟨k, 0⟩ ∧ ((∃ y ∈ vals, y.isFin = false) → k = f.top) ∧
         ((∀ y ∈ vals, y.isFin = true) → k < f.top ∧ (∀ y ∈ vals, y.mag ≤ f.mag k) ∧ ∃ y ∈ vals, y.mag = f.mag k))))

/-- R138 to R142: VMOV copies; VPERM and VBCAST take the value of the lane that b names; VREDS gives every active lane the combination of all of them
and VSCAN of those before it; VVOTE asks about all of them; VPOP moves predicates. R140: over integers a reduction does not depend on the shape of its
tree: VREDS gives every active lane the sum modulo the type, the least, the greatest, and the bitwise combinations of the values of all active lanes,
and VSCAN of those before it, or its identity where there are none. Over floating types a combination is one rounded sum, or FMIN or FMAX; that a
single value passes a scan unchanged is the model's choice (notes/assumptions/103.md). -/
def Obligations.LaneMoves : Prop :=
  (∀ (s : State) (g : Gang), s.issuing g → ∀ w : LaneOp,
     let act := g.active s.cells w
     let rm := g.rmOf w.rm
     let fl := g.flushOf w.dm
     let wide := w.ty.width
     let n32 := fun (x : Src) (l : Nat) => s.srcInt g l 32 w.imm x
     let val := fun (l : Nat) => s.srcTy g l w.ty .rne w.imm w.sa
     let named := fun l => (n32 w.sb l).1 % 32
     let part := fun (l : Nat) => s.srcTy g l w.ty rm w.imm w.sa
     let op := w.fn.toNat % 8
     let f := combine w.ty op rm fl
     let out := fun (_ : Nat) (r : FRes) => (⟨extendTo w.ty r.bits, r.flags⟩ : FRes)
     let votes := fun l => (n32 w.sa l).1
     let clean := ∀ l ∈ act, (n32 w.sa l).2 = false
     (s.legal g 0x60 w → (∀ l ∈ act, (val l).2 = false) → s.lanesGive (.vmov w) g w (wide = 64) fun l => ⟨extendTo w.ty (val l).1, 0⟩) ∧
     ((∀ l ∈ act, (n32 w.sb l).2 = false ∧ (val (named l)).2 = false) →
       (s.legal g 0x61 w → s.lanesGive (.vperm w) g w (wide = 64) fun l => ⟨extendTo w.ty (val (named l)).1, 0⟩) ∧
       (s.legal g 0x62 w → s.lanesGive (.vbcast w) g w (wide = 64) fun l => ⟨extendTo w.ty (val (named l)).1, 0⟩)) ∧
     ((∀ l ∈ act, (part l).2 = false) →
       let given := fun l => if l ∈ act then some (⟨(part l).1, 0⟩ : FRes) else none
       (s.legal g 0x63 w → s.lanesGive (.vreds w) g w (wide = 64) fun l => out l ((redTree f given 5 0).getD ⟨0, 0⟩)) ∧
       (s.legal g 0x64 w → s.lanesGive (.vscan w) g w (wide = 64) fun l =>
         let before := act.filter fun k => k < l ∨ (w.fn.toNat < 8 ∧ k = l)
         out l ((before.foldl (fun a k => combine? f a (given k)) none).getD ⟨scanId w.ty op, 0⟩))) ∧
     (clean → s.legal g 0x65 w →
       (w.fn = 0 → s.lanesGive (.vvote w) g w false fun _ => ⟨if ∀ l ∈ act, votes l ≠ 0 then 1 else 0, 0⟩) ∧
       (w.fn = 1 → s.lanesGive (.vvote w) g w false fun _ => ⟨if ∃ l ∈ act, votes l ≠ 0 then 1 else 0, 0⟩) ∧
       (w.fn = 2 → ∀ m < 2 ^ 32, (∀ l < 32, m.testBit l = decide (l ∈ act ∧ votes l ≠ 0)) → s.lanesGive (.vvote w) g w false fun _ => ⟨m, 0⟩) ∧
       (w.fn = 3 → s.lanesGive (.vvote w) g w false fun _ => ⟨if ∀ l ∈ act, ∀ k ∈ act, votes l = votes k then 1 else 0, 0⟩)) ∧
     (clean → s.legal g 0x66 { w with fn := 0 } → s.lanesTest (.vpopSet w) g w (fun l => votes l ≠ 0) fun _ => 0) ∧
     (s.legal g 0x66 { w with fn := 1 } → s.lanesGive (.vpopGet w) g w false fun l => ⟨(g.lane l).p.toNat ||| 1, 0⟩) ∧
     (clean → s.legal g 0x66 { w with fn := 2 } →
       s.lanesDo (.vpopPut w) g w (fun l y => { y with p := BitVec.ofNat 8 (votes l ||| 1) }) (fun _ => []) fun _ => 0)) ∧
  (∀ (s : State) (g : Gang), s.issuing g → ∀ w : LaneOp,
     let act := g.active s.cells w
     let n := w.ty.width
     let v := fun (l : Nat) => (s.srcInt g l n w.imm w.sa).1
     let x := fun (l : Nat) => Ty.int w.ty (v l)
     let gives := fun (r : Nat) => s.lanesGive (.vreds w) g w (n = 64) fun _ => ⟨extendTo w.ty r, 0⟩
     let scans := fun (r : Nat → Nat) => s.lanesGive (.vscan w) g w (n = 64) fun l => ⟨extendTo w.ty (r l), 0⟩
     let before := fun (l : Nat) => act.filter fun k => k < l ∨ (w.fn.toNat < 8 ∧ k = l)
     let op := w.fn.toNat % 8
     let lo : Int := if w.ty.signed then -(2 ^ (n - 1) : Nat) else 0
     let hi : Int := if w.ty.signed then (2 ^ (n - 1) : Nat) - 1 else (2 ^ n : Nat) - 1
     (∀ t : Ty, t.binary = true → ∀ rm fl a b,
       let f := Ty.fmt t
       combine t 0 rm fl a b = f.add rm fl (f.read fl a) (f.read fl b) ∧
       combine t 1 rm fl a b = f.minmax false false fl a b ∧ combine t 2 rm fl a b = f.minmax true false fl a b ∧
       combine t 6 rm fl a b = f.minmax false true fl a b ∧ combine t 7 rm fl a b = f.minmax true true fl a b ∧
       scanId t 0 = 2 ^ (f.width - 1) ∧ scanId t 1 = f.top ∧ scanId t 6 = f.top ∧
       scanId t 2 = 2 ^ (f.width - 1) + f.top ∧ scanId t 7 = 2 ^ (f.width - 1) + f.top) ∧
     (∀ (f : Nat → Nat → FRes) (a b : FRes), combine? f none none = none ∧ combine? f (some a) none = some a ∧ combine? f none (some b) = some b ∧
       combine? f (some a) (some b) = some ⟨(f a.bits b.bits).bits, a.flags ||| b.flags ||| (f a.bits b.bits).flags⟩) ∧
     (w.ty.binary = false → s.legal g 0x64 w → act ≠ [] → (∀ l ∈ act, (s.srcInt g l n w.imm w.sa).2 = false) →
       (op = 0 → scans fun l => wrapN n ((before l).map x).sum) ∧
       (op = 1 → ∀ r, (∀ l ∈ act, (before l = [] → r l = wrapN n hi) ∧ ∀ k ∈ before l, (∀ j ∈ before l, x k ≤ x j) → r l = v k) → scans r) ∧
       (op = 2 → ∀ r, (∀ l ∈ act, (before l = [] → r l = wrapN n lo) ∧ ∀ k ∈ before l, (∀ j ∈ before l, x j ≤ x k) → r l = v k) → scans r) ∧
       (op = 3 → ∀ r, (∀ l ∈ act, r l < 2 ^ n ∧ ∀ j < n, (r l).testBit j = decide (∀ k ∈ before l, (v k).testBit j = true)) → scans r) ∧
       (op = 4 → ∀ r, (∀ l ∈ act, r l < 2 ^ n ∧ ∀ j < n, (r l).testBit j = decide (∃ k ∈ before l, (v k).testBit j = true)) → scans r) ∧
       (op = 5 → scans fun l => (before l).foldl (fun r k => r ^^^ v k) 0)) ∧
     (w.ty.binary = false → s.legal g 0x63 w → act ≠ [] → (∀ l ∈ act, (s.srcInt g l n w.imm w.sa).2 = false) →
       (w.fn = 0 → gives (wrapN n (act.map x).sum)) ∧
       (w.fn = 1 → ∀ k ∈ act, (∀ l ∈ act, x k ≤ x l) → gives (v k)) ∧
       (w.fn = 2 → ∀ k ∈ act, (∀ l ∈ act, x l ≤ x k) → gives (v k)) ∧
       (w.fn = 3 → ∀ r, (∀ j < n, r.testBit j = decide (∀ l ∈ act, (v l).testBit j = true)) → r < 2 ^ n → gives r) ∧
       (w.fn = 4 → ∀ r, (∀ j < n, r.testBit j = decide (∃ l ∈ act, (v l).testBit j = true)) → r < 2 ^ n → gives r) ∧
       (w.fn = 5 → gives (act.foldl (fun r l => r ^^^ v l) 0))))

/-- R86, R87, R24: a lane word that breaks a rule of its encoding, or names a register the gang was not granted, raises ILLEGAL for the lanes that its
cells' masks name (the model's choice of "their lanes", notes/assumptions/22.md); no lane performs. R288, R151: of a word whose lanes depend on their
own sources only, the lanes with clean sources perform, and the others raise POISON and stay pending; a word that combines lanes performs in none of
them. Shown for VADD and for VREDS. R150, R31, R88: a lane memory word of which an active lane is out of bounds, or stores through a read-only
segment, raises SBOUND for those lanes; one with a misaligned lane raises ALIGN. No lane performs, and all the active lanes are pending. That TADDR
names BASE plus the offset is the model's choice (notes/assumptions/24.md). -/
def Obligations.LaneTraps : Prop :=
  (∀ (s : State) (g : Gang), s.issuing g → ∀ (i : Instr) (opc : Nat) (w : LaneOp), laneInstr opc w = some i → ¬ s.legal g opc w →
     s.lanesRaise i g 1 ((List.range 32).filter fun l => s.cells.contains (l / 4) && g.laneOn l)
       ((List.range 32).filter fun l => s.cells.contains (l / 4) && g.laneOn l) 0) ∧
  (∀ (s : State) (g : Gang), s.issuing g → g.priv = false → (s.ctxOf g).tvec ≠ 0 → ∀ w : LaneOp,
     let act := g.active s.cells w
     let n := w.ty.width
     let bad := act.filter fun l => (s.srcInt g l n w.imm w.sa).2 || (s.srcInt g l n w.imm w.sb).2
     let ok := act.filter fun l => !bad.contains l
     let badA := act.filter fun l => (s.srcInt g l n w.imm w.sa).2
     let raised := fun (i : Instr) (pend who : List Nat) (P : State → LaneFrame → Prop) =>
       ∃ t h f, exec i s = .next t ∧ Tbl.at? t.gangs s.cur = some h ∧ h.priv = true ∧ h.spc = (s.ctxOf g).tvec ∧ h.frame = some f ∧
         h.trap.cause.extractLsb' 0 4 = 6 ∧ h.trap.tlpc = g.lpcOf s.cells ∧ f.cells = g.cells ∧
         (∀ l < 32, h.trap.tmask.getLsbD l = pend.contains l) ∧ (∀ l < 32, h.trap.clanes.getLsbD l = who.contains l) ∧
         t.mem = s.mem ∧ t.acc = s.acc ∧ P t f
     (s.legal g 0x00 w → bad ≠ [] → raised (.vadd w) bad bad fun _ f =>
       (∀ l, l ∉ ok → Tbl.at? f.lanes l = Tbl.at? g.lanes l) ∧
       ∀ l ∈ ok, Tbl.at? f.lanes l = (Tbl.at? g.lanes l).map fun y => y.given w.dst (n = 64)
         (extendTo w.ty (narrow w.ty.signed n (g.satOf w.sm)
           (Ty.int w.ty (s.srcInt g l n w.imm w.sa).1 + Ty.int w.ty (s.srcInt g l n w.imm w.sb).1)).bits)) ∧
     (s.legal g 0x63 w → w.ty.binary = false → badA ≠ [] → raised (.vreds w) act badA fun t f => f.lanes = g.lanes ∧ t.store = s.store)) ∧
  (∀ (s : State) (g : Gang), s.issuing g → ∀ w : LaneOp,
     let act := g.active s.cells w
     let n := accBytes w.ty
     let checks := fun (i : Instr) (opc sg : Nat) (store : Bool) =>
       let x := g.seg sg
       let o := s.laneOff g w (decide (sg = 0))
       let top := fun l => if sg = 1 ∧ 0x100000 ≤ o l then 0x100000 + s.regsOf g * 128 else x.limit
       let beyond := act.filter fun l => top l < o l + n || (store && x.ros)
       let odd := act.filter fun l => (x.baseN + o l) % n ≠ 0
       let addr := fun (ls : List Nat) => (x.baseN + o ((ls.head?).getD 0)) % 2 ^ 64
       s.legal g opc w →
       (beyond ≠ [] → (∀ l ∈ act, s.frozenAtOff g sg (o l) n = false) → s.lanesRaise i g 4 act beyond (addr beyond)) ∧
       (beyond = [] → odd ≠ [] → (∀ l ∈ act, s.frozenAtOff g sg (o l) n = false) → s.lanesRaise i g 5 act odd (addr odd))
     checks (.ldv w) 0xA0 w.fn.toNat false ∧ checks (.ldpk w) 0xA2 0 false ∧ checks (.ldmap w) 0xAD 5 false ∧
     checks (.stv w) 0xA1 w.fn.toNat true ∧ checks (.stpk w) 0xA3 0 true ∧ checks (.stnt w) 0xA4 0 true ∧ checks (.redmc w) 0xA7 0 true ∧
     checks (.atom w) 0xA5 (w.fn.toNat / 8) true ∧ checks (.atomn w) 0xA6 (w.fn.toNat / 8) true)

/-- R143, R17: LBRA takes a cell when its source is not 0 in an active lane, LJMP, LCALL and LRET when it has one; taken cells go to their target, the
others to the next word, and the two part. LCALL gives its active lanes the word after it, and LRET sends each cell where its lowest active lane says.
R144, R19: LIF pushes the mask and leaves the lanes where the guard holds and the source is not 0; LELSE takes those of the pushed mask that were not
active, and LENDIF pops it; a ninth LIF, and LELSE or LENDIF without one, raise ILLEGAL and change nothing. -/
def Obligations.LaneControl : Prop :=
  (∀ (s : State) (g : Gang), s.issuing g → ∀ w : LaneOp,
     let act := g.active s.cells w
     let src := fun (l : Nat) => s.srcInt g l 32 w.imm w.sa
     let clean := ∀ l ∈ act, (src l).2 = false
     let lpc := g.lpcOf s.cells
     let target := ((lpc : Int) + sext 20 w.imm.toNat) % 2 ^ 48
     let withLane := (List.range 8).filter fun c => act.any fun l => l / 4 = c
     let nonzero := (List.range 8).filter fun c => act.any fun l => l / 4 = c && (src l).1 ≠ 0
     let rest := fun (taken : List Nat) => s.cells.filter fun c => !taken.contains c
     let parts := fun (taken : List Nat) (c : Nat) (x : Cell) =>
       if c ∈ taken then { x.at_ target.toNat with group := (taken.head?).getD 0 }
       else if c ∈ s.cells then { x.at_ (lpc + 1) with group := ((rest taken).head?).getD 0 } else x
     let dest := fun (c : Nat) => (src (((act.filter fun l => l / 4 = c).head?).getD 0)).1
     (clean → s.legal g 0x80 w → s.cellsDo (.lbra w) g (parts nonzero) fun t _ => s.sameBytes t) ∧
     (s.legal g 0x81 w → s.cellsDo (.ljmp w) g (parts withLane) fun t _ => s.sameBytes t) ∧
     (s.legal g 0x82 w → ∃ t h, exec (.lcall w) s = .next t ∧ Tbl.at? t.gangs s.cur = some h ∧
       h = { g with lanes := h.lanes, cells := h.cells, shared := h.shared, skipL := false } ∧
       (∀ c, Tbl.at? h.cells c = (Tbl.at? g.cells c).map (parts withLane c)) ∧
       (∀ l, Tbl.at? h.lanes l = (Tbl.at? g.lanes l).map fun y => if l ∈ act then y.given w.dst false ((lpc + 1) % 2 ^ 32) else y) ∧
       (∀ l ∈ act, ∀ k ∈ dstRegs w.dst false ((lpc + 1) % 2 ^ 32), t.readReg h k.1 l = (k.2, false)) ∧
       s.onlyRegisters t s.cur g act fun _ => dstRegs w.dst false ((lpc + 1) % 2 ^ 32)) ∧
     (clean → s.legal g 0x83 w → s.cellsDo (.lret w) g (fun c x =>
       if c ∈ withLane then { x.at_ (dest c) with group := (((withLane.filter fun d => dest d = dest c).head?).getD 0) }
       else if c ∈ s.cells then { x.at_ (lpc + 1) with group := ((rest withLane).head?).getD 0 } else x) fun t _ => s.sameBytes t)) ∧
  (∀ (s : State) (g : Gang), s.issuing g → ∀ w : LaneOp,
     let act := g.active s.cells w
     let src := fun (l : Nat) => s.srcInt g l 32 w.imm w.sa
     let live := s.cells.filter g.liveCell
     let full := live.filter fun c => 8 ≤ (g.cell c).stack.length
     let empty := live.filter fun c => (g.cell c).stack = []
     let on := fun (cells : List Nat) => (List.range 32).filter fun l => cells.contains (l / 4) && g.laneOn l
     let next := fun (f : Cell → Cell) (c : Nat) (x : Cell) =>
       if c ∈ s.cells then (if c ∈ live then f x else x).at_ (g.lpcOf s.cells + 1) else x
     let pops := fun (i : Instr) (opc : Nat) (f : Cell → BitVec 4 → List (BitVec 4) → Cell) => s.legal g opc w →
       (empty ≠ [] → s.lanesRaise i g 1 (on s.cells) (on empty) 0) ∧
       (empty = [] → s.cells.Nodup → s.cellsDo i g (next fun x => match x.stack with | top :: more => f x top more | [] => x) fun t _ => s.sameBytes t)
     (s.legal g 0x84 w →
       (full ≠ [] → s.lanesRaise (.lif w) g 1 (on s.cells) (on full) 0) ∧
       (full = [] → s.cells.Nodup → (∀ l ∈ act, (src l).2 = false) → ∀ m : Nat → BitVec 4,
         (∀ c ∈ live, ∀ k < 4, (m c).getLsbD k = ((g.cell c).mask.getLsbD k && g.guard w (4 * c + k) && decide ((src (4 * c + k)).1 ≠ 0) &&
           (match (g.cell c).pending with | some p => p.getLsbD k | none => true))) →
         s.cellsDo (.lif w) g (fun c => next (fun x => { x with stack := x.mask :: x.stack, mask := m c }) c) fun t _ => s.sameBytes t)) ∧
     pops (.lelse w) 0x85 (fun x top _ => { x with mask := top &&& ~~~ x.mask }) ∧
     pops (.lendif w) 0x86 fun x top more => { x with mask := top, stack := more })

/-- R18, R145, R146: a cell at LREGANG, LEND or LBARG waits while another with a live lane runs. Once all of these wait at LEND the block ends; once
they all wait at LREGANG or LEND, those at LREGANG go on, joined by address; once they all wait at one gang barrier or LEND, those at the barrier go
on apart, whether the last of them came to the barrier or to LEND. An arrival at a gang barrier that is bound at domain scope or wider waits for the
context's writes that other devices have not acknowledged (R253; that such a binding acts so is the model's choice, notes/assumptions/28.md and
96.md). R145, R147, R214, R419, R37: LEXIT ends its active lanes, and a cell that has no live lane left stops, which may let the cells at a gang
barrier go on; LYIELD and LNOP only go on; LWAITT raises ILLEGAL for a tag that is not granted (for the lanes of notes/assumptions/22.md), waits for a
COUNT of 0, and then goes on with every cell by itself; LTMARK goes on. -/
def Obligations.LaneWaits : Prop :=
  (∀ (s : State) (g : Gang), s.issuing g → ∀ w : LaneOp,
     let others := (List.range 8).filter fun c => g.liveCell c && !s.cells.contains c
     let parked := fun (r : CellRun) (x : Cell) => { x with run := r, pending := none, unpaid := false, wait := .none }
     let waits := fun (i : Instr) (r : CellRun) => (∃ c ∈ others, (g.cell c).run = .run) →
       s.cellsDo i g (fun c x => if c ∈ s.cells then parked r x else x) fun t _ => s.sameBytes t
     let member := fun (r : CellRun) (c : Nat) => g.liveCell c = true ∧ (if c ∈ s.cells then r else (g.cell c).run) = .regang
     let first := fun (r : CellRun) (c : Nat) => (((List.range 8).filter fun d =>
       (decide (g.liveCell d = true) && decide ((if d ∈ s.cells then r else (g.cell d).run) = .regang)) && (g.cell d).lpc = (g.cell c).lpc).head?).getD 0
     let joins := fun (i : Instr) (r : CellRun) => (∀ c < 8, (Tbl.at? g.cells c).isSome) →
       (∀ c ∈ others, (g.cell c).run = .regang ∨ (g.cell c).run = .lend) → (∃ c < 8, member r c) →
       s.cellsDo i g (fun c x =>
         if c < 8 ∧ member r c then { parked .run x with lpc := (x.lpc + 1) % 2 ^ 48, group := first r c }
         else if c ∈ s.cells then parked r x else x) fun t _ => s.sameBytes t
     let drained := ∀ c, Tbl.atD g.wcl c [] = []
     (s.legal g 0x87 w → waits (.lregang w) .regang ∧ joins (.lregang w) .regang) ∧
     (s.legal g 0x88 w → waits (.lend w) .lend ∧ joins (.lend w) .lend ∧
       ((∀ c ∈ others, (g.cell c).run = .lend) → ∃ t h, exec (.lend w) s = .next t ∧ Tbl.at? t.gangs s.cur = some h ∧ h.block = none ∧
         (∀ c < 8, ∃ x, Tbl.at? h.cells c = some x ∧ x.run = .idle ∧ x.stack = [] ∧ x.mask = 15) ∧ h.lanes = g.lanes ∧ h.queue = g.queue ∧
         s.onlyGang t s.cur)) ∧
     (s.legal g 0x88 w → (∀ c < 8, (Tbl.at? g.cells c).isSome) → ∀ n < 4, (∃ c ∈ others, (g.cell c).run = .barg n) →
       (∀ c ∈ others, (g.cell c).run = .barg n ∨ (g.cell c).run = .lend) →
       ∃ t h, exec (.lend w) s = .next t ∧ Tbl.at? t.gangs s.cur = some h ∧ h.lanes = g.lanes ∧ s.onlyCached t s.cur ∧
         (∀ c ∈ s.cells, Tbl.at? h.cells c = (Tbl.at? g.cells c).map (parked .lend)) ∧
         ∀ c ∈ others, (g.cell c).run = .barg n →
           ∃ x, Tbl.at? h.cells c = some x ∧ x.run = .run ∧ x.lpc = ((g.cell c).lpc + 1) % 2 ^ 48 ∧ x.group = c) ∧
     (s.legal g 0x8B w → drained → ∀ n, n = w.imm.toNat % 4 →
       let unpaid := 4 ≤ s.widest (s.asidOf g) 0 (s.isBar s.cur n) ∧ s.ctxWritesOut (s.asidOf g) = true
       (unpaid → ∃ t h, exec (.lbarg w) s = .next t ∧ Tbl.at? t.gangs s.cur = some h ∧ h = { g with cells := h.cells } ∧ s.onlyGang t s.cur ∧
         ∀ c, Tbl.at? h.cells c = (Tbl.at? g.cells c).map fun x => if c ∈ s.cells then { x with wait := .other } else x) ∧
       (¬ unpaid → (∃ c ∈ others, (g.cell c).run = .run) → ∃ t h, exec (.lbarg w) s = .next t ∧ Tbl.at? t.gangs s.cur = some h ∧
         (∀ c, Tbl.at? h.cells c = (Tbl.at? g.cells c).map fun x => if c ∈ s.cells then parked (.barg n) x else x) ∧ h.lanes = g.lanes ∧ s.onlyGang t s.cur) ∧
       (¬ unpaid → (∀ c < 8, (Tbl.at? g.cells c).isSome) → (∃ c < 8, g.liveCell c = true ∧ c ∈ s.cells) →
         (∀ c ∈ others, (g.cell c).run = .barg n ∨ (g.cell c).run = .lend) →
         ∃ t h, exec (.lbarg w) s = .next t ∧ Tbl.at? t.gangs s.cur = some h ∧ h.lanes = g.lanes ∧ s.onlyCached t s.cur ∧
           ∀ c < 8, g.liveCell c = true → (c ∈ s.cells ∨ (g.cell c).run = .barg n) →
             ∃ x, Tbl.at? h.cells c = some x ∧ x.run = .run ∧ x.lpc = ((g.cell c).lpc + 1) % 2 ^ 48 ∧ x.group = c))) ∧
  (∀ (s : State) (g : Gang), s.issuing g → ∀ w : LaneOp,
     let act := g.active s.cells w
     let lpc := g.lpcOf s.cells
     let next := fun (c : Nat) (x : Cell) => if c ∈ s.cells then x.at_ (lpc + 1) else x
     let stays := fun (c : Nat) => ∃ l < 32, l / 4 = c ∧ (g.lane l).exited = false ∧ l ∉ act
     let on := (List.range 32).filter fun l => s.cells.contains (l / 4) && g.laneOn l
     (s.legal g 0x8A w → s.cellsDo (.lyield w) g next fun t _ => s.onlyGang t s.cur) ∧
     (s.legal g 0x8C w → s.cellsDo (.lnop w) g next fun t _ => s.onlyGang t s.cur) ∧
     (s.legal g 0xD1 w → s.cellsDo (.ltmark w) g next fun t _ => s.sameBytes t) ∧
     (s.legal g 0x89 w → (∀ l < 32, (Tbl.at? g.lanes l).isSome) → (∃ c < 8, stays c ∧ (g.cell c).run = .run) →
       ∃ t h, exec (.lexit w) s = .next t ∧ Tbl.at? t.gangs s.cur = some h ∧ s.onlyTraced t s.cur ∧ h.block = g.block ∧
         (∀ l, Tbl.at? h.lanes l = (Tbl.at? g.lanes l).map fun y => if l ∈ act then { y with exited := true } else y) ∧
         (∀ c ∈ s.cells, stays c → Tbl.at? h.cells c = (Tbl.at? g.cells c).map (next c)) ∧
         (∀ c ∈ s.cells, c < 8 → ¬ stays c → ∀ x, Tbl.at? h.cells c = some x → x.run = .idle) ∧
         ∀ c, c ∉ s.cells → Tbl.at? h.cells c = Tbl.at? g.cells c) ∧
     (s.legal g 0x89 w → (∀ l < 32, (Tbl.at? g.lanes l).isSome) → (∀ c, ¬ stays c) →
       ∃ t h, exec (.lexit w) s = .next t ∧ Tbl.at? t.gangs s.cur = some h ∧ s.onlyTraced t s.cur ∧ h.block = none ∧
         ∀ l < 32, ∃ y, Tbl.at? h.lanes l = some y ∧ y.exited = true) ∧
     (s.legal g 0x89 w → (∀ l < 32, (Tbl.at? g.lanes l).isSome) → (∀ c < 8, (Tbl.at? g.cells c).isSome) → (∀ c ∈ s.cells, ¬ stays c) → ∀ n < 4,
       let others := (List.range 8).filter fun c => g.liveCell c && !s.cells.contains c
       (∃ c ∈ others, (g.cell c).run = .barg n) → (∀ c ∈ others, (g.cell c).run = .barg n ∨ (g.cell c).run = .lend) →
       ∃ t h, exec (.lexit w) s = .next t ∧ Tbl.at? t.gangs s.cur = some h ∧ s.sameBytes t ∧ h.block = g.block ∧
         (∀ l, Tbl.at? h.lanes l = (Tbl.at? g.lanes l).map fun y => if l ∈ act then { y with exited := true } else y) ∧
         ∀ c ∈ others, (g.cell c).run = .barg n →
           ∃ x, Tbl.at? h.cells c = some x ∧ x.run = .run ∧ x.lpc = ((g.cell c).lpc + 1) % 2 ^ 48 ∧ x.group = c) ∧
     (s.legal g 0xD0 w →
       (s.tagsOf g.team ≤ w.imm.toNat → s.lanesRaise (.lwaitt w) g 1 on on 0) ∧
       (w.imm.toNat < s.tagsOf g.team → ((s.team g.team).tag w.imm.toNat).count ≠ 0 →
         ∃ t h, exec (.lwaitt w) s = .next t ∧ Tbl.at? t.gangs s.cur = some h ∧ h = { g with cells := h.cells } ∧ s.onlyGang t s.cur ∧
           ∀ c, Tbl.at? h.cells c = (Tbl.at? g.cells c).map fun x => if c ∈ s.cells then { x with wait := .tags (2 ^ w.imm.toNat) } else x) ∧
       (w.imm.toNat < s.tagsOf g.team → ((s.team g.team).tag w.imm.toNat).count = 0 →
         ∃ t h, exec (.lwaitt w) s = .next t ∧ Tbl.at? t.gangs s.cur = some h ∧ h = { g with cells := h.cells, skipL := false } ∧ s.onlyCached t s.cur ∧
           ∀ c, Tbl.at? h.cells c = (Tbl.at? g.cells c).map fun x => if c ∈ s.cells then { x.at_ (lpc + 1) with group := c } else x)))

/-- R148 to R154, R158, R386: a load through G, S, D, K or M whose lanes pass their checks gives every active lane the bytes of its element as its
cell sees them, extended by type; LDPK reads G at the serialising point. Nothing else changes but where lines and translations are held. Of several
lines that the lanes find in copies older than memory, none may give way to another in the pass, since which one does is free. Elements in other
devices' memories are asked for there, the word waits for the answers, and takes them (R386). -/
def Obligations.LaneLoads : Prop :=
  ∀ (s : State) (g : Gang), s.issuing g → ∀ (w : LaneOp) (at_ : Nat → Target),
    let act := g.active s.cells w
    let n := accBytes w.ty
    let loads := fun (i : Instr) (opc sg : Nat) (val : Nat → List Byte × Bool) =>
      s.legal g opc w → s.reaches g w sg false .load at_ → nearby act at_ → (∀ l ∈ act, (val l).2 = false) →
      (opc = 0xA2 ∨ (sg = 0 ∨ sg = 3) ∧ s.steady (s.coreOf g) (s.asidOf g) n (act.filterMap fun l => (at_ l).addr) ∨
        sg ≠ 0 ∧ sg ≠ 3 ∧ s.unshared ∧ (∀ l ∈ act, ∀ k ∈ act, k < l → s.apart g w sg at_ l k) ∧ (sg = 2 → ∀ l ∈ act, (s.storeAddr g sg (at_ l)).isSome)) →
      s.lanesLoad i g w fun l => natOf (val l).1
    let asks := fun (i : Instr) (opc : Nat) =>
      let a := fun l => (at_ l).addr.getD 0
      let who := fun (l : Nat) => Asker.lane s.cur l
      s.legal g opc w → s.reaches g w 0 false .load at_ → far act at_ → act ≠ [] →
      ((∀ r ∈ s.requests, ∀ l, r.who ≠ who l) →
        ∃ es, lineRequests act a n es ∧ s.lanesAsk i g fun t => s.sameBytes t ∧ s.asked t g 0 (es.map fun e => (who e.1, e.2)) masked) ∧
      ∀ es, lineRequests act a n es → ∀ r : Nat × Nat × Nat → Request, (∀ e ∈ es, s.findReq (who e.1) e.2.1 e.2.2 = some (r e)) →
        ((∃ e ∈ es, (r e).answer = none) → s.lanesAsk i g fun t => s.sameBytes t ∧ t.requests = s.requests ∧ t.outbox = s.outbox) ∧
        ∀ (bs : Nat × Nat × Nat → List Byte) (bad : Nat × Nat × Nat → BitVec 128),
          (∀ e ∈ es, (r e).answer = some (bs e, bad e) ∧ (bs e).length = e.2.2) →
          (∀ e ∈ es, ∀ l ∈ act, a l / 128 = e.2.1 / 128 → ∀ k < n, (bad e).getLsbD (a l % 128 + k) = false) →
          (∀ e ∈ es, ∀ f ∈ es, e ≠ f → (r e).tag ≠ (r f).tag) →
          let wide : Bool := w.ty.width = 64
          ∃ (t : State) (h : Gang) (val : Nat → Nat), exec i s = .next t ∧ Tbl.at? t.gangs s.cur = some h ∧ g.wentOn h s.cells ∧ h.mode = g.mode ∧ t.mem = s.mem ∧
            (∀ l ∈ act, ∀ e ∈ es, a l / 128 = e.2.1 / 128 → val l = extendTo w.ty
              (natOf (wcLoad (Tbl.atD g.wcl (l / 4) []) (a l) (((bs e).drop (a l - e.2.1)).take n) false).1)) ∧
            (∀ l, Tbl.at? h.lanes l = (Tbl.at? g.lanes l).map fun y => if l ∈ act then y.given w.dst wide (val l) else y) ∧
            (∀ l ∈ act, ∀ k ∈ dstRegs w.dst wide (val l), t.readReg h k.1 l = (k.2, false)) ∧
            ∀ x, x ∈ t.requests ↔ x ∈ s.requests ∧ ∀ e ∈ es, x.tag ≠ (r e).tag
    (w.fn = 0 → asks (.ldv w) 0xA0) ∧ asks (.ldpk w) 0xA2 ∧
    (w.fn.toNat < 4 → loads (.ldv w) 0xA0 w.fn.toNat fun l => s.found g l w.fn.toNat n (at_ l)) ∧
    loads (.ldmap w) 0xAD 5 (fun l => s.found g l 5 n (at_ l)) ∧
    loads (.ldpk w) 0xA2 0 fun l =>
      let a := (at_ l).addr.getD 0
      wcLoad (Tbl.atD g.wcl (l / 4) []) a (s.memBytes (s.asidOf g) a n).1 (poisoned s.memBad a n)

/-- R148 to R156, R158, R282, R386: a store whose lanes pass their checks stores each active lane's data of the type's width, in lane order, and no
other byte changes; through G with WC set, and STNT, the bytes enter the cell's buffers, where its own loads see them, and memory is unchanged. What
STMAP stores where the context owns nothing is discarded. A store to a line that was written under another key slot leaves the rest of the line as the
context finds it (R404). Stores to another device's memory are sent there (R386), a line's at once (R162). -/
def Obligations.LaneStores : Prop :=
  ∀ (s : State) (g : Gang), s.issuing g → ∀ (w : LaneOp) (at_ : Nat → Target),
    let act := g.active s.cells w
    let n := accBytes w.ty
    let bs := fun l => bytesOf n (s.dataSrc w g l).1
    let clean := ∀ l ∈ act, (s.dataSrc w g l).2 = false
    let toG := fun (i : Instr) (opc : Nat) => s.legal g opc w → s.reaches g w 0 true .store at_ → nearby act at_ → clean →
      ((g.seg 0).wc = false → (∀ c, ∀ y ∈ Tbl.atD g.wcl c [], ∀ l ∈ act, y.line ≠ (at_ l).addr.getD 0 / 128) →
        ∃ t h, exec i s = .next t ∧ Tbl.at? t.gangs s.cur = some h ∧ g.stored h s.cells ∧ s.onlyAccessed t s.cur ∧ t.teams = s.teams ∧
          t.store = s.store ∧ t.storeBad = s.storeBad ∧ s.storedForBy t (s.asidOf g) act (fun l => (at_ l).addr) bs ∧
          poisonKept s.memBad t.memBad act (fun l => (at_ l).addr) n)
    let buffers := fun (i : Instr) (opc : Nat) => s.legal g opc w → s.reaches g w 0 true .store at_ → nearby act at_ → clean →
      (∀ c, Tbl.atD g.wcl c [] = []) →
      ∃ t h, exec i s = .next t ∧ Tbl.at? t.gangs s.cur = some h ∧ g.stored h s.cells ∧ s.onlyCached t s.cur ∧
        ∀ l ∈ act, (∀ k ∈ act, l < k → k / 4 = l / 4 →
            (at_ l).addr.getD 0 + n ≤ (at_ k).addr.getD 0 ∨ (at_ k).addr.getD 0 + n ≤ (at_ l).addr.getD 0) →
          ∀ old : List Byte, old.length = n → wcOverlay (Tbl.atD h.wcl (l / 4) []) ((at_ l).addr.getD 0) old = bs l
    let toStore := fun (i : Instr) (opc sg : Nat) => s.legal g opc w → s.reaches g w sg true .store at_ → clean → s.unshared →
      (∀ l ∈ act, s.frozenAtOff g sg (s.laneOff g w false l) n = false ∧ (sg = 5 → s.mReadOnly (s.asidOf g) (s.laneOff g w false l) = false)) →
      ∃ t h, exec i s = .next t ∧ Tbl.at? t.gangs s.cur = some h ∧ g.stored h s.cells ∧ h.wcl = g.wcl ∧ s.onlyStore t s.cur ∧
        (∀ x, t.store.get x = (act.foldl (fun (m : Mem) l => match s.storeAddr g sg (at_ l) with
          | some a => m.write a (bytesOf n (({ s with store := m } : State).dataSrc w g l).1)
          | none => m) s.store).get x) ∧
        poisonKept s.storeBad t.storeBad act (fun l => s.storeAddr g sg (at_ l)) n
    let sends := fun (i : Instr) (opc : Nat) => s.legal g opc w → s.reaches g w 0 true .store at_ → far act at_ → clean → (g.seg 0).wc = false →
      (∀ c, Tbl.atD g.wcl c [] = []) →
      let a := fun l => (at_ l).addr.getD 0
      let stale := fun (r : Request) => r.ptype = 0 && act.any fun l => (match r.who with
        | .lane u _ => u = s.cur
        | _ => false) && r.addr / 128 = a l / 128
      ∃ t h es, exec i s = .next t ∧ Tbl.at? t.gangs s.cur = some h ∧ g.stored h s.cells ∧ s.sameBytes t ∧ lineRequests act a n es ∧
        ({ s with requests := s.requests.filter fun r => !stale r } : State).asked t g 1 (es.map fun e => (.lane s.cur e.1, e.2)) fun e x =>
          ∀ i < 128, ((packetWrites x).find? fun p => p.1 = i).map (·.2) =
            (act.reverse.find? fun l => a l ≤ 128 * (e.2.1 / 128) + i && 128 * (e.2.1 / 128) + i < a l + n).map fun l =>
              ((bs l)[128 * (e.2.1 / 128) + i - a l]?).getD 0
    (w.fn = 0 → sends (.stv w) 0xA1) ∧ sends (.stpk w) 0xA3 ∧
    (w.fn = 0 → toG (.stv w) 0xA1) ∧ toG (.stpk w) 0xA3 ∧ ((g.seg 0).wc = true → w.fn = 0 → buffers (.stv w) 0xA1) ∧
    ((g.seg 0).wc = true → buffers (.stpk w) 0xA3) ∧ buffers (.stnt w) 0xA4 ∧
    (w.fn = 1 ∨ w.fn = 2 → toStore (.stv w) 0xA1 w.fn.toNat) ∧ toStore (.stmap w) 0xAE 5

/-- R152, R159, R160, R386: an atomic whose lanes pass their checks updates each active lane's element in lane order, each as the lanes before it left
it, by the operation of FN[2:0]: integers wrap, and floating sums round to nearest even. ATOM gives every lane the value before its update. Updates of
other devices' memories are asked for there, and the word waits (R386; the coding of OP is the model's choice, notes/assumptions/34.md). A lane's
operands are read in its turn, as the lanes before it left them (R153). -/
def Obligations.LaneAtomics : Prop :=
  ∀ (s : State) (g : Gang), s.issuing g → ∀ (w : LaneOp) (at_ : Nat → Target),
    let act := g.active s.cells w
    let n := accBytes w.ty
    let op := w.fn.toNat % 8
    let b := fun l => s.srcTy g l w.ty .rne w.imm w.sb
    let c := fun l => if op = 7 then s.srcTy g l w.ty .rne w.imm w.sc else (0, false)
    let update := fun (old x y : Nat) =>
      if op = 6 then x
      else if op = 7 then (if old = x then y else old)
      else if w.ty.binary then (combine w.ty op .rne false old x).bits
      else
        let p := Ty.int w.ty old
        let q := Ty.int w.ty x
        if op = 0 then (old + x) % 2 ^ w.ty.width
        else if op = 1 then (if q < p then x else old)
        else if op = 2 then (if p < q then x else old)
        else if op = 3 then old &&& x else if op = 4 then old ||| x else old ^^^ x
    let given := fun (_ : Mem) (l : Nat) => ((b l).1, (c l).1)
    let inTurn := fun (m : Mem) (l : Nat) =>
      let t : State := { s with store := m }
      ((t.srcTy g l w.ty .rne w.imm w.sb).1, if op = 7 then (t.srcTy g l w.ty .rne w.imm w.sc).1 else 0)
    let upTo := fun (src : Mem → Nat → Nat × Nat) (m : Mem) (a : Nat → Nat) (ls : List Nat) =>
      ls.foldl (fun (m : Mem) l => m.write (a l) (bytesOf n (update (natOf (m.read (a l) n)) (src m l).1 (src m l).2))) m
    let old := fun (src : Mem → Nat → Nat × Nat) (m : Mem) (a : Nat → Nat) (l : Nat) => natOf ((upTo src m a (act.filter (· < l))).read (a l) n)
    let gives := fun (ret : Bool) (t : State) (h : Gang) (v : Nat → Nat) =>
      let wide : Bool := w.ty.width = 64
      let regs := fun (l : Nat) => if ret then dstRegs w.dst wide (extendTo w.ty (v l)) else []
      h = { g with lanes := h.lanes, cells := h.cells, wcl := h.wcl, shared := h.shared, skipL := false } ∧
      (∀ k, Tbl.at? h.cells k = (Tbl.at? g.cells k).map fun x => if k ∈ s.cells then x.at_ (g.lpcOf s.cells + 1) else x) ∧
      (∀ l, Tbl.at? h.lanes l = (Tbl.at? g.lanes l).map fun y => if l ∈ act ∧ ret then y.given w.dst wide (extendTo w.ty (v l)) else y) ∧
      (∀ l ∈ act, ∀ k ∈ regs l, t.readReg h k.1 l = (k.2, false)) ∧ s.onlyAccessed t s.cur
    let atomic := fun (i : Instr) (opc : Nat) (ret : Bool) =>
      s.legal g opc w → (∀ l ∈ act, (b l).2 = false ∧ (c l).2 = false) →
      (w.fn.toNat < 8 → s.reaches g w 0 true .atomic at_ → nearby act at_ →
        (∀ k, ∀ y ∈ Tbl.atD g.wcl k [], ∀ l ∈ act, y.line ≠ (at_ l).addr.getD 0 / 128) →
        ∀ a, a = (fun l => (at_ l).addr.getD 0) → (∀ l ∈ act, poisoned s.memBad (a l) n = false) →
        let m := s.memOf (s.asidOf g)
        ∃ t h, exec i s = .next t ∧ Tbl.at? t.gangs s.cur = some h ∧ gives ret t h (old given m a) ∧ t.teams = s.teams ∧
          ∀ x, t.mem.get x = if ∃ l ∈ act, a l ≤ x ∧ x < a l + n then (upTo given m a act).get x
            else if ∃ l ∈ act, a l / 128 = x / 128 then s.plainByte (s.asidOf g) x else s.mem.get x) ∧
      (8 ≤ w.fn.toNat → s.reaches g w 1 true .atomic at_ → s.unshared → (ret = true → ∀ l ∈ act, ∀ k ∈ act, s.apart g w 1 at_ l k) →
        (∀ l ∈ act, s.frozenAtOff g 1 (s.laneOff g w false l) n = false) →
        ∀ a, a = (fun l => (s.storeAddr g 1 (at_ l)).getD 0) → (∀ l ∈ act, poisoned s.storeBad (a l) n = false) →
        ∃ t h, exec i s = .next t ∧ Tbl.at? t.gangs s.cur = some h ∧ gives ret t h (old inTurn s.store a) ∧ t.mem = s.mem ∧ t.memBad = s.memBad ∧
          ∀ x, (∀ l ∈ act, ∀ k ∈ (if ret then dstRegs w.dst (w.ty.width = 64) 0 else []), x < s.regAddr g k.1 l ∨ s.regAddr g k.1 l + 4 ≤ x) →
            t.store.get x = (upTo inTurn s.store a act).get x)
    let asks := fun (i : Instr) (opc : Nat) =>
      s.legal g opc w → (∀ l ∈ act, (b l).2 = false ∧ (c l).2 = false) → w.fn.toNat < 8 → s.reaches g w 0 true .atomic at_ → far act at_ →
      act ≠ [] → (∀ c, Tbl.atD g.wcl c [] = []) → (∀ r ∈ s.requests, ∀ l, r.who ≠ .lane s.cur l) →
        s.lanesAsk i g fun t => s.sameBytes t ∧ s.asked t g 3 (act.map fun l => (.lane s.cur l, (at_ l).addr.getD 0, n)) fun e x =>
          x.op = opByte op w.ty ∧ ∀ l, e.1 = .lane s.cur l → x.value = BitVec.ofNat 64 (b l).1 ∧ x.cval = BitVec.ofNat 64 (c l).1
    asks (.atom w) 0xA5 ∧ asks (.atomn w) 0xA6 ∧ atomic (.atom w) 0xA5 true ∧ atomic (.atomn w) 0xA6 false

/-- R165, R166: ROWLD and ROWST reach the row that a held slot names, and a lost slot reads 0, discards stores and sets ROWLOST; the word waits while
a slot is opening and raises SBOUND for the lanes of a free one. R88, R204 to R207: ACCRD gives every active lane its slot, converted by the mode of
its tile; ACCWR writes residues and makes a free tile one of TMODE 1 with the unit of its lowest lane. Both raise SBOUND beyond the team's tiles, and
ACCWR for a unit out of range or one that its tile does not take; only then ALIGN for an offset that is no multiple of 8; while a lane's tile has
earlier tasks they wait. That a written slot has OVF 0 where x is in range (notes/assumptions/88.md), the order of these checks and of the wait (51),
and that ACCRD leaves the slot's OVF (101), are the model's choice. That TADDR names BASE plus the offset, and an accumulator word's offset, is the
model's choice (notes/assumptions/24.md). -/
def Obligations.RowAndAccumulatorWords : Prop :=
  (∀ (s : State) (g : Gang), s.issuing g → ∀ w : LaneOp,
     let act := g.active s.cells w
     let n := accBytes w.ty
     let o := s.laneOff g w false
     let slot := fun l => (s.team g.team).row (o l / 1024)
     let a := fun l => 1024 * (slot l).row + o l % 1024
     let held := fun l => decide ((slot l).st = .held)
     let ready := (∀ l ∈ act, (s.srcAddr g l false w.sa).2 = false) ∧
       (∀ l ∈ act, ∀ c x, g.place (s.regsOf g) 4 (o l) n false ≠ .bad c x) ∧ (∀ l ∈ act, (slot l).st = .held ∨ (slot l).st = .lost)
     let got := fun l => wcLoad (Tbl.atD g.wcl (l / 4) []) (a l) (s.memBytes (s.asidOf g) (a l) n).1 (poisoned s.memBad (a l) n)
     let flags := fun (t : State) => ∀ h, Tbl.at? t.gangs s.cur = some h →
       h.mode = { g.mode with flags := if act.any fun l => !held l then g.mode.flags ||| fROWLOST else g.mode.flags }
     let stops := fun (i : Instr) (opc : Nat) (store : Bool) => s.legal g opc w →
       (∀ l ∈ act, ∀ c x, g.place (s.regsOf g) 4 (o l) n store ≠ .bad c x) →
       ((∃ l ∈ act, (slot l).st = .free) →
         let free := act.filter fun l => (slot l).st = .free
         s.lanesRaise i g 4 act free (((g.seg 4).baseN + o ((free.head?).getD 0)) % 2 ^ 64)) ∧
       ((∀ l ∈ act, (slot l).st ≠ .free) → (∃ l ∈ act, (slot l).st = .opening) →
         ∃ t h, exec i s = .next t ∧ Tbl.at? t.gangs s.cur = some h ∧ h = { g with cells := h.cells } ∧ s.onlyGang t s.cur ∧
           ∀ c, Tbl.at? h.cells c = (Tbl.at? g.cells c).map fun x => if c ∈ s.cells then { x with wait := .other } else x)
     stops (.rowld w) 0xA8 false ∧ stops (.rowst w) 0xA9 true ∧
     (s.legal g 0xA8 w → ready → (∀ l ∈ act, (slot l).st = .held → (got l).2 = false) →
       let val := fun l => extendTo w.ty (if held l then natOf (got l).1 else 0)
       let wide : Bool := w.ty.width = 64
       ∃ t h, exec (.rowld w) s = .next t ∧ Tbl.at? t.gangs s.cur = some h ∧ g.wentOn h s.cells ∧ flags t ∧
         (∀ l, Tbl.at? h.lanes l = (Tbl.at? g.lanes l).map fun y => if l ∈ act then y.given w.dst wide (val l) else y) ∧
         (∀ l ∈ act, ∀ k ∈ dstRegs w.dst wide (val l), t.readReg h k.1 l = (k.2, false)) ∧
         s.onlyAccessed t s.cur ∧ t.mem = s.mem ∧ t.memBad = s.memBad ∧ t.keyed = s.keyed ∧ t.teams = s.teams ∧
         s.sameStore t g act fun _ => dstRegs w.dst wide 0) ∧
     (s.legal g 0xA9 w → ready → (g.seg 4).ros = false → (∀ l ∈ act, (s.dataSrc w g l).2 = false) →
       (∀ c, ∀ y ∈ Tbl.atD g.wcl c [], ∀ l ∈ act, y.line ≠ a l / 128) →
       ∃ t h, exec (.rowst w) s = .next t ∧ Tbl.at? t.gangs s.cur = some h ∧ flags t ∧ { g with mode := h.mode }.stored h s.cells ∧
         s.onlyAccessed t s.cur ∧ t.teams = s.teams ∧ t.store = s.store ∧ t.storeBad = s.storeBad ∧
         s.storedForBy t (s.asidOf g) act (fun l => if held l then some (a l) else none) (fun l => bytesOf n (s.dataSrc w g l).1) ∧
         poisonKept s.memBad t.memBad act (fun l => if held l then some (a l) else none) n)) ∧
  (∀ (s : State) (g : Gang), s.issuing g → ∀ w : LaneOp,
     let act := g.active s.cells w
     let o := fun l => laneOffset (s.srcAddr g l false w.sa).1 w.imm
     let core := s.coreOf g
     let tile := fun l => (s.team g.team).tileBase + o l / 8192
     let slot := fun l => s.accSlot core (tile l) (o l % 8192 / 8)
     let mw := fun l => s.tileMeta core (tile l)
     let out := act.filter fun l => (s.recOf g).tiles * 8192 ≤ o l
     let odd := act.filter fun l => o l % 8 ≠ 0
     let raises := fun (i : Instr) (cause : Nat) (who : List Nat) => s.lanesRaise i g cause act who (o ((who.head?).getD 0))
     let waits := fun (i : Instr) => ∃ t h, exec i s = .next t ∧ Tbl.at? t.gangs s.cur = some h ∧ h = { g with cells := h.cells } ∧ s.onlyGang t s.cur ∧
       ∀ c, Tbl.at? h.cells c = (Tbl.at? g.cells c).map fun x => if c ∈ s.cells then { x with wait := .other } else x
     let within := act.filter fun l => o l < (s.recOf g).tiles * 8192
     let busy := ∃ l ∈ within, s.tileBusy g (o l / 8192) = true
     let free := (∀ l ∈ act, (s.srcAddr g l false w.sa).2 = false) ∧ out = [] ∧ odd = [] ∧ ∀ l ∈ act, s.tileBusy g (o l / 8192) = false
     let x := fun l => sext 64 (s.srcInt g l 64 w.imm w.sb).1
     let unit := fun l => sext 32 (s.srcInt g l 32 w.imm w.sc).1
     let lowest := fun l => ((within.find? fun k => tile k = tile l).getD l)
     let far := fun l => unit l < -128 ∨ 127 < unit l
     let turned := fun l => (metaMode (mw l) = 0 ∧ unit l ≠ unit (lowest l)) ∨ (metaMode (mw l) ≠ 0 ∧ ¬ (metaMode (mw l) = 1 ∧ metaUnit (mw l) = unit l))
     (s.legal g 0xAA w →
       (out ≠ [] → raises (.accrd w) 4 out) ∧ (out = [] → odd ≠ [] → raises (.accrd w) 5 odd) ∧ (out = [] → odd = [] → busy → waits (.accrd w))) ∧
     (s.legal g 0xAB w →
       (busy → ∀ bad, bad = (act.filter fun l => l ∉ within ∨ far l) → (bad ≠ [] → raises (.accwr w) 4 bad) ∧ (bad = [] → waits (.accwr w))) ∧
       (¬ busy → ∀ bad, bad = (act.filter fun l => l ∉ within ∨ far l ∨ turned l) →
         (bad ≠ [] → raises (.accwr w) 4 bad) ∧ (bad = [] → odd ≠ [] → raises (.accwr w) 5 odd))) ∧
     (s.legal g 0xAA w → free → s.lanesGive (.accrd w) g w (w.ty.width = 64) fun l =>
       let fl := g.flushOf w.dm
       let r := if metaMode (mw l) = 0 then (⟨0, 0⟩ : FRes)
         else if metaMode (mw l) = 1 ∨ metaMode (mw l) = 2 then
           convSlot (slot l) (metaUnit (mw l)) (if w.ty.binary then .bin (Ty.fmt w.ty) fl else .int w.ty.signed w.ty.width) (g.rmOf w.rm) (g.satOf w.sm)
         else if metaMode (mw l) = 3 then
           (if w.ty = .f32 then ⟨slot l % 2 ^ 32, 0⟩ else convertTo .f32 w.ty (g.rmOf w.rm) (g.satOf w.sm) fl (slot l % 2 ^ 32))
         else (if w.ty = .i64 then ⟨slot l, 0⟩ else convertTo .i64 w.ty (g.rmOf w.rm) (g.satOf w.sm) fl (slot l))
       ⟨extendTo w.ty r.bits, r.flags⟩) ∧
     (s.legal g 0xAB w → free → (∀ l ∈ act, (s.srcInt g l 64 w.imm w.sb).2 = false ∧ (s.srcInt g l 32 w.imm w.sc).2 = false) →
       (∀ l ∈ act, -128 ≤ unit l ∧ unit l ≤ 127 ∧
         (metaMode (mw l) = 0 ∧ unit l = unit (lowest l) ∨ metaMode (mw l) = 1 ∧ metaUnit (mw l) = unit l)) →
       ∃ t h, exec (.accwr w) s = .next t ∧ Tbl.at? t.gangs s.cur = some h ∧ g.wentOn h s.cells ∧ h.lanes = g.lanes ∧ h.mode = g.mode ∧
         t = { s with gangs := t.gangs, ctxs := t.ctxs, energy := t.energy, acc := t.acc, metas := t.metas } ∧
         (∀ v, v ≠ s.cur → Tbl.at? t.gangs v = Tbl.at? s.gangs v) ∧ s.sameCtxs t ∧
         (∀ l ∈ act, metaMode (t.tileMeta core (tile l)) = 1 ∧ metaUnit (t.tileMeta core (tile l)) = unit l) ∧
         (∀ k, (∀ l ∈ act, core * 64 + tile l ≠ k) → Tbl.at? t.metas k = Tbl.at? s.metas k) ∧
         Mem.storedBy s.acc t.acc act (fun l => some (accAddr core (tile l) (o l % 8192 / 8)))
           fun l => bytesOf 8 (slotOf (x l) (decide (2198553522175 < (x l).natAbs)))))

/-- R157, R161, R170: PREF drops every lane that cannot be served and changes only which lines and translations are held; REDMC sends one contribution
a lane and changes no memory here; VFENCE waits, from domain scope on, until no write of its context's gangs is unacknowledged
(notes/assumptions/96.md), and then goes on. -/
def Obligations.PrefetchSendAndFence : Prop :=
  ∀ (s : State) (g : Gang), s.issuing g → ∀ w : LaneOp,
    let act := g.active s.cells w
    let goes := fun (i : Instr) (F : State → Prop) =>
      ∃ t h, exec i s = .next t ∧ Tbl.at? t.gangs s.cur = some h ∧ g.stored h s.cells ∧ F t
    (s.legal g 0xAC w → goes (.pref w) fun t => s.onlyCached t s.cur) ∧
    (s.legal g 0xAF w → (∀ c, Tbl.atD g.wcl c [] = []) →
      let out := s.requests.any fun r => r.asid = s.asidOf g && (r.ptype = 1 || r.ptype = 5) && match r.who with
        | .scalar _ | .lane _ _ => true
        | _ => false
      (act = [] → goes (.vfence w) fun t => s.onlyGang t s.cur) ∧
      (act ≠ [] → (w.fn.toNat < 4 ∨ out = false) → goes (.vfence w) fun t => s.onlyCached t s.cur) ∧
      (act ≠ [] → 4 ≤ w.fn.toNat → out = true →
        ∃ t h, exec (.vfence w) s = .next t ∧ Tbl.at? t.gangs s.cur = some h ∧ h = { g with cells := h.cells, wcl := h.wcl } ∧ s.onlyGang t s.cur ∧
          ∀ c, Tbl.at? h.cells c = (Tbl.at? g.cells c).map fun x => if c ∈ s.cells then { x with wait := .other } else x)) ∧
    ∀ at_ : Nat → Target, s.legal g 0xA7 w → s.reaches g w 0 true .redmc at_ → (∀ l ∈ act, (s.dataSrc w g l).2 = false) →
      goes (.redmc w) fun t => s.sameBytes t ∧ t.teams = s.teams ∧ t.uid = s.uid + act.length ∧
        ∃ sent, t.requests = s.requests ++ sent ∧
          sent.map (fun r => (r.ptype, r.who, r.addr, r.n, r.answer)) =
            act.map fun l => (5, .lane s.cur l, (at_ l).addr.getD 0, accBytes w.ty, none)

/-! ### The host and the fabric -/

/-- R318 to R320, R396, R397, R399, R302, R402, R412 to R414: what a write to a register of a live context's page does: a queue's base and
configuration change only while it is disabled, and its tail within the ring of a host-fed queue; a ring's head never passes its tail; FRCTL takes the
LOG2 written; a read-only register, and an offset beyond the registers, ignores a write; a reply that matches no waiting slot is counted, and one that
matches a parked gang's lets it go on with TFSTAT written; TRCTL and TRHEAD also let a stopped drain go on. That a write outside the function's
stream, or to a context being destroyed, is ignored is the model's choice (notes/assumptions/107.md). R359, R369, R372, R400, R401: the registers of a
partition's block: PWRCTL sets its points, floor and cap; MREQ asks for a reading of a context of the partition only; a window's base and length
change only while it is disabled, and it is enabled only for a context of the partition and a length; while no reading waits for the meter ring its
registers change alone, and MRCTL takes the LOG2 written. R6, R318 to R320, R359, R387, R396, R398, R400, R401: what the host reads of a page's
registers: each as it stands, CTXSTAT of a live context, of a page whose context is gone and of the last page of an identifier that is gone, and 0
from a write-only register and at an offset not listed; a read changes nothing else. Where the failed bring-up step (98) and the violation counter
(111) are read, and that a refused read gives 0 (107), is the model's choice. R402, R403, R411: a die answers SPDM from bring-up step 6 on, or once
bring-up has failed; configuration requests are answered with Retry before step 6, not at all after a failure, and writes are refused in CONFIG_LOCKED
and RUN. GET_MEASUREMENTS measures by index the queen ROM, the queen patch, the worker image of the partition that owns the requesting function, and
the fuses and the spare-region map. The TDISP transitions (15), the SPDM codes, and what stands for an image's contents and which partition owns a
function (16), are the model's choice. -/
def Obligations.HostPages : Prop :=
  (∀ (s : State) (asid : Nat) (c : Ctx), Tbl.at? s.ctxs asid = some c → ∀ (q off : Nat) (v : Word64),
     let open_ := (Tbl.atD s.tdisp c.fn .unlocked ≠ .run ∨ s.ide = c.fn) ∧ c.doomed = none
     let sets := fun (i : Instr) (c' : Ctx) => ∃ t, exec i s = .next t ∧ t = { s with ctxs := t.ctxs } ∧
       ∀ a, Tbl.at? t.ctxs a = if a = asid then some c' else Tbl.at? s.ctxs a
     let queue := fun (i : Instr) (f : Queue → Queue) => ∃ qs, sets i { c with queues := qs } ∧
       ∀ k, Tbl.at? qs k = (Tbl.at? c.queues k).map fun x => if k = q then f x else x
     let w := v.toNat
     let low : BitVec 32 := v.truncate 32
     let again := fun (x : Queue) => x.appended.map fun e => (e.1, s.now)
     let x := Tbl.atD c.slots (w % 1024) FaultSlot.blank
     let matching := w / 2 ^ 32 % 2 ^ 16 = asid ∧ x.st = .waiting ∧ x.seq = w / 2 ^ 16 % 2 ^ 8 ∧ w / 2 ^ 24 % 2 ^ 8 ≤ 1
     (¬ open_ → ∀ i ∈ [Instr.qbase asid q v, .qcfg asid q v, .qtail asid q v, .qstat asid q v, .kill asid v, .frhead asid v, .reply asid v,
       .registerWrite (.ctx asid off) v], exec i s = .next s) ∧
     (open_ →
     queue (.qbase asid q v) (fun x => if x.en then x else { x with base := w % 2 ^ 57 / 4096 * 4096 }) ∧
     queue (.qcfg asid q v) (fun x =>
       if x.en then { x with en := v.getLsbD 9 }
       else { x with
         en := v.getLsbD 9, prod := v.getLsbD 8, prio := w / 16 % 8, appended := again x
         log2s := if w % 16 < 2 ∨ 12 < w % 16 then 12 else w % 16 }) ∧
     queue (.qtail asid q v) (fun x =>
       if x.prod then x
       else if 1 ≤ (low - x.tail).toNat ∧ (low - x.tail).toNat + (x.tail - x.head).toNat ≤ 2 ^ x.log2s then
         { x with tail := low, appended := x.appended ++ [(low, s.now)] }
       else { x with terr := true }) ∧
     queue (.qstat asid q v) (fun x => { x with
       terr := x.terr && !v.getLsbD 0, ferr := x.ferr && !v.getLsbD 1, appended := if x.ferr && v.getLsbD 1 then again x else x.appended }) ∧
     sets (.frhead asid v) (if (low - c.frhead).toNat ≤ (c.frtail - c.frhead).toNat then { c with frhead := low } else c) ∧
     sets (.registerWrite (.ctx asid 0x208) v) { c with frbase := v &&& 0xFFFFFFFFFFFFF000 } ∧
     sets (.registerWrite (.ctx asid 0x210) v) { c with frlog := w % 16, fren := v.getLsbD 8 } ∧
     (off = 0x220 ∨ 0x230 ≤ off → sets (.registerWrite (.ctx asid off) v) c) ∧
     (¬ matching → sets (.reply asid v) { c with disc := min (c.disc + 1) (2 ^ 32 - 1) }) ∧
     (matching → ∀ u g, x.owner = .gang u → Tbl.at? s.gangs u = some g → s.asidOf g = asid → (s.clusterOfTeam g.team).st = .resident →
       ∃ t, exec (.reply asid v) s = .next t ∧
         Tbl.at? t.gangs u = some { g with
           run := .run, tfstat := BitVec.ofNat 64 (2 ^ 32 + w / 2 ^ 24 % 2 ^ 8 * 2 ^ 24 + x.seq * 2 ^ 16 + w % 1024) } ∧
         (∀ k, k ≠ u → Tbl.at? t.gangs k = Tbl.at? s.gangs k) ∧ t = { s with gangs := t.gangs, ctxs := t.ctxs })) ∧
     (s.pageAsid c.fn c.page = some asid → exec (.registerWrite (.page c.fn c.page off) v) s = exec (.registerWrite (.ctx asid off) v) s) ∧
     sets (.trhead asid v) { c with trhead := low, trwait := false } ∧
     (∃ t, exec (.trctl asid v) s = .next t ∧ t = { s with ctxs := t.ctxs, gangs := t.gangs } ∧
       (∀ a, Tbl.at? t.ctxs a =
         if a = asid then some { c with tren := v.getLsbD 8, trts := v.getLsbD 9, trlog := min (w % 16) 10, trwait := false }
         else Tbl.at? s.ctxs a) ∧
       ∀ u, (Tbl.at? t.gangs u).map Gang.untraced = (Tbl.at? s.gangs u).map Gang.untraced) ∧
     ∃ t, exec (.trlost asid) s = .next t ∧ t = { s with ctxs := t.ctxs, outbox := s.outbox ++ [.value (BitVec.ofNat 64 c.trlost)] } ∧
       ∀ a, Tbl.at? t.ctxs a = if a = asid then some { c with trlost := 0 } else Tbl.at? s.ctxs a) ∧
  (∀ (s : State) (p : Nat) (x : Partition), Tbl.at? s.parts p = some x → ∀ (n off : Nat) (v : Word64),
     let sets := fun (i : Instr) (y : Partition) => ∃ t, exec i s = .next t ∧ t = { s with parts := t.parts } ∧
       ∀ a, Tbl.at? t.parts a = if a = p then some y else Tbl.at? s.parts a
     let w := v.toNat
     let low : BitVec 32 := v.truncate 32
     let win := Tbl.atD x.wins n { en := false, base := 0, len := 0, asid := 0 }
     let window := fun (i : Instr) (y : HdmWin) => n < 16 → ∃ ws, sets i { x with wins := ws } ∧
       ∀ k, Tbl.at? ws k = if k = n then some y else Tbl.at? x.wins k
     sets (.pwrctl p v) { x with
       opfast := w / 2 ^ 36 % 16, opslow := max (w / 2 ^ 32 % 16) (w / 2 ^ 36 % 16), floor := w / 2 ^ 16 % 2 ^ 16, cap := w % 2 ^ 16 } ∧
     (∃ t, exec (.mreq p v) s = .next t ∧ t = { s with ctxs := t.ctxs } ∧
       ∀ a, Tbl.at? t.ctxs a = (Tbl.at? s.ctxs a).map fun c => if a = w % 2 ^ 16 ∧ c.part = p then { c with requested := c.requested + 1 } else c) ∧
     window (.hdmb p n v) (if win.en then { win with en := v.getLsbD 63 }
       else { win with
         base := w / 2 ^ 16 % 2 ^ 23 * 65536
         en := v.getLsbD 63 && ((Tbl.at? s.ctxs win.asid).any fun c => c.part = p) && decide (win.len ≠ 0) }) ∧
     window (.hdml p n v) (if win.en then win else { win with len := w / 2 ^ 16 % 2 ^ 24 * 65536, asid := w % 2 ^ 16 }) ∧
     (x.mwait = [] →
       sets (.mrhead p v) (if (low - x.mrhead).toNat ≤ (x.mrtail - x.mrhead).toNat then { x with mrhead := low } else x) ∧
       sets (.registerWrite (.part p 0x008) v) { x with mrbase := v &&& 0xFFFFFFFFFFFFF000 } ∧
       sets (.registerWrite (.part p 0x010) v) { x with mrlog := w % 16, mren := v.getLsbD 8 } ∧
       (off = 0x020 ∨ 0x140 ≤ off → sets (.registerWrite (.part p off) v) x))) ∧
  (∀ (s : State) (asid p n : Nat) (c : Ctx) (x : Partition), Tbl.at? s.ctxs asid = some c → Tbl.at? s.parts p = some x → n < 16 →
     let b := fun (y : Bool) => if y then 1 else 0
     let gives := fun (r : PageReg) (v : Nat) => s.hostRead r = { s with outbox := s.outbox ++ [.value (BitVec.ofNat 64 v)] }
     let q := Tbl.atD c.queues (n % 8) Queue.blank
     let w := Tbl.atD x.wins n { en := false, base := 0, len := 0, asid := 0 }
     (Tbl.atD s.tdisp c.fn .unlocked ≠ .run ∨ s.ide = c.fn →
       (∀ e ∈ [(0x00, q.base), (0x08, b q.en * 2 ^ 9 + b q.prod * 2 ^ 8 + q.prio * 16 + q.log2s), (0x10, q.head.toNat), (0x18, q.tail.toNat),
         (0x28, 0), (0x30, 0), (0x38, 0)], gives (.ctx asid (0x40 * (n % 8) + e.1)) e.2) ∧
       gives (.ctx asid 0x208) c.frbase.toNat ∧ gives (.ctx asid 0x210) (b c.fren * 2 ^ 8 + c.frlog) ∧ gives (.ctx asid 0x218) c.frhead.toNat ∧
       gives (.ctx asid 0x220) c.frtail.toNat ∧ gives (.ctx asid 0x230) (2 ^ 63 + asid % 2 ^ 16 * 2 ^ 32 + c.disc) ∧
       gives (.ctx asid 0x200) 0 ∧ gives (.ctx asid 0x228) 0 ∧ ∀ off, 0x230 < off → gives (.ctx asid off) 0) ∧
     (Tbl.atD s.tdisp c.fn .unlocked = .run → s.ide ≠ c.fn → ∀ off, gives (.ctx asid off) 0) ∧
     (∀ y a, Tbl.at? s.ctxs a = none → s.pages.reverse.find? (fun z => z.asid = a) = some y → Tbl.atD s.tdisp (s.ctx a).fn .unlocked ≠ .run →
       gives (.ctx a 0x230) (y.why % 8 * 2 ^ 60 + y.asid % 2 ^ 16 * 2 ^ 32 + y.disc)) ∧
     (∀ y f k, (∀ e ∈ s.ctxs, ¬ (e.2.fn = f ∧ e.2.page = k)) → s.pages.find? (fun z => decide (z.fn = f) && decide (z.page = k)) = some y →
       Tbl.atD s.tdisp f .unlocked ≠ .run ∨ s.ide = f → gives (.page f k 0x230) (y.why % 8 * 2 ^ 60 + y.asid % 2 ^ 16 * 2 ^ 32 + y.disc)) ∧
     (s.pageAsid c.fn c.page = some asid → ∀ off, s.hostRead (.page c.fn c.page off) = s.hostRead (.ctx asid off)) ∧
     gives .violations s.violations ∧
     gives (.part p 0x000) (x.opfast * 2 ^ 36 + x.opslow * 2 ^ 32 + x.floor * 2 ^ 16 + x.cap) ∧ gives (.part p 0x008) x.mrbase.toNat ∧
     gives (.part p 0x010) (b x.mren * 2 ^ 8 + x.mrlog) ∧ gives (.part p 0x018) x.mrhead.toNat ∧ gives (.part p 0x020) x.mrtail.toNat ∧
     gives (.part p 0x028) 0 ∧ gives (.part p (0x040 + 16 * n)) (b w.en * 2 ^ 63 + w.base) ∧ gives (.part p (0x048 + 16 * n)) (w.len + w.asid % 2 ^ 16) ∧
     (∀ off, 0x140 ≤ off → gives (.part p off) 0) ∧ gives .status (s.bootFailed.getD 0)) ∧
  (∀ (s : State) (die index f : Nat) (wr : Bool),
     let requests := [Instr.getVersion die, .getCapabilities die, .negotiateAlgorithms die, .getDigests die, .getCertificate die, .challenge die,
       .getMeasurements { die := die, index := index, fn := f }, .keyExchange die, .finish die]
     let answers := die < 12 ∧ (6 ≤ s.boot ∨ s.bootFailed.isSome)
     let st := Tbl.atD s.tdisp f .unlocked
     let vf := 1 ≤ f ∧ f ≤ 64
     let moves := fun (i : Instr) (may : Prop) (x : Tdisp) =>
       (¬ may → exec i s = .next s) ∧
       (may → ∃ t, exec i s = .next t ∧ t = { s with tdisp := t.tdisp } ∧
         ∀ k, Tbl.at? t.tdisp k = if k = f then some x else Tbl.at? s.tdisp k)
     (∀ i ∈ requests,
       (¬ answers → exec i s = .next s) ∧
       (answers → ∃ t code bs, exec i s = .next t ∧ t = { s with outbox := s.outbox ++ [.spdm die code bs], sessions := t.sessions } ∧
         ∀ k, k ≠ die → Tbl.at? t.sessions k = Tbl.at? s.sessions k)) ∧
     (answers →
       let measures := fun (n : Nat) (l : List Nat) => exec (.getMeasurements { die := die, index := n, fn := f }) s =
         .next { s with outbox := s.outbox ++ [.spdm die 0xE0 (Config.spdmAnswer die 0xE0 (Tbl.atD s.sessions die 0) l (Config.certificate die))] }
       measures 1 [Config.queenRom] ∧ measures 2 [s.patch.version, s.patch.digest] ∧ measures 4 (s.minver :: s.minPatch :: s.spares) ∧
       (∀ e, s.ctxs.find? (fun e => e.2.fn = f) = some e → measures 3 [(s.part e.2.part).fwver, (s.part e.2.part).fwdigest])) ∧
     (s.bootFailed.isSome → exec (.configurationRequest f wr) s = .next s) ∧
     (s.bootFailed = none → exec (.configurationRequest f wr) s = .next { s with
       outbox := s.outbox ++ [if s.boot < 6 then .retry f else if wr ∧ (st = .locked ∨ st = .run) then .refusedWrite f else .accepted f] }) ∧
     moves (.tdispConfigLocked f) (vf ∧ st = .unlocked) .locked ∧ moves (.tdispRun f) (vf ∧ st = .locked) .run ∧
     moves (.tdispConfigUnlocked f) vf .unlocked ∧ (¬ vf → exec (.tdispError f) s = .next s))

/-- R385 to R387, R392, R404: a packet under an FPID that no live context serves is dropped and counted; a read from a device of the fabric partition
is answered with the bytes its mask names, a write stores the bytes its mask names and no other, an atomic updates its element, and a delivery stores
its value. That the mask of a read request names its bytes, all 128 when it is 0, and that a packet carries the poisoned bytes of its line
(notes/assumptions/40.md), and the coding of OP (34), are the model's choice. R385, R387, R388: an answer is recorded with the request it names and an
acknowledged write is forgotten; an answer that names none is late, and one under an FPID of no partition is dropped and counted. A read or an atomic
that has waited 1 ms is late from then on and completes poisoned, and a write or a contribution kills its team, at once or at the end of the chunk or
step in hand. -/
def Obligations.FabricPackets : Prop :=
  (∀ (s : State) (x : Packet),
     let pa := x.addr % 2 ^ 39
     let line := pa / 128 * 128
     let n := accBytes (opOf x.op).2
     (s.serving x = none → ∀ i ∈ [Instr.readRequest x, .write x, .atomic x, .reduceDelivery x],
       exec i s = .next { s with violations := s.violations + 1 }) ∧
     ∀ a, s.serving x = some a →
       let want := if x.mask = 0 then List.range 128 else (List.range 128).filter fun i => x.mask.getLsbD i
       let lo := (want.head?).getD 0
       let len := (want.getLast?).getD 0 + 1 - lo
       (∃ t, exec (.readRequest x) s = .next t ∧ s.sameBytes t ∧ t.requests = s.requests ∧
         (s.ports ≠ [] → (s.part (s.ctx a).part).fpid ≠ 0 → x.src.toNat ∈ (s.part (s.ctx a).part).fmembers →
           ∃ y, t.outbox = s.outbox ++ [.packet y] ∧ y.ptype = 2 ∧ y.dst = x.src ∧ y.key = x.key ∧ y.addr = x.addr ∧
             (∀ i < 128, y.bad.getLsbD i = true ↔ lo ≤ i ∧ i < lo + len ∧ line + i ∈ s.memBad) ∧ packetCarried y (line + lo) len = (s.memOf a).read (line + lo) len)) ∧
       (∃ t, exec (.write x) s = .next t ∧ t.store = s.store ∧ t.storeBad = s.storeBad ∧ t.acc = s.acc ∧ t.metas = s.metas ∧
         (∀ b, t.mem.get b =
           (((packetWrites x).find? fun e => line + e.1 = b).map (·.2)).getD (if b / 128 = pa / 128 then s.plainByte a b else s.mem.get b)) ∧
         (x.bad ≠ 0 → ∀ b, line ≤ b → b < line + 128 → b ∈ t.memBad) ∧ ∀ b, b / 128 ≠ pa / 128 → (b ∈ t.memBad ↔ b ∈ s.memBad)) ∧
       (∃ t, exec (.atomic x) s = .next t ∧ t.store = s.store ∧ t.acc = s.acc ∧
         (poisoned s.memBad pa n = true → t.mem = s.mem ∧ t.memBad = s.memBad) ∧
         (poisoned s.memBad pa n = false →
           s.storedFor t a pa (bytesOf n (atomNew (opOf x.op).2 (opOf x.op).1 (natOf ((s.memOf a).read pa n))
             (x.value.toNat % 2 ^ (8 * n)) (x.cval.toNat % 2 ^ (8 * n)))))) ∧
       (∃ t, exec (.reduceDelivery x) s = .next t ∧ t.store = s.store ∧ t.acc = s.acc ∧ s.storedFor t a pa (bytesOf n x.value.toNat))) ∧
  (∀ (s : State) (x : Packet) (tag : Nat),
     let known := x.part ≠ 0 ∧ ∃ p ∈ s.parts, p.2.fpid = x.part
     let reads := s.requests.find? fun r =>
       r.tag % 2 ^ 32 = x.key.toNat && (r.ptype = 0 || r.ptype = 3) && r.answer.isNone && (s.part (s.ctx r.asid).part).fpid = x.part && s.now < r.sent + 1000000
     let element := fun (r : Request) => r.ptype = 3 ∧ ∃ t q, r.who = .copy t q
     let answered := fun (r : Request) (bs : List Byte) (bad : BitVec 128) =>
       { s with requests := s.requests.map fun y => if y.tag = r.tag then { y with answer := some (bs, bad) } else y }
     (¬ known → exec (.readCompletion x) s = .next { s with violations := s.violations + 1 } ∧
       exec (.writeAcknowledgement x) s = .next { s with violations := s.violations + 1 }) ∧
     (known → reads = none → exec (.readCompletion x) s = .next { s with late := s.late + 1 }) ∧
     (∀ r, known → reads = some r → ¬ element r → exec (.readCompletion x) s = .next (answered r (packetCarried x r.addr r.n) x.bad)) ∧
     (known → s.requests.find? (s.acked x) = none → exec (.writeAcknowledgement x) s = .next { s with late := s.late + 1 }) ∧
     (∀ r, known → s.requests.find? (s.acked x) = some r →
       exec (.writeAcknowledgement x) s = .next { s with requests := s.requests.filter fun y => y.tag ≠ r.tag }) ∧
     (s.requests.find? (fun r => r.tag = tag) = none → exec (.requestTimeout tag) s = .next s) ∧
     ∀ r, s.requests.find? (fun r => r.tag = tag) = some r →
       ((r.answer.isSome ∨ s.now < r.sent + 1000000) → exec (.requestTimeout tag) s = .next s) ∧
       (r.answer = none → r.sent + 1000000 ≤ s.now →
         (r.ptype = 0 ∨ r.ptype = 3 → ¬ element r → exec (.requestTimeout tag) s = .next (answered r (bytesOf r.n 0) (BitVec.allOnes 128))) ∧
         (let dropped : State := { s with requests := s.requests.filter fun y => y.tag ≠ tag }
          r.ptype ≠ 0 → r.ptype ≠ 3 →
           (Tbl.at? s.teams r.team = none → exec (.requestTimeout tag) s = .next dropped) ∧
           ((Tbl.at? s.teams r.team).isSome → ∃ t, exec (.requestTimeout tag) s = .next t ∧ dropped.killed t r.team))))

/-- R384, R385, R387, R388, R390, R391, R394, R401: group records, contributions, firmware messages and unknown packets; ports that train or fail; and
CXL.mem accesses, which are served in a live window's context and outside every window read as poison and write nothing. A contribution counts at its
group's root alone (notes/assumptions/70.md); what is at a port's far end is recorded, and the port trains with it at once where bring-up is complete
(39); the NC-th completes the round, which is delivered to every member: poisoned where the contributions name different operations, and else their
combination in the order of their keys. -/
def Obligations.FabricPortsAndWindows : Prop :=
  ∀ (s : State) (x : Packet) (d : GroupDesc) (port : Nat) (far : Option Nat) (gen2 : Bool) (y : CxlAccess),
    let ok := 1 ≤ d.nc ∧ d.nc ≤ 65536 ∧ d.members.length ≤ 256
    let k := x.addr % 2 ^ 39 / 2 ^ 27
    let off := x.addr % 2 ^ 27
    let known := x.part ≠ 0 ∧ ∃ p ∈ s.parts, p.2.fpid = x.part
    (¬ ok → exec (.multicastReduceGroupSetup d) s = .next s) ∧
    (ok → ∃ t, exec (.multicastReduceGroupSetup d) s = .next t ∧ t = { s with groups := t.groups } ∧
      ∀ n, Tbl.at? t.groups n = if n = d.group.toNat then some { desc := d, parts := [] } else Tbl.at? s.groups n) ∧
    ((Tbl.at? s.groups k = none ∨ ¬ known ∨ ∃ g, Tbl.at? s.groups k = some g ∧ (g.desc.part ≠ x.part ∨ g.desc.root.toNat ≠ s.swarm.self)) →
      exec (.reduceContribution x) s = .next { s with violations := s.violations + 1 }) ∧
    (∀ g, Tbl.at? s.groups k = some g → g.desc.part = x.part → g.desc.root.toNat = s.swarm.self → known →
      let l := Tbl.atD g.parts off [] ++ [(x.key, x.op, x.value)]
      ∃ t h, exec (.reduceContribution x) s = .next t ∧ Tbl.at? t.groups k = some h ∧ h.desc = g.desc ∧ s.sameBytes t ∧
        Tbl.at? h.parts off = (if g.desc.nc ≤ l.length then none else some l) ∧
        (∀ o, o ≠ off → Tbl.at? h.parts o = Tbl.at? g.parts o) ∧ (∀ n, n ≠ k → Tbl.at? t.groups n = Tbl.at? s.groups n) ∧
        (g.desc.nc ≤ l.length → ∃ v bad acks,
          let reached := g.desc.members.filter fun m => s.parts.any fun e => e.2.fpid = x.part && e.2.fmembers.contains m.1
          let same := ∀ e ∈ l, e.2.1 = x.op
          let c := fun (p q : Nat) => (combine (opOf x.op).2 (opOf x.op).1 .rne false p q).bits
          let val := fun (e : BitVec 32 × BitVec 8 × BitVec 64) => e.2.2.toNat % 2 ^ (8 * accBytes (opOf x.op).2)
          t.outbox = s.outbox ++ (reached.map fun m => Msg.packet
            { ptype := 6, part := x.part, cw := 15, src := BitVec.ofNat 12 s.swarm.self, dst := BitVec.ofNat 12 m.1, addr := m.2 + off
              value := BitVec.ofNat 64 v, cval := 0, key := 0, op := x.op, mask := 0, data := [], bad := if bad then BitVec.allOnes 128 else 0 }) ++ acks ∧ acks.length ≤ 1 ∧
          (bad = true ↔ ¬ same) ∧
          (same → (opOf x.op).2.binary = false → (opOf x.op).1 = 0 → 2 ≤ l.length →
            v = (l.map val).sum % 2 ^ (opOf x.op).2.width) ∧
          (same → (∀ y, l = [y] → v = val y) ∧
            ∀ xs, xs.Perm l → xs.Pairwise (fun p q => p.1 < q.1) →
              (∀ p q, xs = [p, q] → v = c (val p) (val q)) ∧ (∀ p q r, xs = [p, q, r] → v = c (c (val p) (val q)) (val r)) ∧
              ∀ p q r z, xs = [p, q, r, z] → v = c (c (val p) (val q)) (c (val r) (val z))))) ∧
    exec (.firmwareMessage x) s =
      .next (if x.part = 0 then { s with outbox := s.outbox ++ [.firmware x] } else { s with violations := s.violations + 1 }) ∧
    exec (.unknownPacketType x) s = .next s ∧
    (∃ t, exec (.portFailure port) s = .next t ∧ t = { s with ports := t.ports } ∧
      ∀ n, Tbl.at? t.ports n = if n = port then none else Tbl.at? s.ports n) ∧
    (18 ≤ port → exec (.portTraining port far gen2) s = .next s) ∧
    (port < 18 → ∃ t, exec (.portTraining port far gen2) s = .next t ∧ t = { s with ports := t.ports, farEnds := t.farEnds } ∧
      (∀ n, Tbl.at? t.farEnds n = if n = port then some { far := far, gen2ok := gen2 } else Tbl.at? s.farEnds n) ∧
      ∀ n, Tbl.at? t.ports n =
        if n = port ∧ 8 ≤ s.boot then (if far = some 2 then some (if gen2 then 2 else 1) else if far = some 1 then some 1 else none)
        else Tbl.at? s.ports n) ∧
    (∀ bs, y.write = some bs →
      (s.window y.pa bs.length = none → exec (.cxlMemAccess y) s = .next s) ∧
      (∀ w, s.window y.pa bs.length = some w → ∃ t, exec (.cxlMemAccess y) s = .next t ∧ t.store = s.store ∧ t.acc = s.acc ∧
        t.outbox = s.outbox ∧ s.storedFor t w.asid y.pa bs)) ∧
    (y.write = none →
      (s.window y.pa y.n = none → exec (.cxlMemAccess y) s = .next { s with outbox := s.outbox ++ [.cxl none] }) ∧
      (∀ w, s.window y.pa y.n = some w → ∃ t, exec (.cxlMemAccess y) s = .next t ∧ s.sameBytes t ∧
        t.outbox = s.outbox ++ [.cxl (if poisoned s.memBad y.pa y.n then none else some ((s.memOf w.asid).read y.pa y.n))]))

/-! ### The device's own steps -/

/-- R410, R408, R411: a reset of the whole device leaves no context, grid or partition, begins bring-up anew with the boot counter one higher and the
sequence numbers above every earlier one, and device memory reads 0; the fused minimum versions, the queen patch, the spare map and host memory stay
as they were. That what the hardware fails, the plan and what is at the far ends of ports stay too, that host memory, the spare map and the patch do
(notes/assumptions/18.md, 39), and that stores and accumulators read 0 (5), is the model's choice. R404, R405, R411: bring-up goes through its steps
in order and stays in the step that fails: one the hardware fails (notes/assumptions/39.md), step 1 with a queen patch that may not run, step 5 with a
worker image that may not; step 3 leaves device memory zero, step 5 creates the partitions, each region at its partition's point, and step 7 restores
their FPIDs and trains the ports with what is at their far ends; no context is created before step 6; and before the end SPDM and configuration
requests, resets, what is found at a port's far end and reads of the status register are served. That far ends come as data, and which choices a
failed device takes (39), and that an image carries its digest, reading interval, epoch and slice (106, 16), is the model's choice. -/
def Obligations.Resets : Prop :=
  (∀ s : State,
     let anew := fun (t : State) =>
       t.boot = 1 ∧ t.bootFailed = none ∧ t.bootCount = s.bootCount + 1 ∧ t.seq = (s.bootCount + 1) * 2 ^ 32 + 1 ∧ t.now = 0 ∧
       t.ctxs = [] ∧ t.parts = [] ∧ t.grids = [] ∧ t.clusters = [] ∧ t.teams = [] ∧ t.gangs = [] ∧ t.store = [] ∧ t.storeBad = [] ∧ t.acc = [] ∧
       t.metas = [] ∧ t.requests = [] ∧ t.minver = s.minver ∧ t.minPatch = s.minPatch ∧ t.patch = s.patch ∧ t.broken = s.broken ∧
       t.spares = s.spares ∧ t.plan = s.plan ∧ t.farEnds = s.farEnds ∧ ∀ a < 2 ^ 39, t.mem.get a = 0
     (∀ i ∈ [Instr.coldReset, .perst, .flr 0], ∃ t, exec i s = .next t ∧ anew t ∧ (∀ a, 2 ^ 39 ≤ a → t.mem.get a = s.mem.get a) ∧
       ∀ a, 2 ^ 39 ≤ a → (a ∈ t.memBad ↔ a ∈ s.memBad)) ∧
     ∃ t, exec .warmResetRequest s = .next t ∧ anew t) ∧
  (∀ s : State, s.boot < 8 →
     let runs := fun (least : Nat) (x : FwImage) => x.ed25519 = true ∧ x.mldsa65 = true ∧ least ≤ x.version
     let fails := s.boot ∈ s.broken ∨ (s.boot = 1 ∧ ¬ runs s.minPatch s.patch) ∨ (s.boot = 5 ∧ ∃ x ∈ s.plan, ¬ runs s.minver x.worker)
     let becomes := fun (P : State → Prop) => ∃ t, step s = .next t.settle ∧ P t
     (s.boot < 6 → ∀ x, exec (.contextCreate x) s = .next s) ∧
     (∀ rest, s.agenda = .read .status :: rest → step s = .next (({ s with agenda := rest } : State).hostRead .status).settle) ∧
     (∀ rest die f v bs raw, ∀ i ∈ [Instr.getVersion die, .getCapabilities die, .negotiateAlgorithms die, .getDigests die, .getCertificate die, .challenge die,
       .getMeasurements { die := die, index := f, fn := v }, .keyExchange die, .finish die, .configurationRequest bs raw, .portTraining die (some f) raw,
       .coldReset, .perst],
       s.agenda = .event i :: rest → step s = landed (exec i { s with agenda := rest })) ∧
     ((∀ c rest, s.agenda = c :: rest → c.early = false) →
       (s.bootFailed.isSome → becomes fun t => t = { s with agenda := s.agenda.drop 1 }) ∧
       (s.bootFailed = none → fails → becomes fun t => t = { s with bootFailed := some s.boot }) ∧
       (s.bootFailed = none → ¬ fails →
         (s.boot ∉ [3, 5, 7] → becomes fun t => t = { s with boot := s.boot + 1 }) ∧
         (s.boot = 3 → becomes fun t => t = { s with boot := 4, mem := t.mem, memBad := t.memBad } ∧
           (∀ a, t.mem.get a = if a < 2 ^ 39 then 0 else s.mem.get a) ∧ ∀ a, a ∈ t.memBad ↔ a ∈ s.memBad ∧ 2 ^ 39 ≤ a) ∧
         (s.boot = 5 → becomes fun t => t = { s with boot := 6, parts := t.parts, regions := t.regions } ∧
           (∀ p, (Tbl.at? t.parts p).isSome ↔ ∃ x ∈ s.plan, x.id = p) ∧
           (∀ p x, s.plan.filter (fun x => x.id = p) = [x] → ∃ y, Tbl.at? t.parts p = some y ∧ y.tenant = x.tenant ∧ y.pool = x.pool ∧ y.point = x.point ∧
             y.fwver = x.worker.version ∧ y.fwdigest = x.worker.digest ∧ y.readint = x.worker.readint.getD 62500 ∧ y.epochLen = x.worker.epoch.getD 1024 ∧ y.sliceLen = 16000 * x.worker.slice.getD 128 ∧ y.fpid = 0) ∧
           ∀ r, Tbl.at? t.regions r = (Tbl.at? s.regions r).map fun z => match s.plan.find? fun x => x.regions.contains r with
             | some x => { z with part := some x.id, req := x.point, freq := x.point, uv := 1000 * mvOf x.point }
             | none => z) ∧
         (s.boot = 7 → becomes fun t => t = { s with boot := 8, parts := t.parts, ports := t.ports } ∧
           ((s.farEnds.map (·.1)).Nodup → ∀ n, Tbl.at? t.ports n = (Tbl.at? s.farEnds n).bind fun e =>
             if e.far = some 2 then some (if e.gen2ok then 2 else 1) else if e.far = some 1 then some 1 else none) ∧
           ∀ p, Tbl.at? t.parts p = (Tbl.at? s.parts p).map fun y => match s.plan.find? fun x => x.id = p with
             | some x => { y with fpid := x.fpid, fpidCtx := x.fpidCtx, fmembers := x.fmembers }
             | none => y))))

/-- R14, R38, R291, R337, R339, R395, R398, R402, R404, R408: a context is created from its descriptor where its identifier and page are free, its
partition exists and alone uses its key slot, and its function is unlocked (the model's choice, notes/assumptions/78.md), and else nothing changes; on
destruction, on the reset of its function and on a TDISP error its queues stop, its gangs run no more, and it is gone as soon as no grid of it is
left, which a chunk or a step in hand alone delays; a locked function's contexts are not destroyed on request; a kill leaves of the grid it names only
teams with a chunk or a step in hand, and is ignored where the page takes no access (107). R328, R330, R362, R405 to R407: where a partition holds no
room, a new worker image runs, with what it sets, if both its signatures verify and its version is not below the minimum, and the old one goes on
otherwise; an unused region moves, to the other partition's point; and a failed region, of a partition or of none, is replaced by its die's spare, or
stays offline where that is in use, with its dirty lines written back and those that cannot be read poisoned. That an image carries its epoch, slice,
trim threshold and reading interval (notes/assumptions/106.md), and that a spare keeps the requested point and starts its trim at 0 (82), is the
model's choice. -/
def Obligations.ContextsAndPartitions : Prop :=
  (∀ (s : State) (x : CtxDesc) (a f : Nat) (v : Word64),
     let may := 6 ≤ s.boot ∧ s.bootFailed = none ∧ 1 ≤ x.asid ∧ x.asid < 65536 ∧ Tbl.at? s.ctxs x.asid = none ∧ (Tbl.at? s.parts x.part).isSome ∧
       1 ≤ x.fn ∧ x.fn ≤ 64 ∧ x.page < 64 ∧ (∀ e ∈ s.ctxs, e.2.fn = x.fn → e.2.page ≠ x.page) ∧ 1 ≤ x.cw ∧ x.cw ≤ 15 ∧ x.key < 4096 ∧
       x.parkt < 2 ^ 20 ∧ (∀ e ∈ s.ctxs, e.2.key = x.key → e.2.part = x.part) ∧ Tbl.atD s.tdisp x.fn .unlocked = .unlocked
     let ends := fun (i : Instr) (P : State → Prop) => ∃ t, exec i s = .next t ∧ P t ∧ (Tbl.at? t.ctxs a = none ↔ t.gridsOf a = []) ∧
       (s.gridsOf a = [] → Tbl.at? t.ctxs a = none) ∧
       (∀ d, Tbl.at? t.ctxs a = some d → d.doomed.isSome ∧ ∀ q y, Tbl.at? d.queues q = some y → y.en = false) ∧
       ∀ u h, Tbl.at? t.gangs u = some h → (Tbl.at? t.teams h.team).isSome → (Tbl.at? t.grids (t.team h.team).grid).isSome → t.asidOf h = a →
         t.gangRuns h = false
     (¬ may → exec (.contextCreate x) s = .next s) ∧
     (may → ∃ t c, exec (.contextCreate x) s = .next t ∧ t = { s with ctxs := t.ctxs, pages := t.pages, zeroised := t.zeroised } ∧
       Tbl.at? t.ctxs x.asid = some c ∧ (∀ b, b ≠ x.asid → Tbl.at? t.ctxs b = Tbl.at? s.ctxs b) ∧ (∀ y ∈ t.pages, y.fn = x.fn → y.page ≠ x.page) ∧
       x.key ∉ t.zeroised ∧ c.part = x.part ∧ c.fn = x.fn ∧ c.page = x.page ∧ c.l1 = x.l1 ∧ c.key = x.key ∧ c.cw = x.cw ∧ c.parkt = x.parkt ∧
       c.pbudget = x.pbudget ∧ c.events = 0 ∧ c.tvec = 0 ∧ c.pvec = 0 ∧ c.empty = false ∧ c.st = .eligible ∧ c.nextGid = 1 ∧ c.slots = [] ∧
       c.doomed = none ∧ c.bal = c.depth ∧ c.depth = x.depth % 2 ^ 48) ∧
     (Tbl.at? s.ctxs a = none → exec (.contextDestroy a) s = .next s) ∧
     (∀ c, Tbl.at? s.ctxs a = some c →
       (s.locked c.fn = true → exec (.contextDestroy a) s = .next s) ∧
       (s.locked c.fn = false → ends (.contextDestroy a) fun _ => True) ∧ (c.fn = f → f ≠ 0 → ends (.flr f) fun _ => True) ∧
       (c.fn = f → 1 ≤ f → f ≤ 64 → ends (.tdispError f) fun t => Tbl.at? t.tdisp f = some .error)) ∧
     ((s.writeOk a = false ∨ ∀ n ∈ s.gridsOf a, (s.grid n).gid ≠ v.toNat % 2 ^ 32) → exec (.kill a v) s = .next s) ∧
     ∀ n, s.writeOk a = true → (s.gridsOf a).find? (fun n => (s.grid n).gid = v.toNat % 2 ^ 32) = some n →
       ∃ t, exec (.kill a v) s = .next t ∧ ∀ k y, Tbl.at? t.teams k = some y → y.grid = n → y.dying = true ∧ s.workBusy k = true) ∧
  (∀ (s : State) (p r : Nat) (x : FwImage) (lost : List Nat),
     (Tbl.at? s.parts p = none → exec (.workerFirmwareUpdate p x) s = .next s) ∧
     (∀ y, Tbl.at? s.parts p = some y →
       (y.updating.isSome → exec (.workerFirmwareUpdate p x) s = .next s) ∧
       (y.updating = none → y.failing = none → s.clusters = [] → ∃ t, exec (.workerFirmwareUpdate p x) s = .next t ∧
         t = { s with parts := t.parts, ctxs := t.ctxs } ∧ ∀ k, Tbl.at? t.parts k =
           if k = p then some (if x.ed25519 ∧ x.mldsa65 ∧ s.minver ≤ x.version then
               { y with
                 fwver := x.version, fwdigest := x.digest, readint := x.readint.getD 62500, epochLen := x.epoch.getD 1024, sliceLen := 16000 * x.slice.getD 128
                 trimThr := x.trimThr.getD Config.trimThreshold }
             else y)
           else Tbl.at? s.parts k)) ∧
     let replaced := fun (z : Region) (t : State) => ∃ z', Tbl.at? t.regions r = some z' ∧ z'.part = z.part ∧ t.mem = s.mem ∧
       ((∃ k ∈ s.spares, k / 12 = r / 12) → z'.offline = true ∧ t.spares = s.spares) ∧
       ((∀ k ∈ s.spares, k / 12 ≠ r / 12) → z'.offline = false ∧ t.spares = s.spares ++ [r] ∧ z'.trim = 0 ∧ z'.req = z.req) ∧
       (∀ k, k ≠ r → Tbl.at? t.regions k = Tbl.at? s.regions k) ∧ (∀ e ∈ t.home, homeOf (128 * e.1) ≠ r) ∧
       ∀ b, b ∈ t.memBad ↔ b ∈ s.memBad ∨ ∃ e ∈ s.home, e.1 ∈ lost ∧ e.2.dirty = true ∧ homeOf (128 * e.1) = r ∧ b / 128 = e.1;
     (∀ z, Tbl.at? s.regions r = some z → z.part = none →
       exec (.regionMove r p) s = .next s ∧ ((48 ≤ r ∨ z.offline = true) → exec (.spareRegionSwap r lost) s = .next s) ∧
       (r < 48 → z.offline = false → ∃ t, exec (.spareRegionSwap r lost) s = .next t ∧ t.gangs = s.gangs ∧ replaced z t)) ∧
     (∀ z, Tbl.at? s.regions r = some z → ∀ q, z.part = some q →
       ((48 ≤ r ∨ q = p ∨ Tbl.at? s.parts p = none ∨ z.offline = true ∨ s.regionUsed r = true) → exec (.regionMove r p) s = .next s) ∧
       (r < 48 → q ≠ p → (Tbl.at? s.parts p).isSome → z.offline = false → s.regionUsed r = false →
         ∃ t, exec (.regionMove r p) s = .next t ∧ s.sameBytes t ∧ t.gangs = s.gangs ∧
           ∀ k, Tbl.at? t.regions k = if k = r then some ({ z with part := some p, req := (s.part p).point }.aim s.now) else Tbl.at? s.regions k) ∧
       ∀ y, Tbl.at? s.parts q = some y →
         ((y.failing.isSome ∨ z.offline = true) → exec (.spareRegionSwap r lost) s = .next s) ∧
         (y.failing = none → y.updating = none → z.offline = false → s.clusters = [] →
           ∃ t, exec (.spareRegionSwap r lost) s = .next t ∧ replaced z t)))

/-- R335, R358 to R366, R373: what ends a switch, a slew, a drowse move, a trim step and a hold-off, once its time has come; a reading of 105 °C or
more stops the device and marks every context's interval, one below 95 °C lets it and what has waited go on, and others change nothing; and a region
that read hot at four ticks gives up a cluster that another region can take, outside a stop. The hottest reading, and the order in which what has
waited goes on, are the model's choice (notes/assumptions/108.md). R367 to R369, R387: a division of power never gives out more than there is, and a
partition's budget is not below its floor where there is enough; a period ends when its 1 ms has passed, with 3,000 W for a device without a group; a
member's report under FPID 0 is recorded, one of another device is not, and one under another FPID is a violation; three periods without a member's
report limit the device to its floor, which its partitions share at once; that the limit ends once every member has reported again is the model's
choice (notes/assumptions/74.md). -/
def Obligations.PowerEvents : Prop :=
  (∀ (s : State) (r : Nat) (x : Region), Tbl.at? s.regions r = some x →
     let sets := fun (i : Instr) (y : Region) => ∃ t, exec i s = .next t ∧ t = { s with regions := t.regions } ∧
       ∀ k, Tbl.at? t.regions k = if k = r then some y else Tbl.at? s.regions k
     (∀ p, x.switchTo = some p → x.switchEnd ≤ s.now → s.stopped = false → x.raising = false →
       sets (.frequencySwitch r) ({ x with freq := p, switchTo := none }.aim s.now)) ∧
     ((x.switchTo = none ∨ s.now < x.switchEnd ∨ s.stopped = true) → exec (.frequencySwitch r) s = .next s) ∧
     ((x.raising = true ∧ 1000 * mvOf x.freq ≤ x.uv ∨ x.slewing = true ∧ x.raising = false ∧ x.uv = 1000 * (mvOf (max x.req x.imposed) - x.trim)) →
       sets (.voltageSlewEnd r) ({ x with slewing := false, raising := false }.aim s.now)) ∧
     (x.raising = false → x.slewing = false → exec (.voltageSlewEnd r) s = .next s) ∧
     (∀ w, x.drowseMove = some w → x.drowseEnd ≤ s.now → s.stopped = false →
       ∃ t y, exec (.drowseRailMove r) s = .next t ∧ Tbl.at? t.regions r = some y ∧ y.drowse = w ∧ t = { s with regions := t.regions } ∧
         ∀ k, k ≠ r → Tbl.at? t.regions k = Tbl.at? s.regions k) ∧
     (x.drowseMove = none → exec (.drowseRailMove r) s = .next s) ∧
     (let thr := match x.part with | some p => (s.part p).trimThr | none => Config.trimThreshold
       x.trimAt ≤ s.now → sets (.trimStep r) ({ x with
       trim := if thr ≤ x.errs then x.trim - 5 else if x.trim < x.ceiling ∧ x.holdoff = false then x.trim + 5 else x.trim
       errs := 0, trimAt := x.trimAt + 1000000 }.aim s.now)) ∧
     (s.now < x.trimAt → exec (.trimStep r) s = .next s) ∧
     (x.holdoff = true → x.holdEnd ≤ s.now → sets (.undervoltHoldoffEnd r) { x with holdoff := false }) ∧
     ((x.holdoff = false ∨ s.now < x.holdEnd) → exec (.undervoltHoldoffEnd r) s = .next s) ∧
     (s.hottest < 105 → exec .thermalStop s = .next s) ∧ (95 ≤ s.hottest → exec .thermalResume s = .next s) ∧
     (105 ≤ s.hottest → ∃ t, exec .thermalStop s = .next t ∧ t = { s with stopped := true, ctxs := t.ctxs } ∧
       ∀ a, Tbl.at? t.ctxs a = (Tbl.at? s.ctxs a).map fun c => { c with iv := { c.iv with stopped := true } }) ∧
     (s.hottest < 95 → exec .thermalResume s = .next { s with stopped := false, agenda := s.flow ++ s.agenda, flow := [] }) ∧
     ((x.hotDue = false ∨ s.stopped = true) → exec (.hotSpot r) s = .next s) ∧
     let told := s.modRegion r fun x => { x with hotDue := false }
     (x.hotDue = true → s.stopped = false → x.part = none → exec (.hotSpot r) s = .next told) ∧
     ∀ p, x.hotDue = true → s.stopped = false → x.part = some p →
       (told.hotCluster p r = none → exec (.hotSpot r) s = .next told) ∧
       (∀ c k y, told.hotCluster p r = some (c, k) → Tbl.at? s.clusters c = some y → y.st = .resident →
         ∃ t, exec (.hotSpot r) s = .next t ∧ Tbl.at? t.clusters c = some { y with target := some k, st := .saving } ∧ s.sameBytes t)) ∧
  ((∀ c l, (alloc c l).foldl (· + ·) 0 ≤ c) ∧
   ∀ (s : State) (demand measured m : Nat) (x : SwarmFlit),
     let others := s.swarm.members.filter (· ≠ s.swarm.self)
     let floors := (s.parts.map fun e => e.2.floor).foldl (· + ·) 0
     let shared := fun (t : State) (w : Nat) =>
       (∀ k, (Tbl.at? t.parts k).map (fun y => { y with budget := 0 }) = (Tbl.at? s.parts k).map fun y => { y with budget := 0 }) ∧
       ((dedup (Tbl.keys s.parts)).map fun k => (t.part k).budget).foldl (· + ·) 0 ≤ w ∧
       (floors ≤ w → ∀ k y, Tbl.at? t.parts k = some y → (s.parts.filter fun e => e.1 = k).length = 1 → y.floor ≤ y.budget);
     ((s.boot < 8 ∨ s.now < (s.swarm.period + 1) * 1000000) → exec (.swarmPeriod demand measured) s = .next s) ∧
     (8 ≤ s.boot → (s.swarm.period + 1) * 1000000 ≤ s.now →
       ∃ t, exec (.swarmPeriod demand measured) s = .next t ∧ t.swarm.period = s.swarm.period + 1 ∧ s.sameBytes t ∧ t.gangs = s.gangs ∧
         t.swarm.measured = measured ∧ shared t (t.swarm.grant - measured) ∧
         (others = [] → s.swarm.floorOnly = false → t.swarm.grant = 3000) ∧
         (s.swarm.floorOnly = true → floors < 65536 → t.swarm.grant = floors) ∧
         ∃ sent, t.outbox = s.outbox ++ sent ∧ sent.length = others.length ∧ ∀ (k : Nat) d, others[k]? = some d → ∃ f,
           sent[k]? = some (.packet f) ∧ f.ptype = 7 ∧ f.part = 0 ∧ f.cw = 15 ∧ f.src.toNat = s.swarm.self % 2 ^ 12 ∧ f.dst.toNat = d % 2 ^ 12 ∧ f.data = [] ∧
           f.value.toNat / 2 ^ 32 = s.swarm.period % 2 ^ 32 ∧ f.value.toNat / 2 ^ 16 % 2 ^ 16 = min demand 3000 ∧ (floors < 65536 → f.value.toNat % 2 ^ 16 = floors)) ∧
     (x.part ≠ 0 → exec (.swarmReport x) s = .next { s with violations := s.violations + 1 }) ∧
     (x.part = 0 → x.dev ∉ others → exec (.swarmReport x) s = .next s) ∧
     (x.part = 0 → x.dev ∈ others → ∃ t, exec (.swarmReport x) s = .next t ∧ t = { s with swarm := t.swarm } ∧ Tbl.at? t.swarm.missing x.dev = none ∧ t.swarm.grant = s.swarm.grant ∧
       (t.swarm.floorOnly = true ↔ s.swarm.floorOnly = true ∧ ∃ e ∈ s.swarm.missing, e.1 ≠ x.dev ∧ 3 ≤ e.2) ∧
       ∀ k, Tbl.at? t.swarm.reports k = if k = x.dev then some (x.floor.toNat, x.demand.toNat) else Tbl.at? s.swarm.reports k) ∧
     (Tbl.atD s.swarm.missing m 0 < 3 → exec (.swarmReportTimeout m) s = .next s) ∧
     (3 ≤ Tbl.atD s.swarm.missing m 0 → floors < 65536 →
       ∃ t, exec (.swarmReportTimeout m) s = .next t ∧ shared t (floors - s.swarm.measured) ∧
         t = { s with swarm := { s.swarm with floorOnly := true, grant := floors }, parts := t.parts, free := t.free }))

/-- R281, R287, R288, R363: a corrected error is counted; an uncorrectable one poisons the line, row, register, value or slot it lies in, drops the
copy, kills the owning team, at once or at the end of the chunk or step in hand, with a notice of cause POISON, or destroys the context with reason 3,
and in an island that is trimmed it is logged and the trim withdrawn; a refresh writes its held rows back; and patrol scrub visits the next row of a
stack, a held one at its refresh, each of its 2 ^ 26 rows once a day, with its traffic (notes/assumptions/72.md) borne by the device; a pseudo-channel
is taken as one bank (123): both are the model's choice. -/
def Obligations.ErrorEvents : Prop :=
  ∀ s : State,
    let whole := fun (r : Nat) => (s.region r).trim = 0;
    (∀ x, ∃ t, exec (.correctableError x) s = .next t ∧ t = { s with errRate := t.errRate, regions := t.regions } ∧
      Tbl.atD t.errRate (s.siteKey x) 0 = Tbl.atD s.errRate (s.siteKey x) 0 + 1 ∧
      (∀ k, k ≠ s.siteKey x → Tbl.at? t.errRate k = Tbl.at? s.errRate k) ∧
      ∀ k, Tbl.at? t.regions k = (Tbl.at? s.regions k).map fun y =>
        if siteTrims x = true ∧ s.siteKey x = k then { y with errs := y.errs + 1 } else y) ∧
    (let marks := fun (x : ErrSite) (l : Nat) => ∃ t, exec (.uncorrectableError x) s = .next t ∧ t = { s with memBad := t.memBad } ∧
        ∀ b, b ∈ t.memBad ↔ b ∈ s.memBad ∨ b / 128 = l;
      (∀ l < 2 ^ 32, marks (.dram l) l) ∧
      (∀ l, whole (homeOf (128 * l)) →
        if (Tbl.at? s.home l).isSome then marks (.home l) l else exec (.uncorrectableError (.home l)) s = .next s) ∧
      (∀ l, if (Tbl.at? s.victim l).isSome then marks (.victim l) l else exec (.uncorrectableError (.victim l)) s = .next s) ∧
      ∀ l, if (s.heldAt (128 * l)).isSome then marks (.held l) l else exec (.uncorrectableError (.held l)) s = .next s) ∧
    (let marks := fun (x : ErrSite) (a n : Nat) => ∃ t, exec (.uncorrectableError x) s = .next t ∧ t = { s with storeBad := t.storeBad } ∧
        ∀ b, b ∈ t.storeBad ↔ b ∈ s.storeBad ∨ a ≤ b ∧ b < a + n;
      (∀ c row, row < 8192 → whole (c / 8) → marks (.scratch c row) (coreBase c + 128 * row) 128) ∧
      ∀ c off, off < 2 ^ 20 → whole (c / 8) → marks (.reg c off) (coreBase c + off / 4 * 4) 4) ∧
    (∀ c i, i < 65536 → whole (c / 8) → ∃ t, exec (.uncorrectableError (.acc c i)) s = .next t ∧ t = { s with acc := t.acc } ∧
      t.accSlot c 0 i = 2 ^ 48 + b2n (slotOvf (s.accSlot c 0 i)) * 2 ^ 49 ∧
      ∀ a, a < accAddr c 0 i ∨ accAddr c 0 i + 8 ≤ a → t.acc.get a = s.acc.get a) ∧
    (∀ u g, Tbl.at? s.gangs u = some g → whole (s.regOf g) → ∀ l y, Tbl.at? g.lanes l = some y →
      let lane := fun (x : ErrSite) (P : Lane → Prop) => ∃ t h z, exec (.uncorrectableError x) s = .next t ∧ t = { s with gangs := t.gangs } ∧
        (∀ v, Tbl.at? t.gangs v = if v = u then some h else Tbl.at? s.gangs v) ∧ h = { g with lanes := h.lanes } ∧
        (∀ k, Tbl.at? h.lanes k = if k = l then some z else Tbl.at? g.lanes k) ∧ P z
      lane (.latch u l) (fun z => z = { y with latchBad := true }) ∧
      ∀ i < 8, lane (.operand u l i) fun z => z = { y with oBad := z.oBad } ∧ ∀ b < 8, z.oBad.getLsbD b = (y.oBad.getLsbD b || decide (b = i))) ∧
    (∀ c l, whole (c / 8) → ∃ t, exec (.uncorrectableError (.l1 c l)) s = .next t ∧ t = { s with l1 := t.l1 } ∧
      t.l1Copy c l = none ∧ (∀ k, k ≠ l → t.l1Copy c k = s.l1Copy c k) ∧ ∀ d k, d ≠ c → t.l1Copy d k = s.l1Copy d k) ∧
    (∀ r l, whole r → ∃ t, exec (.uncorrectableError (.near r l)) s = .next t ∧ t = { s with near := t.near } ∧
      ∀ q a k, t.nearCopy q a k = if q = r ∧ k = l then none else s.nearCopy q a k) ∧
    (∀ c l x, Tbl.at? s.regions (c / 8) = some x → 0 < x.trim → ∃ t y, exec (.uncorrectableError (.l1 c l)) s = .next t ∧
      t.uvlog = s.uvlog ++ [(s.now, x.freq, x.trim, .l1 c l)] ∧ Tbl.at? t.regions (c / 8) = some y ∧ y.trim = 0 ∧ y.raising = true ∧
      y.ceiling = x.ceiling - 5 ∧ y.holdoff = true ∧ y.holdEnd = s.now + 1000000000 ∧ t.l1Copy c l = none) ∧
    (∀ n x, Tbl.at? s.teams n = some x → (Tbl.at? s.ctxs (s.asidOfTeam n)).isSome →
      let kills := fun (e : ErrSite) => ∃ t, exec (.uncorrectableError e) s = .next t ∧ s.killed t n ∧
        ∀ k, (s.ctx (s.asidOfTeam n)).freeSlot = some k → ∃ z, Tbl.at? (t.ctx (s.asidOfTeam n)).slots k = some z ∧ z.st ≠ .free ∧ z.owner = .notice ∧
          (z.rcd.drop 4).take 1 = [6]
      kills (.barrier n) ∧ (∀ j, kills (.tag n j) ∧ kills (.rowHold n j)) ∧ ∀ u g, Tbl.at? s.gangs u = some g → g.team = n → kills (.laneQueue u)) ∧
    (∀ a c k, Tbl.at? s.ctxs a = some c → c.doomed = none → (∀ e ∈ s.ctxs, e.1 ≠ a → e.2.fn = c.fn → e.2.page ≠ c.page) →
      ∀ e ∈ [ErrSite.faultSlot a k, .directory a k], (∀ r, s.siteRegion e = some r → whole r) →
      ∃ t, exec (.uncorrectableError e) s = .next t ∧ (s.gridsOf a = [] → Tbl.at? t.ctxs a = none) ∧
        (∀ d, Tbl.at? t.ctxs a = some d → d.doomed = some 3 ∧ t.gridsOf a ≠ []) ∧
        (Tbl.at? t.ctxs a = none → Msg.msix c.fn (3 * c.page + 2) ∈ t.outbox ∧
          ∃ y ∈ t.pages, y.fn = c.fn ∧ y.page = c.page ∧ y.asid = a ∧ y.why = 3)) ∧
    (∀ stack pc bad, let here := fun (e : RowEntry) => stackOf (1024 * e.row) = stack ∧ pchanOf (1024 * e.row) = pc
      ∃ t, exec (.refresh stack pc bad) s = .next t ∧ t.mem = s.mem ∧ t.gangs = s.gangs ∧ t.ctxs = s.ctxs ∧
        t.rowTab = s.rowTab.map (fun e => if here e then { e with slots := e.slots.map fun x => { x with dirty := 0 } } else e) ∧
        (let met := fun (r : Nat) => s.rowTab.any fun e => decide (here e) && e.row = r
         Tbl.atD t.errRate (48 + stack) 0 = Tbl.atD s.errRate (48 + stack) 0 + ((s.scrubHeld.filter fun e => met e.1).map (·.2)).foldl (· + ·) 0 ∧
         ∀ r, Tbl.at? t.scrubHeld r = if met r then none else Tbl.at? s.scrubHeld r) ∧
        ∀ a, a ∈ t.memBad ↔ a ∈ s.memBad ∨
          ∃ b ∈ bad, b.2 < 8 ∧ a / 128 = 8 * b.1 + b.2 ∧ ∃ e ∈ s.rowTab, here e ∧ e.row = b.1 ∧ e.opens.getLsbD b.2 = true) ∧
    ∀ stack n, let k := 48 + stack
      let seen := Tbl.atD s.scrub stack 0
      let due := stack < 8 ∧ seen / 2 ^ 26 * 86400000000000 ≤ s.now ∧ s.stopped = false
      (¬ due → exec (.patrolScrub stack n) s = .next s) ∧
      (due → ∃ t, exec (.patrolScrub stack n) s = .next t ∧
        t = { s with errRate := t.errRate, scrub := Tbl.put s.scrub stack (seen + 1), scrubHeld := t.scrubHeld, energy := t.energy } ∧
        t.energy.owed = s.energy.owed ∧
        let row := visitRow stack seen
        let gone := fun (r : Nat) => decide (stackOf (1024 * r) = stack) && !s.rowHeld r
        let late := s.scrubHeld.filter fun e => gone e.1
        let now := if s.rowHeld row then 0 else 1
        Tbl.atD t.errRate k 0 = Tbl.atD s.errRate k 0 + (late.map (·.2)).foldl (· + ·) 0 + now * n ∧ (∀ i, i ≠ k → Tbl.at? t.errRate i = Tbl.at? s.errRate i) ∧
        (∀ r, Tbl.at? t.scrubHeld r = if s.rowHeld row = true ∧ r = row then some (Tbl.atD s.scrubHeld row 0 + n)
          else if gone r then none else Tbl.at? s.scrubHeld r) ∧
        ∀ q i, t.overTick q i = s.overTick q i + if q = none ∧ i = k then 22880 * (late.length + now) else 0)

/-- R413, R414, R418, R426: a full record, or after idleness or the retirement of the last traced gang all that is left, goes to the ring at TRTAIL
while the ring has room, and TRTAIL moves on; draining waits when the ring's address does not take it; a running gang's cadence touches the trace
alone; a read of TRTAIL acquires the ring. R322, R341, R351, R353, R366, R370 to R373, R400: a tick ends 16 µs after the last, unless a reading is
still due or a deadline comes first, and leaves nothing of it unbilled; outside a stop it counts the ticks at which a region reads hot, and a report
is due at the fourth (the mean over the other regions of the die that are not offline, and none for a region alone, is the model's choice,
notes/assumptions/109.md, as is a ring address modulo 2⁴⁸, 68); a reading that is due, one for each request of the host, is numbered, begins the
context's next interval, and is written to a meter ring that is enabled and has room. -/
def Obligations.TraceAndMeter : Prop :=
  (∀ (s : State) (core asid : Nat) (c : Ctx), Tbl.at? s.ctxs asid = some c →
     let b := s.traceBuf core asid
     let len := b.bytes.length
     let rows := 2 ^ (c.trlog + 6)
     let va := c.trbase.toNat + 64 * (c.trtail.toNat % rows)
     let full := c.trwait = true ∨ (c.trtail - c.trhead).toNat = rows
     let idle := b.lastAt + 102400 ≤ (s.region (core / 8)).cycles ∨ b.flush = true
     let drains := fun (i : Instr) (n : Nat) =>
       (full → exec i s = .next s) ∧
       (∀ cause, ¬ full → s.ringFault asid va = some cause → ∃ t d, exec i s = .next t ∧ s.sameBytes t ∧ Tbl.at? t.ctxs asid = some d ∧
         d.trwait = true ∧ d.trtail = c.trtail) ∧
       (¬ full → s.ringFault asid va = none → ∀ pa, s.peekPa asid va = some pa → isPeer pa = false →
         ∃ t d, exec i s = .next t ∧ s.storedFor t asid pa (traceRecord core n b) ∧ t.store = s.store ∧ t.acc = s.acc ∧
           Tbl.at? t.ctxs asid = some d ∧ d.trtail = c.trtail + 1 ∧ d.trhead = c.trhead)
     (len < 62 → exec (.traceDrain core asid) s = .next s) ∧ (62 ≤ len → drains (.traceDrain core asid) 62) ∧
     ((len = 0 ∨ 62 ≤ len ∨ ¬ idle) → exec (.traceIdleFlush core asid) s = .next s) ∧
     (0 < len → len < 62 → idle → drains (.traceIdleFlush core asid) len) ∧
     ∀ u, (Tbl.at? s.gangs u = none → exec (.traceSyncCadence u) s = .next s ∧ exec (.trtail u) s = .next s) ∧
       ∀ g, Tbl.at? s.gangs u = some g →
         (s.gangRuns g = false → exec (.traceSyncCadence u) s = .next s) ∧
         (s.gangRuns g = true → ∃ t, exec (.traceSyncCadence u) s = .next t ∧ s.onlyTraced t u) ∧
         ∃ t, exec (.trtail u) s = .next t ∧
           t = { s with l1 := t.l1, near := t.near, outbox := s.outbox ++ [.value ((s.ctxOf g).trtail.zeroExtend 64)] }) ∧
  (∀ (s : State) (m : List Sample),
     ((∃ e ∈ s.ctxs, s.readingDue e.2 = true) → exec (.tick m) s = .next s) ∧
     ((∀ e ∈ s.ctxs, s.readingDue e.2 = false) → s.stopped = false → s.now < s.tickEnd → ∀ d ∈ s.deadlines, d < s.tickEnd →
       ∃ t, exec (.tick m) s = .next t ∧ t.tickEnd = s.tickEnd ∧ t.now ≤ max s.now d ∧ s.sameBytes t) ∧
     ((∀ e ∈ s.ctxs, s.readingDue e.2 = false) → s.now ≤ s.tickEnd → (s.stopped = true ∨ ∀ d ∈ s.deadlines, s.tickEnd ≤ d) →
       ∃ t, exec (.tick m) s = .next t ∧ t.now = s.tickEnd ∧ t.tickEnd = s.tickEnd + 16000 ∧ t.billed = [] ∧ t.energy.ovhd = [] ∧ t.tickStop = 0 ∧
         s.sameBytes t ∧ t.teams = s.teams ∧ t.grids = s.grids ∧ (∀ e ∈ t.ctxs, e.2.dtick = []) ∧
         let temp : Nat → Int := fun r => ((m.find? fun x => x.island = r).map (·.temp)).getD 0
         let others := fun (r : Nat) => (List.range 48).filter fun k => k / 12 = r / 12 ∧ k ≠ r ∧ (s.region k).offline = false
         let hot := fun (r : Nat) => 100 ≤ temp r ∨
           others r ≠ [] ∧ ((others r).map temp).foldl (· + ·) 0 + 15 * (others r).length ≤ temp r * (others r).length
         ∀ r y, Tbl.at? s.regions r = some y → ∃ z, Tbl.at? t.regions r = some z ∧
           ((s.stopped = true ∨ 48 ≤ r ∨ y.offline = true) → z.hot = y.hot ∧ z.hotDue = y.hotDue) ∧
           (s.stopped = false → r < 48 → y.offline = false → (∀ k < 48, ∃ x ∈ m, x.island = k) →
             (hot r → z.hot = min (y.hot + 1) 4) ∧ (¬ hot r → z.hot = 0) ∧ (z.hotDue = true ↔ z.hot = 4))) ∧
     ∀ a, (Tbl.at? s.ctxs a = none → exec (.readingPeriodic a) s = .next s) ∧
       ∀ c, Tbl.at? s.ctxs a = some c →
         let y := s.part c.part
         let pa := 2 ^ 48 + (y.mrbase.toNat + 4096 * (y.mrtail.toNat % y.mrSize)) % 2 ^ 48
         let body := s.readingBody a (if c.requested = 0 then 0 else 2)
         (2 ≤ y.mrlog → y.mrlog ≤ 12 → y.mrSize = 2 ^ y.mrlog) ∧ (s.readingDue c = false → exec (.readingPeriodic a) s = .next s) ∧
         (s.readingDue c = true → ∃ t d, exec (.readingPeriodic a) s = .next t ∧ t.seq = s.seq + 1 ∧ Tbl.at? t.ctxs a = some d ∧
           d.requested = c.requested - 1 ∧ d.iv = Interval.from s.now ∧ d.account = c.account ∧ t.gangs = s.gangs ∧
           ((y.mren = false ∨ Tbl.at? s.parts c.part = none) → t.mem = s.mem) ∧
           (∀ z, Tbl.at? s.parts c.part = some z → z.mren = true → z.mwait = [] → (z.mrtail - z.mrhead).toNat ≠ z.mrSize →
             Mem.storedAt s.mem t.mem pa (fitBytes 4096 (signed body)) ∧
             Tbl.at? t.parts c.part = some { z with mwait := [], mrtail := z.mrtail + 1 })))

/-- R23, R37, R39, R196, R229, R219: a lane block begins in every cell that has a live lane; a gang that is done retires, outside a thermal stop: it
leaves its barriers and its window reads 0; a team whose work has finished ends: its rows are released, and its windows, its scratchpad and its tiles
read 0; a deferred TASKFMT traps its gang; a pre-emption enters the PREEMPT handler, before the BREAK of a stepped EXIT, or saves the gang by force
with its state whole; and a template's next item starts where the template stood. That cycles left of 0 save a gang only while its cluster is being
saved, and what becomes of the request (notes/assumptions/37.md), and that waiting reads are made anew after a handler (113), is the model's choice.
-/
def Obligations.GangBoundaries : Prop :=
  ∀ (s : State) (u : Nat),
    (Tbl.at? s.gangs u = none → exec (.gangRetire u) s = .next s ∧ exec (.itemCreate u) s = .next s) ∧
    ∀ g, Tbl.at? s.gangs u = some g →
      let stepped := g.stepping = 2 ∧ g.priv = false ∧ g.stepIn = g.pframe.isSome
      let done := s.stopped = false ∧ (g.allExited = true ∨ g.exiting = true ∧ ¬ stepped ∧ g.queue = [] ∧ g.block = none)
      let rc := s.recOf g
      let member := fun (k : Nat) => (k / 16 = 1 ∧ k % 16 < rc.ntb) ∨ (k / 16 = 2 ∧ k % 16 < rc.ncb) ∨ (k / 16 = 3 ∧ k % 16 < rc.nkb) ∨
        (k / 16 = 4 ∧ k % 16 < rc.nxb)
      let left := fun (y : Barrier) =>
        if y.exp - 1 ≤ y.arr then { y with exp := y.exp - 1, arr := 0, phase := y.phase + 1 } else { y with exp := y.exp - 1 };
      (g.queue = [] → exec (.laneBlockStart u) s = .next s) ∧
      (∀ e rest, g.queue = e :: rest → s.gangRuns g = true → g.block = none → g.allExited = false →
        ∃ t h, exec (.laneBlockStart u) s = .next t ∧ Tbl.at? t.gangs u = some h ∧ s.onlyTraced t u ∧ h.block = some e ∧ h.queue = rest ∧
          (∀ l, Tbl.at? h.lanes l = (Tbl.at? g.lanes l).map fun y => if y.exited then y else { y with latch := 0, latchBad := false }) ∧
          ∀ c < 8, ∃ y, Tbl.at? h.cells c = some y ∧ y.lpc = e.idx ∧ y.stack = [] ∧ y.pending = none ∧
            y.run = (if g.liveCell c then .run else .idle) ∧ ∀ k < 4, y.mask.getLsbD k = !(g.lane (4 * c + k)).exited) ∧
      ((s.gangRuns g = false ∨ ¬ done) → exec (.gangRetire u) s = .next s) ∧
      (s.gangRuns g = true → done → g.wcs = [] → (∀ c, Tbl.atD g.wcl c [] = []) → s.requests = [] →
        ∃ t, exec (.gangRetire u) s = .next t ∧ Tbl.at? t.gangs u = none ∧ t.mem = s.mem ∧
          (rc.ntb ≤ 16 → rc.ncb ≤ 8 → rc.nkb ≤ 4 → rc.nxb ≤ 4 → (Tbl.at? s.teams g.team).isSome →
            (Tbl.at? s.clusters (s.team g.team).cluster).isSome → (Tbl.at? s.grids (s.team g.team).grid).isSome →
            ∀ k, member k → t.barrier g.team k = left (s.barrier g.team k)) ∧
          ((∀ v y, Tbl.at? s.gangs v = some y → y.team = g.team → v = u) → ∀ x, Tbl.at? t.teams g.team = some x → x.retired = true) ∧
          ∀ a, let lo := coreBase (s.coreOf g) + g.wbase * 128
            t.store.get a = if lo ≤ a ∧ a < lo + s.regsOf g * 128 then 0 else s.store.get a) ∧
      (let taken := s.gangRuns g = true ∧ g.priv = false ∧ (g.hasStream = true ∨ stepped ∧ g.allExited = false)
       ((g.preq = none ∨ ¬ taken) → exec (.preemptDelivery u) s = .next s) ∧
       ∀ cause, g.preq = some cause → taken →
        ∃ t h, exec (.preemptDelivery u) s = .next t ∧ Tbl.at? t.gangs u = some h ∧ h.preq = none ∧
          ((s.ctxOf g).pvec = 0 → s.onlyTraced t u ∧ h = { g with preq := none, pbleft := 0, run := .forced }) ∧
          ((s.ctxOf g).pvec ≠ 0 → (s.breakOff u).onlyTraced t u ∧ h.spc = (s.ctxOf g).pvec ∧ h.pspc = g.spc ∧ h.pcause = cause ∧ h.queue = [] ∧ h.block = none ∧ h.s = g.s ∧
            h.priv = g.priv ∧ h.trap = g.trap ∧ h.pbleft = g.pbleft ∧
            (∀ l, Tbl.at? h.lanes l = (Tbl.at? g.lanes l).map fun y =>
              { o := [], latch := 0, p := 1, exited := y.exited, latchBad := false, oBad := 0 }) ∧
            h.pframe = some
              { lanes := g.lanes, cells := g.cells, queue := g.queue, block := g.block, bar := g.bar, rng := g.rng, spc := g.spc, exiting := g.exiting })) ∧
      (let out := g.pbleft = 0 ∧ (g.preq.isSome ∨ g.pframe.isSome) ∧ (s.clusterOfTeam g.team).st = .saving
       (¬ out → exec (.pbleftExpiry u) s = .next s) ∧
       (out → ∃ t, exec (.pbleftExpiry u) s = .next t ∧ t = { s with gangs := t.gangs } ∧
          ∀ k, Tbl.at? t.gangs k =
            if k = u then some { g with preq := none, run := if g.run = .run then .forced else g.run } else Tbl.at? s.gangs k)) ∧
      ((s.itemRoom g.team = none ∨ (∀ count i, g.run = .template count i → count ≤ i) ∨
        (s.clusterOfTeam g.team).st ∉ [.resident, .stalled] ∨ (s.team g.team).dying = true) → exec (.itemCreate u) s = .next s) ∧
      (∀ count i slot w idx, g.run = .template count i → s.itemRoom g.team = some (slot, w) → s.freeIndex g.team (s.recOf g).gangs = some idx →
        i < count → (s.clusterOfTeam g.team).st ∈ [.resident, .stalled] → (s.team g.team).dying = false → Tbl.at? s.gangs s.uid = none →
        ∃ t h k, exec (.itemCreate u) s = .next t ∧ Tbl.at? t.gangs s.uid = some h ∧ t.uid = s.uid + 1 ∧ h.team = g.team ∧ h.idx = idx ∧
          h.slot = slot ∧ h.wbase = w ∧ h.item = i ∧ h.ntpl = g.ntpl + 1 ∧ h.tplOf = some u ∧ h.spc = g.spc ∧ h.s = g.s ∧ h.segs = g.segs ∧
          h.sttLeft = g.stts ∧ h.mode = { g.mode with flags := 0 } ∧ h.priv = false ∧
          (∀ l < 32, ∃ y, Tbl.at? h.lanes l = some y ∧ y.p = (Tbl.atD g.lanes l Lane.blank).p ∧ y.latch = 0 ∧ y.o = [] ∧ y.exited = false) ∧
          (∀ k, k ∈ h.shared ↔ 16 * k < (s.recOf g).regs) ∧ Tbl.at? t.gangs u = some k ∧ k.run = .template count (i + 1)) ∧
      ∀ n x, Tbl.at? s.teams n = some x →
        let ends := s.stopped = false ∧ x.retired = true ∧ x.tasks = [] ∧ x.copies = [] ∧ x.deferred = [] ∧ x.image = none
        let rc := (s.grid x.grid).rcd
        let base := coreBase x.core
        let mine := fun (a : Nat) => (base + x.sbase * 128 ≤ a ∧ a < base + x.sbase * 128 + rc.scratch) ∨
          ∃ w ∈ x.wbases, base + w * 128 ≤ a ∧ a < base + (w + rc.regs) * 128
        let tiles := accAddr x.core x.tileBase 0
        (¬ ends → exec (.teamExit n) s = .next s) ∧
        (ends → ∃ t, exec (.teamExit n) s = .next t ∧ Tbl.at? t.teams n = none ∧
          (∀ a, (mine a → t.store.get a = 0 ∧ a ∉ t.storeBad) ∧ (¬ mine a → t.store.get a = s.store.get a ∧ (a ∈ t.storeBad ↔ a ∈ s.storeBad))) ∧
          (∀ a, t.acc.get a = if tiles ≤ a ∧ a < tiles + 8192 * rc.tiles then 0 else s.acc.get a) ∧
          (∀ i < rc.tiles, t.tileMeta x.core (x.tileBase + i) = 0) ∧
          ∀ j < 8, (x.row j).st = .held → (x.row j).saved = false → ∀ e ∈ t.rowTab, e.row = (x.row j).row →
            ∀ y ∈ e.slots, ¬ (y.team = n ∧ y.slot = j)) ∧
        (x.deferred = [] → exec (.deferredTaskfmt n) s = .next s) ∧
        (∀ e, x.deferred = [e] → s.deferredTo n e.1 = some u → s.gangRuns g = true → g.priv = false → (s.ctxOf g).tvec ≠ 0 →
          ∃ t h y, exec (.deferredTaskfmt n) s = .next t ∧ Tbl.at? t.gangs u = some h ∧ g.inHandler h (s.ctxOf g).tvec y ∧
            y.cause = BitVec.ofNat 64 (9 + 2 ^ 34) ∧ y.tspc = g.spc ∧ y.taddr = BitVec.ofNat 64 e.2.2 ∧
            (Tbl.at? t.teams n).map (·.deferred) = some [])

/-- R306 to R309, R322 to R335, R341, R343: a cluster whose gangs are all saved has its teams' images written and is READY; after a swap it is ABSENT
while a gang of it is parked without a reply or it holds a WAITING slot, and READY otherwise (notes/assumptions/54.md); a swap begins only after PARKT
and where room helps; a restore makes it RESIDENT, and then delivers the request that has come meanwhile; a decision of the scheduler waits for the
age steps, retirements and ends that are due, places the first unit that fits, and, when none does, leaves no blocked head of age 16 without its
region frozen; a record read is captured, and becomes a grid when it is in order; and what epochs, slices and ages do. What a decision waits for
(110), and which heads are blocked and how they age (56, 57), is the model's choice. -/
def Obligations.Scheduling : Prop :=
  ∀ s : State,
    (∀ c, Tbl.at? s.clusters c = none → ∀ i ∈ [Instr.clusterSaved c, .swapSaveComplete c, .swapBegin c, .restoreComplete c], exec i s = .next s) ∧
    (∀ c x, Tbl.at? s.clusters c = some x →
      let imaged := fun (t : State) => ∀ n ∈ x.teams, (Tbl.at? s.teams n).isSome → ∃ y, Tbl.at? t.teams n = some y ∧ y.image.isSome
      ((x.st ≠ .saving ∨ s.canSave c = false) → exec (.clusterSaved c) s = .next s) ∧
      (x.st = .saving → s.canSave c = true → x.target = none →
        ∃ t y, exec (.clusterSaved c) s = .next t ∧ Tbl.at? t.clusters c = some y ∧ y.st = .ready ∧ imaged t) ∧
      ((x.st ≠ .swapping ∨ s.canSave c = false) → exec (.swapSaveComplete c) s = .next s) ∧
      (let a := (s.grid x.grid).asid
       let parked := ∃ u ∈ s.gangsOfCluster c, ∃ n, (s.gang u).run = .parked n
       let waits := ∃ n ∈ s.slotsOwned a fun o => x.teams.any fun m => s.ownedByTeam m o, (Tbl.atD (s.ctx a).slots n FaultSlot.blank).st = .waiting
       x.st = .swapping → s.canSave c = true → x.target = none →
        ∃ t y, exec (.swapSaveComplete c) s = .next t ∧ Tbl.at? t.clusters c = some y ∧ imaged t ∧
          ((parked ∨ waits) → y.st = .absent) ∧ (¬ (parked ∨ waits) → y.st = .ready)) ∧
      (let k := s.ctx (s.grid x.grid).asid
       let due := x.st = .stalled ∧ s.clusterStalled c = true ∧ k.parkt ≠ 0 ∧ k.parkt * 1000 ≤ x.stallNs ∧ s.swapHelps k.part c = true
       (¬ due → exec (.swapBegin c) s = .next s) ∧
       (due → ∃ t, exec (.swapBegin c) s = .next t ∧ t = { s with clusters := t.clusters, gangs := t.gangs } ∧
         (∀ n, Tbl.at? t.clusters n = if n = c then some { x with st := .swapping } else Tbl.at? s.clusters n) ∧
         ∀ u, Tbl.at? t.gangs u = (Tbl.at? s.gangs u).map fun g => if u ∈ s.gangsOfCluster c then
           { g with preq := none, pbleft := 0, run := if g.run = .run then .forced else g.run } else g)) ∧
      (x.st ≠ .restoring → exec (.restoreComplete c) s = .next s) ∧
      (x.st = .restoring → ∃ t y, exec (.restoreComplete c) s = .next t ∧ Tbl.at? t.clusters c = some y ∧ t.mem = s.mem ∧ y.asked = none ∧
        (∀ n ∈ x.teams, ∀ z, Tbl.at? t.teams n = some z → z.image = none) ∧
        (x.asked = none → y.st = .resident) ∧
        ∀ cause, x.asked = some cause → y.st = .saving ∧
          ∀ u ∈ s.gangsOfCluster c, ∀ h, Tbl.at? t.gangs u = some h → h.run = .run → h.preq = some cause)) ∧
    ((∀ e ∈ s.clusters, (e.2.st = .resident → s.clusterStalled e.1 = false) ∧ (e.2.st = .stalled → s.clusterStalled e.1 = true)) → s.restall = s) ∧
    (∀ c x, s.clusters = [(c, x)] →
      (x.st = .resident → s.clusterStalled c = true → s.restall = { s with clusters := [(c, { x with st := .stalled, stallNs := 0 })] }) ∧
      (x.st = .stalled → s.clusterStalled c = false → s.restall = { s with clusters := [(c, { x with st := .resident, stallNs := 0 })] })) ∧
    (∀ p, (s.ageDue p = none ↔ ∀ a ∈ s.ctxsOf p, ∀ e ∈ (s.ctx a).queues, e.2.blocked = true → e.2.blockNs < 64000) ∧
      ∀ e, s.stopped = false → s.parts = [(p, e)] → (∀ i, s.ageDue p = some i → s.dueNow = some i) ∧
        (s.ageDue p = none → s.decisionDue p = true → s.endDue p = none → s.dueNow = some (.clusterPlace p))) ∧
    (∀ a c q x ns, Tbl.at? s.ctxs a = some c → Tbl.at? c.queues q = some x → x.blocked = true → s.stopped = false →
      (s.elapse ns).now ≤ s.now + (64000 - x.blockNs)) ∧
    (∀ p, s.decisionWaits p = true → exec (.clusterPlace p) s = .next s) ∧
    (∀ p y, Tbl.at? s.parts p = some y → s.decisionWaits p = false → (y.updating.isSome ∨ y.failing.isSome) → s.quiesced p = false →
      ∃ t, exec (.clusterPlace p) s = .next t ∧ t = { s with ctxs := t.ctxs }) ∧
    (∀ p y, Tbl.at? s.parts p = some y → s.decisionWaits p = false → y.updating = none → y.failing = none →
      (∀ a ∈ s.ctxsOf p, (s.ctx a).st ≠ .preempting) →
      let found := (s.tryUnits p (s.units p)).2
      ((∀ a ∈ s.ctxsOf p, ∀ e ∈ (s.ctx a).queues, e.2.blocked = true → e.2.age < 16) → found = (s.units p).findSome? fun w =>
        if s.mayPlace w then (s.fit p (fun _ => false) (fun r => s.keptFrom p r w) w).map fun l => (w, l) else none) ∧
      ∃ t, exec (.clusterPlace p) s = .next t ∧
        (found = none → t = { s with ctxs := t.ctxs } ∧
          ∀ a ∈ s.ctxsOf p, ∀ q < 8, ∀ z, Tbl.at? (t.ctx a).queues q = some z → z.blocked = true → 16 ≤ z.age → z.frozen.isSome) ∧
        (found.isSome → ∀ a ∈ s.ctxsOf p, ∀ q x, Tbl.at? (s.ctx a).queues q = some x → (∀ n l, found ≠ some (.head a q n, l)) →
          ∃ z, Tbl.at? (t.ctx a).queues q = some z ∧ z.blocked = x.blocked ∧ z.age = x.age ∧ z.blockNs = x.blockNs) ∧
        (∀ c r gr l x, found = some (.back c, (r, gr) :: l) → Tbl.at? s.clusters c = some x →
          ∃ z, Tbl.at? t.clusters c = some z ∧ z.st = .restoring ∧ z.region = r ∧ z.target = none) ∧
        ∀ a q n l x, found = some (.head a q n, l) → Tbl.at? s.grids n = some x →
          ∃ z, Tbl.at? t.grids n = some z ∧ z.placed = x.placed + l.length ∧ z.admitted = true ∧ z.gid = x.gid) ∧
    (∀ a q, Tbl.at? s.ctxs a = none → exec (.hostRecordRead a q) s = .next s ∧ exec (.ageStep a q) s = .next s ∧ exec (.sliceEnd a) s = .next s) ∧
    (∀ a c q x, Tbl.at? s.ctxs a = some c → Tbl.at? c.queues q = some x →
      let due := q < 8 ∧ x.en = true ∧ x.prod = false ∧ x.ferr = false ∧ x.read ≠ x.tail
      let va := x.base + 256 * (x.read.toNat % 2 ^ x.log2s)
      (¬ due → exec (.hostRecordRead a q) s = .next s) ∧
      (∀ s', due → s.sysRead (.sched a q) a va 192 = .wait s' → exec (.hostRecordRead a q) s = .next s') ∧
      (∀ s' k b bs, due → s.sysRead (.sched a q) a va 192 ∈ [.fault s' k b, .bytes s' bs (some b)] → ∃ t d z, exec (.hostRecordRead a q) s = .next t ∧
        Tbl.at? t.ctxs a = some d ∧ Tbl.at? d.queues q = some z ∧ z.ferr = true ∧ z.read = x.read ∧ t.grids = s.grids) ∧
      (∀ s' bs st, due → s.sysRead (.sched a q) a va 192 = .bytes s' bs none → s.recordGives c.part va bs st →
        ∃ t d z, exec (.hostRecordRead a q) s = .next t ∧ Tbl.at? t.ctxs a = some d ∧ Tbl.at? d.queues q = some z ∧ z.read = x.read + 1 ∧
        Msg.msix c.fn (3 * c.page + 1) ∈ t.outbox ∧ (st ≠ 0 → t.grids = s.grids) ∧
        (st = 0 → ∃ n gr, Tbl.at? t.grids n = some gr ∧ gr.asid = a ∧ gr.gid = c.nextGid.toNat ∧
          gr.rcd = LaunchRec.of bs ∧ gr.queue = q ∧ gr.qslot = x.read.toNat ∧ gr.placed = 0 ∧ gr.admitted = false)) ∧
      ((x.blocked = false ∨ x.blockNs < 64000) → exec (.ageStep a q) s = .next s) ∧
      (x.blocked = true → 64000 ≤ x.blockNs → ∃ t d z, exec (.ageStep a q) s = .next t ∧ t = { s with ctxs := t.ctxs } ∧
        Tbl.at? t.ctxs a = some d ∧ Tbl.at? d.queues q = some z ∧ z.age = min (x.age + 1) 31 ∧ z.blockNs = x.blockNs - 64000 ∧ z.blocked = true ∧ z.frozen = x.frozen)) ∧
    (∀ a c, Tbl.at? s.ctxs a = some c →
      (c.slice = none → exec (.sliceEnd a) s = .next s) ∧
      ∀ ns, c.slice = some ns →
        let y := s.part c.part
        let due := y.sliceLen ≤ ns ∧ s.now < s.tickEnd ∧ y.epochPos < y.epochLen ∧ c.st = .eligible ∧ s.hasResident a = true
        let rival := (s.ctxsOf c.part).any fun b =>
          b ≠ a && (s.ctx b).eligible? && s.precedes b a && (s.unitsOf b).any (s.unplaceable c.part)
        (¬ due → exec (.sliceEnd a) s = .next s) ∧
        (due → rival = false → ∃ t, exec (.sliceEnd a) s = .next t ∧ t = { s with ctxs := t.ctxs } ∧
          ∀ b, Tbl.at? t.ctxs b = if b = a then some { c with slice := some 0 } else Tbl.at? s.ctxs b) ∧
        (due → rival = true → exec (.sliceEnd a) s = .next (s.preempt a 7 0))) ∧
    ∀ p y, Tbl.at? s.parts p = some y →
      (y.epochPos < y.epochLen → exec (.epochStart p) s = .next s) ∧
      (y.epochLen ≤ y.epochPos → ∃ t, exec (.epochStart p) s = .next t ∧ t = { s with parts := t.parts, ctxs := t.ctxs } ∧
        (∀ k, Tbl.at? t.parts k = if k = p then some { y with epochPos := 0 } else Tbl.at? s.parts k) ∧
        ∀ a c, Tbl.at? s.ctxs a = some c → c.part = p → Tbl.at? t.ctxs a = some { c with epoch := 0 })

/-- R163, R164, R175, R180, R182, R192, R196, R278, R336, R399: a free matrix engine takes the next task of the rotation, or gives it up when its
tiles are in a wrong mode, with ERR on its SIG; a copy engine moves a chunk; an opening row slot is held, sharing an entry with up to 63 others, or
lost, and its lines leave the home slices and the victim cache; and a fault record is posted to an enabled ring with room. That a 65th slot of an
entry is lost (notes/assumptions/90.md), what PERS of a lost slot reads (91), and a ring address modulo 2⁴⁸ (68), is the model's choice. R175, R182 to
R184, R186: once its addresses are translated, a chunk whose bytes lie in no other device's memory is moved from every segment to every segment: byte
by byte, or element by element with the reduction's operation; then PROGRESS moves on, or the command is done, and the bytes leave the COUNT of its
tag, whose DONE follows a COUNT of 0 and whose ERR follows poison. R72, R175, R193 to R197, R200 to R203, R337: a step of a task runs as its kind
says: MXP and MXB add the exact products of the step's elements, of scratchpad or of a down-converted tile (tensor operands are left out here), into
every slot, SCACC adds a scaled plane, ACCZ zeroes a tile, ACCCV converts one and ACCMOV copies one; a step that reads poison sets ERR on SIG; one
that is not the last moves PROG on; the last one checks what MXP and MXB wrote, sets the metadata, adds the flags to the gang and takes the bytes from
the COUNT of SIG; a task that has no engine, or waits on a fault, makes no step, and a killed team's step in hand is its last. A poisoned scale read
as a NaN (notes/assumptions/63.md), and the order of the tiles of ACCMOV (64), are the model's choice. -/
def Obligations.EngineSteps : Prop :=
  (∀ s : State,
     (∀ r, (s.stopped = true ∨ s.nextTaskFor r = none) → exec (.taskStart r) s = .next s) ∧
     (∀ r e n k x, s.stopped = false → (List.range 8).find? (fun e => !(s.busyEngines r).contains e) = some e → s.nextTaskFor r = some (n, k) →
       Tbl.at? s.teams n = some x →
       ((k.prog ≠ 0 ∨ s.tilesOk n (TaskRec.of k.rcd) = true) → ∃ t, exec (.taskStart r) s = .next t ∧
         t = { s with teams := t.teams, regions := t.regions } ∧
         ∀ j, Tbl.at? t.teams j = if j = n then some { x with
           tasks := x.tasks.map fun (y : Task) => if y.enq = k.enq then { y with engine := some e } else y } else Tbl.at? s.teams j) ∧
       (k.prog = 0 → s.tilesOk n (TaskRec.of k.rcd) = false → ∃ t y, exec (.taskStart r) s = .next t ∧ Tbl.at? t.teams n = some y ∧
         y.tasks.map (·.enq) = (x.tasks.map (·.enq)).filter (fun n => decide (n ≠ k.enq)) ∧ y.deferred = x.deferred ++ [(k.gang, k.gidx, k.soff)] ∧ t.acc = s.acc ∧
         t.metas = s.metas ∧ (let z := TaskRec.of k.rcd
           2 ^ 15 ≤ z.sig → let old := x.tag (z.sig % 64)
             (y.tag (z.sig % 64)).count = old.count - z.bytes ∧ (y.tag (z.sig % 64)).err = true ∧
               (y.tag (z.sig % 64)).done = (old.done || decide (old.count ≤ z.bytes))))) ∧
     (∀ r e, (s.stopped = true ∨ 2 ≤ e ∨ s.copyOn r e = none ∧ s.nextCopyFor r = none) → exec (.copyChunk r e) s = .next s) ∧
     (∀ r e n k g, s.stopped = false → e < 2 → s.copyOn r e = some (n, k) → k.fault = none → k.landing = none → s.enginesRun n = true →
       k.op = none → k.sseg = 1 → k.dseg = 1 → Tbl.at? s.gangs k.gang = some g → g.team = n →
       let o := k.prog * 65536
       let len := min 65536 (k.count - o)
       let src := s.scratchAddr n (k.src + o)
       k.src + o + len ≤ 0x100000 → k.dst + o + len ≤ 0x100000 → poisoned s.storeBad src len = false → o < k.count →
       ∃ t, exec (.copyChunk r e) s = .next t ∧ t.mem = s.mem ∧ t.acc = s.acc ∧
         Mem.storedAt s.store t.store (s.scratchAddr n (k.dst + o)) (s.store.read src len)) ∧
     (∀ n j, let x := (s.team n).row j
       (x.st ≠ .opening → exec (.rowOpenComplete n j) s = .next s) ∧
       (x.st = .opening →
         let pa := 1024 * x.row
         let used := (s.rowTab.filter fun e => stackOf (1024 * e.row) = stackOf pa && pchanOf (1024 * e.row) = pchanOf pa).length
         let mine := fun (l : Nat) => l / 8 = x.row ∧ x.mask.getLsbD (l % 8) = true ∧ s.heldAt (128 * l) = none
         let opens := fun (tab : Option (List RowEntry)) => ∃ t y, exec (.rowOpenComplete n j) s = .next t ∧ Tbl.at? t.teams n = some y ∧ t.mem = s.mem ∧
           (∀ l, (mine l → Tbl.at? t.home l = none ∧ Tbl.at? t.victim l = none) ∧
             (¬ mine l → Tbl.at? t.home l = Tbl.at? s.home l ∧ Tbl.at? t.victim l = Tbl.at? s.victim l)) ∧
           match tab with
           | some l => y.row j = { x with st := .held } ∧ t.rowTab = l
           | none => (y.row j).st = .lost ∧ (y.row j).why = 1 ∧ (y.row j).row = x.row ∧ (y.row j).pers = false ∧ t.rowTab = s.rowTab
         ((∀ e ∈ s.rowTab, e.row ≠ x.row) → opens (if used < 4 then
             some (s.rowTab ++ [{ row := x.row, asid := s.asidOfTeam n, slots := [{ team := n, slot := j, opens := x.mask, dirty := 0 }] }])
           else none)) ∧
         ∀ e, (s.rowTab.find? fun e => e.row = x.row) = some e → opens (if e.asid = s.asidOfTeam n ∧ e.slots.length < 64 then
             some (s.rowTab.map fun f => if f.row = x.row then
               { f with slots := f.slots ++ [{ team := n, slot := j, opens := e.opens ||| x.mask, dirty := 0 }] } else f)
           else none))) ∧
     ∀ a c, Tbl.at? s.ctxs a = some c →
       let ready := c.fren = true ∧ (c.frtail - c.frhead).toNat ≠ c.frSize
       (4 ≤ c.frlog → c.frlog ≤ 15 → c.frSize = 2 ^ c.frlog) ∧ ((c.unposted = [] ∨ ¬ ready) → exec (.faultRecordPost a) s = .next s) ∧
       ∀ n rest, c.unposted = n :: rest → ready →
         ∃ t, exec (.faultRecordPost a) s = .next t ∧
           t = { s with mem := t.mem, memBad := t.memBad, ctxs := t.ctxs, outbox := s.outbox ++ [.msix c.fn (3 * c.page)] } ∧
           Mem.storedAt s.mem t.mem (2 ^ 48 + (c.frbase.toNat + 32 * (c.frtail.toNat % c.frSize)) % 2 ^ 48)
             (Tbl.atD c.slots n FaultSlot.blank).rcd ∧
           ∀ b, Tbl.at? t.ctxs b = if b = a then some { c with frtail := c.frtail + 1, unposted := rest } else Tbl.at? s.ctxs b) ∧
  (∀ (s : State) (r e n : Nat) (k : Copy) (g : Gang), s.stopped = false → e < 2 → s.copyOn r e = some (n, k) → k.fault = none → k.landing = none →
     s.enginesRun n = true → Tbl.at? s.gangs k.gang = some g → g.team = n → (∀ q ∈ s.requests, q.who ≠ .copy n k.seq) → s.unshared →
     k.prog * 65536 < k.count →
     let o := k.prog * 65536
     let len := min 65536 (k.count - o)
     let a := s.asidOfTeam n
     let last := k.count ≤ o + 65536
     let x := s.team n
     ∀ s1 sp s2 dp, s.copyPieces (.copy n k.seq) r a k.sseg (k.src + o) len false = (s1, sp, none) →
       s1.copyPieces (.copy n k.seq) r a k.dseg (k.dst + o) len true = (s2, dp, none) →
       let memory := fun (sg : Nat) => sg = 0 ∨ sg = 3
       let place := fun (ps : List Piece) (sg i : Nat) => match ps.find? fun p => decide (p.at_ ≤ i ∧ i < p.at_ + p.len) with
         | some p => match p.place with
           | .pa y => some (y + (i - p.at_))
           | y => (s2.storeAddr g sg y).map (· + (i - p.at_))
         | none => none
       let get := fun (sg y : Nat) => if memory sg then s2.plainByte a y else s2.store.get y
       let bad := fun (sg y : Nat) => if memory sg then y ∈ s2.memBad else y ∈ s2.storeBad
       let src := fun (i : Nat) => get k.sseg ((place sp k.sseg i).getD 0)
       (∀ i < len, ∃ y, place sp k.sseg i = some y ∧ (memory k.sseg → isPeer y = false)) →
       (∀ i < len, ∀ y, place dp k.dseg i = some y → memory k.dseg → isPeer y = false) →
       let ended := fun (t : State) (err : Prop) => ∃ y, Tbl.at? t.teams n = some y ∧
         y.copies = (if last then x.copies.filter fun j => j.seq ≠ k.seq
           else x.copies.map fun j => if j.seq = k.seq then { j with prog := j.prog + 1, landing := none } else j) ∧
         (y.tag k.tag).count = (x.tag k.tag).count - len ∧ (y.tag k.tag).done = ((x.tag k.tag).done || decide ((x.tag k.tag).count ≤ len)) ∧
         ((y.tag k.tag).err = true ↔ (x.tag k.tag).err = true ∨ err)
       (k.op = none → ∃ t, exec (.copyChunk r e) s = .next t ∧ t.acc = s2.acc ∧
         ended t (∃ i < len, ∃ y, place sp k.sseg i = some y ∧ bad k.sseg y) ∧
         (memory k.dseg → t.store = s2.store ∧ s2.storedForBy t a (List.range len) (place dp k.dseg) fun i => [src i]) ∧
         (¬ memory k.dseg → t.mem = s2.mem ∧ Mem.storedBy s2.store t.store (List.range len) (place dp k.dseg) fun i => [src i])) ∧
       ∀ op, k.op = some op → op.toNat < 10 →
         let (ty, code) := ([(.f32, 0), (.bf16, 0), (.i32, 0), (.i64, 0), (.f32, 1), (.f32, 2), (.i32, 1), (.i32, 2), (.i64, 1), (.i64, 2)] :
           List (Ty × Nat)).getD op.toNat (.i64, 2)
         let w := ty.width / 8
         let num := fun (f : Nat → Byte) => natOf ((List.range w).map f)
         let dst := fun (i : Nat) => place dp k.dseg (w * i)
         len % w = 0 → (∀ p ∈ dp, p.at_ % w = 0 ∧ p.len % w = 0) → (∀ i < len, ∀ y, place sp k.sseg i = some y → ¬ bad k.sseg y) →
         (∀ i < len, ∃ y, place dp k.dseg i = some y ∧ ¬ bad k.dseg y) →
         (∀ i < len, ∀ j < len, i ≠ j → place dp k.dseg i ≠ place dp k.dseg j) →
         (memory k.dseg → ∀ i < len / w, ∀ y, dst i = some y → y % 128 + w ≤ 128) →
         let new := fun (i : Nat) =>
           bytesOf w (combine ty code .rne false (num fun b => get k.dseg ((dst i).getD 0 + b)) (num fun b => src (w * i + b))).bits
         ∃ t, exec (.copyChunk r e) s = .next t ∧ t.acc = s2.acc ∧ ended t False ∧
           (memory k.dseg → t.store = s2.store ∧ s2.storedForBy t a (List.range (len / w)) dst new) ∧
           (¬ memory k.dseg → t.mem = s2.mem ∧ Mem.storedBy s2.store t.store (List.range (len / w)) dst new)) ∧
  (∀ (s : State) (n q : Nat),
     let kinds : List (Nat × Instr) := [(1, .mxp n q), (2, .mxb n q), (3, .scacc n q), (4, .accz n q), (5, .acccv n q), (6, .accmov n q)]
     (s.findTask n q = none → exec (.taskStep n q) s = .next s ∧ ∀ e ∈ kinds, exec e.2 s = .next s) ∧
     ∀ k, s.findTask n q = some k →
       let x := TaskRec.of k.rcd
       let tile := x.dst + k.prog
       let src := x.aloc + k.prog
       let runs := k.engine.isSome ∧ k.fault = none ∧ (s.enginesRun n = true ∨ s.stepBusy n k = true) ∧ s.stopped = false
       let tiles := if x.opc = 2 then x.kext / 8 else if x.opc = 3 then 1 else x.nw + 1
       let steps := if x.opc ≤ 3 then x.kext / 8 else x.nw + 1
       let after := fun (t : State) (step : Nat) (fl : BitVec 8) (bad : Bool) =>
         (k.prog + step < steps → t.findTask n q = some { k with prog := k.prog + step, flags := k.flags ||| fl }) ∧
         (2 ^ 15 ≤ x.sig → ((t.team n).tag (x.sig % 64)).err = (((s.team n).tag (x.sig % 64)).err || bad)) ∧
         (steps ≤ k.prog + step → t.findTask n q = none ∧
           (∀ g, Tbl.at? s.gangs k.gang = some g →
             Tbl.at? t.gangs k.gang = some (if g.isTpl then g else { g with mode := { g.mode with flags := g.mode.flags ||| (k.flags ||| fl) } })) ∧
           (2 ^ 15 ≤ x.sig → let m := x.sig % 64
             let old := (s.team n).tag m
             let c := old.count - 8192 * tiles
             ((t.team n).tag m).count = c ∧ ((t.team n).tag m).done = (old.done || decide (c = 0)) ∧
               (c = 0 → ∀ j ∈ (t.team n).tasks, let y := TaskRec.of j.rcd
                 (y.wait0 = 2 ^ 15 + m → j.wait0 = true) ∧ (y.wait1 = 2 ^ 15 + m → j.wait1 = true))))
       (∀ e ∈ kinds, exec e.2 s = if e.1 = x.opc then exec (.taskStep n q) s else .next s) ∧
       let metas := fun (t : State) (P : Nat → Prop) => (k.prog + 1 < steps → ∀ d, t.metaOf n d = s.metaOf n d) ∧
         (steps ≤ k.prog + 1 → ∀ d, d ≤ x.nw → P d)
       (¬ runs → exec (.taskStep n q) s = .next s) ∧
       (runs → Tbl.at? s.teams n ≠ none → (s.team n).dying = true → ∃ t, exec (.taskStep n q) s = .next t ∧
         ((∀ e ∈ s.ctxs, e.2.doomed = none) → t.workBusy n = false → Tbl.at? t.teams n = none) ∧ (Tbl.at? t.teams n = none ∨ (t.team n).dying = true)) ∧
       (runs → Tbl.at? s.teams n ≠ none → (s.team n).dying = false →
         (x.opc = 4 → ∃ t, exec (.accz n q) s = .next t ∧ t.mem = s.mem ∧ t.store = s.store ∧ metas t (fun d => t.metaOf n (x.dst + d) = 0) ∧
           (∀ i < 1024, t.slotAt n tile i = 0) ∧ after t 1 0 false) ∧
         (x.opc = 6 → ∃ t, exec (.accmov n q) s = .next t ∧ t.mem = s.mem ∧ t.store = s.store ∧
           metas t (fun d => t.metaOf n (x.dst + d) = s.metaOf n (if x.dst = x.aloc + 1 then x.aloc else x.aloc + d)) ∧
           (∀ i < 1024, t.slotAt n tile i = s.slotAt n src i) ∧ after t 1 0 false) ∧
         (x.opc = 5 →
           let conv := fun (i : Nat) =>
             convSlot (s.slotAt n src i) (metaUnit (s.metaOf n src)) (if x.fa = 0 then .bin .f32 false else .int true 64) k.rm true
           ∃ t, exec (.acccv n q) s = .next t ∧ t.mem = s.mem ∧ t.store = s.store ∧
             metas t (fun d => metaMode (t.metaOf n (x.dst + d)) = (if x.fa = 0 then 3 else 4)) ∧
             (∀ i < 1024, t.slotAt n tile i = (conv i).bits) ∧ after t 1 (((List.range 1024).map fun i => (conv i).flags).foldl (· ||| ·) 0) false) ∧
         (x.opc = 3 →
           let a := fun (i : Nat) => s.readScratch n (x.sasc + 16 * i + k.prog) 1
           let b := fun (j : Nat) => s.readScratch n (x.sbsc + 16 * j + k.prog) 1
           let one := fun (i j : Nat) =>
             let old := if k.prog = 0 ∧ metaMode (s.metaOf n x.dst) = 0 then 0 else s.slotAt n x.dst (32 * i + j) % 2 ^ 32
             let e := slotCheck (s.slotAt n src (32 * i + j))
             if (a i).2 ∨ (b j).2 ∨ natOf (a i).1 = 255 ∨ natOf (b j).1 = 255 then (⟨0x7FC00000, fNV⟩ : FRes)
             else if slotPsn e ∨ (Fmt.f32.decode old).isNan then ⟨0x7FC00000, 0⟩
             else Fmt.f32.add k.rm false (Fmt.f32.decode old)
               (.fin (recon e < 0) (recon e).natAbs (metaUnit (s.metaOf n src) + natOf (a i).1 + natOf (b j).1 - 254))
           let all := (List.range 32).flatMap fun i => (List.range 32).map (one i)
           ∃ t, exec (.scacc n q) s = .next t ∧ t.mem = s.mem ∧ t.store = s.store ∧
             (∀ i < 32, ∀ j < 32, t.slotAt n x.dst (32 * i + j) = (one i j).bits) ∧
             (steps ≤ k.prog + 1 → metaMode (s.metaOf n x.dst) = 0 → metaMode (t.metaOf n x.dst) = 3) ∧
             after t 1 ((all.map (·.flags)).foldl (· ||| ·) 0) ((List.range 32).any fun i => (a i).2 || (b i).2)) ∧
         (x.opc = 1 ∨ x.opc = 2 → x.akind = 0 ∨ x.akind = 2 → x.bkind = 0 →
           let step := min x.kappa (x.blocks - k.prog)
           let ks := (List.range (8 * step)).map (8 * k.prog + ·)
           let tm := s.team n
           let a := fun i kk => if x.akind = 2 then s.downConvert n k x i kk else tm.element k.ctv x.fa (s.scratchCodes n x true i kk)
           let b := fun kk j => tm.element k.ctv x.fb (s.scratchCodes n x false j kk)
           let sum := fun i j => (ks.map fun kk => (a i kk).q.getD 0 * (b kk j).q.getD 0).foldl (· + ·) 0
           let psn := fun i j => ks.any fun kk => (a i kk).q.isNone || (b kk j).q.isNone
           let read := ((List.range 32).flatMap fun i => ks.map (a i)) ++ (List.range (32 * (x.nw + 1))).flatMap fun j => ks.map fun kk => b kk j
           let fl := (read.map (·.fl)).foldl (· ||| ·) 0
           let bad := read.any (·.bad)
           let last := x.blocks ≤ k.prog + step
           let unit := unitOf x.fa + unitOf x.fb
           let fin := fun (e : Nat) => if last then slotCheck e else e
           (x.opc = 1 → ∃ t, exec (.mxp n q) s = .next t ∧ t.mem = s.mem ∧ t.store = s.store ∧ after t step fl bad ∧
             (∀ i < 32, ∀ j < 32 * (x.nw + 1), let d := x.dst + j / 32
               t.slotAt n d (32 * i + j % 32) = fin (slotAdd (s.slotAt n d (32 * i + j % 32)) (sum i j) (psn i j))) ∧
             (last → ∀ d, d ≤ x.nw → t.metaOf n (x.dst + d) = mkMeta 1 x.fa x.fb (bits (s.metaOf n (x.dst + d)) 23 16) unit)) ∧
           (x.opc = 2 → x.nw = 0 → ∃ t, exec (.mxb n q) s = .next t ∧ t.mem = s.mem ∧ t.store = s.store ∧ after t step fl bad ∧
             (∀ i < 32, ∀ j < 32, t.slotAt n (x.dst + k.prog) (32 * i + j) = fin (slotAdd 0 (sum i j) (psn i j))) ∧
             (last → ∀ p < x.kext / 8, t.metaOf n (x.dst + p) = mkMeta 2 x.fa x.fb p unit ∧
               (p ≠ k.prog → ∀ i < 1024, t.slotAt n (x.dst + p) i = slotCheck (s.slotAt n (x.dst + p) i)))))))

/-! ### The machine as a whole -/

/-- R410, R411: right after the first power-on the device is at bring-up step 1 and at time 0, its numbering starts at the boot counter times 2³² plus
1, there is no context, partition, grid or team, nothing is held or buffered, and every store is in canonical form. That the counter is 1, and what
the partitions to be created are, is the model's choice (notes/assumptions/3.md). -/
def Obligations.ResetState : Prop :=
  let s := State.reset
  s.boot = 1 ∧ s.bootFailed = none ∧ s.now = 0 ∧ s.seq = s.bootCount * 2 ^ 32 + 1 ∧ s.ctxs = [] ∧ s.parts = [] ∧ s.grids = [] ∧ s.clusters = [] ∧
    s.teams = [] ∧ s.gangs = [] ∧ s.l1 = [] ∧ s.near = [] ∧ s.home = [] ∧ s.victim = [] ∧ s.rowTab = [] ∧ s.tlb = [] ∧ s.trace = [] ∧
    s.requests = [] ∧ s.pins = [] ∧ s.energy.ovhd = [] ∧ s.energy.owed = [] ∧ s.scrub = [] ∧ s.flow = [] ∧ s.stopped = false ∧ (∀ r < 48, (Tbl.at? s.regions r).isSome) ∧ s.stores

/-- R3, R77, R87, R100, R115, R306, R307, R329, R343, R346, R364, R402, R405: once bring-up is complete, a step runs the event that is chosen, but
that traffic waits and clocked work does not happen in a thermal stop; or the word at SPC of a chosen gang, where nothing else is due at its boundary;
or the word at the LPC of a chosen issue group. The word runs as what its bytes decode to, and as an illegal encoding when they decode to nothing;
what has ended then lands in the energy counters, and clusters that become stalled, or are so no more, are told. Before time passes, at a tick or
otherwise, what is due comes first: the scheduler's age steps and decisions, and a swap that may wait no longer (110, 126). Fetching it changes only
which translations are held, energy counts and the trace. That what is traffic waits in order and what is clocked is left out in a stop
(notes/assumptions/108.md), and that a fetch sees the copies of its core, fills none and is charged nothing (38), is the model's choice. -/
def Obligations.StepRunsTheDecodedInstruction : Prop :=
  ∀ (s : State) (rest : List Choice), 8 ≤ s.boot →
    let at_ : State := { s with agenda := rest }
    let runs := fun (u : Nat) (g : Gang) (cells : List Nat) (who : Asker) (va n : Nat) =>
      let p := ({ at_ with cur := u, cells := cells } : State).emitCadence u
      (∀ t bs, p.fetch who u va n = .word t bs →
        let t := p.defer t who (s.asidOf g)
        t.cur = u ∧ t.cells = cells ∧ t.mem = s.mem ∧ t.memBad = s.memBad ∧ t.store = s.store ∧ t.acc = s.acc ∧ t.teams = s.teams ∧
          t.grids = s.grids ∧ t.l1 = s.l1 ∧ t.near = s.near ∧ (Tbl.at? t.gangs u).map Gang.untraced = some g.untraced ∧
          step s = landed (exec ((decodeBytes bs).getD .illegalEncoding) t)) ∧
      ∀ pa e k, va < 2 ^ 57 → va % 128 + n ≤ 128 → (s.translateFor who (.core (s.coreOf g)) (s.asidOf g) va .fetch).2 = .ok pa e k → isPeer pa = false →
        (s.codeAt (s.coreOf g) (s.asidOf g) pa n).2 = false → ∃ t, p.fetch who u va n = .word t (s.codeAt (s.coreOf g) (s.asidOf g) pa n).1
    (∀ i, s.agenda = .event i :: rest → (∀ m, i ≠ .tick m) →
      (s.stopped = false ∨ trafficInstr i = false ∧ clockedInstr i = false → step s = landed (exec i at_)) ∧
      (s.stopped = true → trafficInstr i = true → step s = .next ({ at_ with flow := s.flow ++ [Choice.event i] } : State).settle) ∧
      (s.stopped = true → trafficInstr i = false → clockedInstr i = true → step s = .next at_.settle)) ∧
    (∀ c ns, s.agenda = c :: rest → (c = .elapse ns ∨ ∃ m, c = .event (.tick m) ∧ ns = s.tickEnd - s.now) →
      let n := if s.stopped then ns else at_.swapTimes.foldl (fun n e => min n e.2) ns
      (∀ i, at_.dueNow = some i → step s = landed (exec i s)) ∧
      (at_.dueNow = none → (c = .elapse ns ∨ n < ns → step s = .next (at_.drowseAll.elapse n).settle) ∧
        ∀ m, c = .event (.tick m) → ns ≤ n → step s = landed (exec (.tick m) at_.drowseAll))) ∧
    (∀ x, s.agenda = .read x :: rest → step s = .next (at_.hostRead x).settle) ∧
    (∀ f, s.agenda = .stream f :: rest → step s = .next ({ at_ with ide := f } : State).settle) ∧
    (∀ v, (s.agenda = .raise true v :: rest → step s = .next ({ at_ with minver := max s.minver v } : State).settle) ∧
      (s.agenda = .raise false v :: rest → step s = .next ({ at_ with minPatch := max s.minPatch v } : State).settle)) ∧
    ∀ u g, Tbl.at? s.gangs u = some g → s.gangRuns g = true → g.allExited = false → s.stopped = false →
      (s.agenda = .scalar u :: rest → g.exiting = false → s.deferredFor u = false → s.pbleftOut g = false → (g.preq = none ∨ g.priv = true) →
        g.breakDue = false → (g.priv = true ∨ g.pframe.isSome ∨ g.sttLeft = []) →
        g.skipS = true ∨ (s.ctxOf g).breakAt false g.spc.toNat = none →
          runs u g [] (.fetch u) g.spc.toNat 4) ∧
      ∀ c, s.agenda = .lane u c :: rest → (s.region (s.regOf g)).drowseMove = none → g.block.isSome → (g.cell c).run = .run →
        g.skipL = true ∨ (s.ctxOf g).breakAt true (g.lpcOf (g.issueGroup c)) = none →
          runs u g (g.issueGroup c) (.laneFetch u c) ((s.recOf g).lcbase + 12 * g.lpcOf (g.issueGroup c)) 12

/-- R76, R79, R80 to R86, R106: words written out from the encodings of the spec decode to the instructions they stand for, and words with a bit set
that must be zero, or a reserved code, to none. -/
def Obligations.DecodedWords : Prop :=
  decodeTableWord 32 0x14280000 = some (.sli 5 0) ∧
  decodeTableWord 32 0x162C8D15 = some (.slx 5 0x48D15) ∧
  decodeTableWord 32 0x01040180 = some (.sadd 32 32 3) ∧
  decodeTableWord 32 0x2C181FFF = some (.sloop 3 0x1FFF) ∧
  decodeTableWord 32 0x64280023 = some (.sgetl 5 1 3) ∧
  decodeTableWord 32 0xA6000000 = some .exit ∧
  decodeTableWord 32 0xA6000001 = none ∧
  decodeTableWord 32 0x1C000000 = none ∧
  decodeTableWord 96 0x810000000000000000000007 = some (.ljmp
    { ty := .i8, fn := 0, dst := .v 0, sa := .v 0, sb := .v 0, sc := .v 0, neg := false, pg := 0, rm := .dyn, sm := .mode, dm := .mode, yld := false, imm := 7 }) ∧
  decodeTableWord 96 0xFF0000000000000000000000 = none ∧
  decodeTableWord 96 0x810000000000000000100007 = none

/-- R76, R79, R80 to R86: decoding the words of a well-formed instruction gives it back, with every operand at every value; and a word that decodes is
the encoding of what it decodes to, so no bit of it is lost and no two words are one instruction. -/
def Obligations.EncodingsAgree : Prop :=
  (∀ (i : Instr) (n w : Nat), i.wellFormed = true → encode i = some (n, w) → decodeTableWord n w = some i) ∧
  ∀ (bs : List Byte) (i : Instr), decodeBytes bs = some i → encode i = some (8 * bs.length, natOf bs)

/-- Every instruction of the table runs: none is refused, and none faults while a live gang is issuing. -/
def Obligations.EveryInstructionRuns : Prop :=
  ∀ (i : Instr) (s : State), ((Tbl.at? s.gangs s.cur).isSome → ∃ t, exec i s = .next t) ∧
    (exec i s = .fault .noIssuer ∨ ∃ t, exec i s = .next t)

/-- Every step keeps device and host memory, the cores' stores and the accumulators in canonical form, so that equal contents are equal data. -/
def Obligations.StepKeepsTheStores : Prop :=
  ∀ s t : State, s.stores → step s = .next t → t.stores
end

