-- ==== Sys2Proof/Laws/Mem.lean ====
section
/-!
SUPPORT. The laws of a byte memory: a write is read back, every other byte stays, and the canonical form is kept.
-/

namespace Sys2Proof

/-! ### The canonical form -/

/-- Every listed address lies from `lo` up to `hi`. -/
def Mem.within (lo hi : Nat) (m : Mem) : Prop := ∀ e ∈ m, lo ≤ e.1 ∧ e.1 < hi

theorem Mem.wfFrom_mono {m : Mem} {a b : Nat} (h : a ≤ b) (w : Mem.wfFrom b m = true) : Mem.wfFrom a m = true := by
  cases m with
  | nil => rfl
  | cons e r =>
    simp only [Mem.wfFrom, Bool.and_eq_true, decide_eq_true_eq] at w ⊢
    exact ⟨⟨Nat.le_trans h w.1.1, w.1.2⟩, w.2⟩

theorem Mem.wfFrom_low {m : Mem} {a : Nat} (w : Mem.wfFrom a m = true) : ∀ e ∈ m, a ≤ e.1 := by
  induction m generalizing a with
  | nil => simp
  | cons e r ih =>
    simp only [Mem.wfFrom, Bool.and_eq_true, decide_eq_true_eq] at w
    intro x hx
    cases List.mem_cons.1 hx with
    | inl h => exact h ▸ w.1.1
    | inr h => exact Nat.le_trans (Nat.le_succ_of_le w.1.1) (ih w.2 x h)

theorem Mem.wfFrom_filter {m : Mem} {a : Nat} (p : Nat × BitVec 8 → Bool) (w : Mem.wfFrom a m = true) :
    Mem.wfFrom a (m.filter p) = true := by
  induction m generalizing a with
  | nil => rfl
  | cons e r ih =>
    simp only [Mem.wfFrom, Bool.and_eq_true, decide_eq_true_eq] at w
    by_cases hp : p e = true
    · simp only [List.filter, hp, Mem.wfFrom, Bool.and_eq_true, decide_eq_true_eq]
      exact ⟨w.1, ih w.2⟩
    · simp only [List.filter, hp]
      exact Mem.wfFrom_mono (Nat.le_succ_of_le w.1.1) (ih w.2)

theorem Mem.wfFrom_raise {m : Mem} {a b : Nat} (w : Mem.wfFrom a m = true) (h : ∀ e ∈ m, b ≤ e.1) : Mem.wfFrom b m = true := by
  cases m with
  | nil => rfl
  | cons e r =>
    simp only [Mem.wfFrom, Bool.and_eq_true, decide_eq_true_eq] at w ⊢
    exact ⟨⟨h e (List.mem_cons_self ..), w.1.2⟩, w.2⟩

theorem Mem.wfFrom_append {x y : Mem} {a b : Nat} (wx : Mem.wfFrom a x = true) (wy : Mem.wfFrom b y = true)
    (hx : ∀ e ∈ x, e.1 < b) (hab : a ≤ b) : Mem.wfFrom a (x ++ y) = true := by
  induction x generalizing a with
  | nil => exact Mem.wfFrom_mono hab wy
  | cons e r ih =>
    simp only [List.cons_append, Mem.wfFrom, Bool.and_eq_true, decide_eq_true_eq] at wx ⊢
    exact ⟨wx.1, ih wx.2 (fun z hz => hx z (List.mem_cons_of_mem _ hz)) (hx e (List.mem_cons_self ..))⟩

theorem Mem.cells_wf (a : Nat) (bs : List Byte) : Mem.wfFrom a (Mem.cells a bs) = true := by
  induction bs generalizing a with
  | nil => rfl
  | cons b r ih =>
    unfold Mem.cells
    split
    · exact Mem.wfFrom_mono (Nat.le_succ a) (ih (a + 1))
    · next h =>
      simp only [Mem.wfFrom, Nat.le_refl, decide_true, Bool.true_and, Bool.and_eq_true]
      exact ⟨by simpa using h, ih (a + 1)⟩

theorem Mem.cells_below (a : Nat) (bs : List Byte) : ∀ e ∈ Mem.cells a bs, e.1 < a + bs.length := by
  induction bs generalizing a with
  | nil => simp [Mem.cells]
  | cons b r ih =>
    intro e he
    unfold Mem.cells at he
    have tail : ∀ e ∈ Mem.cells (a + 1) r, e.1 < a + (b :: r).length := by
      intro e he
      have := ih (a + 1) e he
      simp only [List.length_cons]
      omega
    split at he
    · exact tail e he
    · cases List.mem_cons.1 he with
      | inl h => subst h; simp
      | inr h => exact tail e h

/-- A write keeps the canonical form. -/
theorem Mem.write_wf {m : Mem} (a : Nat) (bs : List Byte) (w : m.wf = true) : (m.write a bs).wf = true := by
  unfold Mem.wf Mem.write
  have wl := Mem.wfFrom_filter (fun e => decide (e.1 < a)) w
  have wr : Mem.wfFrom (a + bs.length) (m.filter fun e => decide (a + bs.length ≤ e.1)) = true :=
    Mem.wfFrom_raise (Mem.wfFrom_filter _ w) (by
      intro e he
      simpa using (List.mem_filter.1 he).2)
  have wc := Mem.wfFrom_append (Mem.cells_wf a bs) wr (Mem.cells_below a bs) (Nat.le_add_right ..)
  rw [List.append_assoc]
  exact Mem.wfFrom_append wl wc (by
    intro e he
    simpa using (List.mem_filter.1 he).2) (Nat.zero_le _)

/-- Zeroing keeps the canonical form. -/
theorem Mem.zero_wf {m : Mem} (a n : Nat) (w : m.wf = true) : (m.zero a n).wf = true := by
  unfold Mem.wf Mem.zero
  have wl := Mem.wfFrom_filter (fun e => decide (e.1 < a)) w
  have wr : Mem.wfFrom (a + n) (m.filter fun e => decide (a + n ≤ e.1)) = true :=
    Mem.wfFrom_raise (Mem.wfFrom_filter _ w) (by
      intro e he
      simpa using (List.mem_filter.1 he).2)
  exact Mem.wfFrom_append wl wr (by
    intro e he
    have := (List.mem_filter.1 he).2
    simp only [decide_eq_true_eq] at this
    omega) (Nat.zero_le _)

/-! ### What a byte reads as -/

theorem Mem.get_append (x y : Mem) (k : Nat) (h : ∀ e ∈ x, e.1 ≠ k) : Mem.get (x ++ y) k = Mem.get y k := by
  induction x with
  | nil => rfl
  | cons e r ih =>
    obtain ⟨i, b⟩ := e
    have hi : i ≠ k := h (i, b) (List.mem_cons_self ..)
    simp only [List.cons_append, Mem.get, if_neg hi]
    exact ih fun z hz => h z (List.mem_cons_of_mem _ hz)

theorem Mem.get_append_absent (x y : Mem) (k : Nat) (h : ∀ e ∈ y, e.1 ≠ k) : Mem.get (x ++ y) k = Mem.get x k := by
  induction x with
  | nil =>
    have := Mem.get_append y [] k h
    simpa [Mem.get] using this
  | cons e r ih =>
    obtain ⟨i, b⟩ := e
    simp only [List.cons_append, Mem.get, ih]

theorem Mem.get_filter (m : Mem) (p : Nat → Bool) (k : Nat) (h : p k = true) :
    Mem.get (m.filter fun e => p e.1) k = Mem.get m k := by
  induction m with
  | nil => rfl
  | cons e r ih =>
    obtain ⟨i, b⟩ := e
    by_cases hp : p i = true
    · simp [List.filter, hp, Mem.get, ih]
    · have hk : i ≠ k := fun x => hp (x ▸ h)
      simp [List.filter, hp, Mem.get, hk, ih]

theorem Mem.get_cells (a : Nat) (bs : List Byte) (i : Nat) (h : i < bs.length) : Mem.get (Mem.cells a bs) (a + i) = bs[i] := by
  induction bs generalizing a i with
  | nil => simp at h
  | cons b r ih =>
    unfold Mem.cells
    cases i with
    | zero =>
      by_cases hb : b = 0
      · have : Mem.get (Mem.cells (a + 1) r) a = 0 := by
          have hn : ∀ e ∈ Mem.cells (a + 1) r, e.1 ≠ a := fun e he => by
            have := Mem.wfFrom_low (Mem.cells_wf (a + 1) r) e he
            omega
          simpa [Mem.get] using Mem.get_append (Mem.cells (a + 1) r) [] a hn
        rw [if_pos hb]
        exact this.trans hb.symm
      · rw [if_neg hb]
        simp [Mem.get]
    | succ j =>
      have := ih (a + 1) j (by simpa using h)
      have e : a + (j + 1) = a + 1 + j := by omega
      by_cases hb : b = 0
      · rw [if_pos hb, e, this]
        rfl
      · rw [if_neg hb, e]
        simp [Mem.get, this, show a ≠ a + 1 + j by omega]

/-- A byte written reads as written. -/
theorem Mem.get_write_in (m : Mem) (a : Nat) (bs : List Byte) (i : Nat) (h : i < bs.length) : Mem.get (m.write a bs) (a + i) = bs[i] := by
  unfold Mem.write
  rw [List.append_assoc, Mem.get_append _ _ _ (by
    intro e he
    have := (List.mem_filter.1 he).2
    simp only [decide_eq_true_eq] at this
    omega)]
  rw [Mem.get_append_absent _ _ _ (by
    intro e he
    have := (List.mem_filter.1 he).2
    simp only [decide_eq_true_eq] at this
    omega)]
  exact Mem.get_cells a bs i h

/-- Every byte outside a write reads as before. -/
theorem Mem.get_write_out (m : Mem) (a : Nat) (bs : List Byte) (k : Nat) (h : k < a ∨ a + bs.length ≤ k) :
    Mem.get (m.write a bs) k = Mem.get m k := by
  have hc : ∀ e ∈ Mem.cells a bs, e.1 ≠ k := fun e he => by
    have h1 := Mem.wfFrom_low (Mem.cells_wf a bs) e he
    have h2 := Mem.cells_below a bs e he
    omega
  unfold Mem.write
  cases h with
  | inl h =>
    rw [List.append_assoc, Mem.get_append_absent _ _ _ (by
      intro e he
      cases List.mem_append.1 he with
      | inl h => exact hc e h
      | inr h =>
        have := (List.mem_filter.1 h).2
        simp only [decide_eq_true_eq] at this
        omega)]
    exact Mem.get_filter m (fun i => decide (i < a)) k (by simpa using h)
  | inr h =>
    rw [Mem.get_append _ _ _ (by
      intro e he
      cases List.mem_append.1 he with
      | inl x =>
        have := (List.mem_filter.1 x).2
        simp only [decide_eq_true_eq] at this
        omega
      | inr x => exact hc e x)]
    exact Mem.get_filter m (fun i => decide (a + bs.length ≤ i)) k (by simpa using h)

theorem Mem.read_length (m : Mem) (a n : Nat) : (m.read a n).length = n := by
  induction n generalizing a with
  | zero => rfl
  | succ n ih => simp [Mem.read, ih]

theorem Mem.read_getElem (m : Mem) (a n i : Nat) (h : i < n) : (m.read a n)[i]'(by rw [Mem.read_length]; exact h) = m.get (a + i) := by
  induction n generalizing a i with
  | zero => omega
  | succ n ih =>
    cases i with
    | zero => simp [Mem.read]
    | succ j =>
      have := ih (a + 1) j (by omega)
      simp only [Mem.read, List.getElem_cons_succ, this]
      congr 1
      omega

/-- A write is read back. -/
theorem Mem.read_write_same (m : Mem) (a : Nat) (bs : List Byte) : (m.write a bs).read a bs.length = bs := by
  apply List.ext_getElem
  · rw [Mem.read_length]
  · intro i h1 h2
    rw [Mem.read_getElem _ _ _ _ h2, Mem.get_write_in m a bs i h2]

end Sys2Proof
end

