-- ==== Sys2Proof/Laws/Tbl.lean ====
section
/-!
SUPPORT. What the operations of a table do to what its keys hold.
-/

namespace Sys2Proof

variable {α : Type}

theorem Tbl.at?_append (a b : Tbl α) (k : Nat) : Tbl.at? (a ++ b) k = (Tbl.at? a k).or (Tbl.at? b k) := by
  induction a with
  | nil => rfl
  | cons e r ih =>
    obtain ⟨i, v⟩ := e
    by_cases h : i = k <;> simp [Tbl.at?, h, ih]

theorem Tbl.at?_filter_keep (t : Tbl α) (p : Nat → Bool) (k : Nat) (h : p k = true) :
    Tbl.at? (t.filter fun e => p e.1) k = Tbl.at? t k := by
  induction t with
  | nil => rfl
  | cons e r ih =>
    obtain ⟨i, v⟩ := e
    by_cases hp : p i = true
    · by_cases hk : i = k
      · subst hk
        simp [List.filter, Tbl.at?, hp]
      · simp [List.filter, Tbl.at?, hp, hk, ih]
    · have hk : i ≠ k := fun x => hp (x ▸ h)
      simp [List.filter, Tbl.at?, hp, hk, ih]

theorem Tbl.at?_filter_drop (t : Tbl α) (p : Nat → Bool) (k : Nat) (h : p k = false) :
    Tbl.at? (t.filter fun e => p e.1) k = none := by
  induction t with
  | nil => rfl
  | cons e r ih =>
    obtain ⟨i, v⟩ := e
    by_cases hp : p i = true
    · have hk : i ≠ k := fun x => by simp [x, h] at hp
      simp [List.filter, Tbl.at?, hp, hk, ih]
    · simp [List.filter, hp, ih]

@[simp] theorem Tbl.at?_put_self (t : Tbl α) (k : Nat) (v : α) : Tbl.at? (Tbl.put t k v) k = some v := by
  unfold Tbl.put
  rw [Tbl.at?_append, Tbl.at?_filter_drop t (fun i => decide (i < k)) k (by simp)]
  simp [Tbl.at?]

theorem Tbl.at?_put_other (t : Tbl α) {j k : Nat} (v : α) (h : j ≠ k) : Tbl.at? (Tbl.put t k v) j = Tbl.at? t j := by
  unfold Tbl.put
  rw [Tbl.at?_append]
  by_cases hj : j < k
  · rw [Tbl.at?_filter_keep t (fun i => decide (i < k)) j (by simpa using hj)]
    cases hx : Tbl.at? t j with
    | some x => rfl
    | none =>
      have : Tbl.at? (t.filter fun e => decide (k < e.1)) j = none :=
        Tbl.at?_filter_drop t (fun i => decide (k < i)) j (by simp; omega)
      simp [Tbl.at?, this, Ne.symm h]
  · rw [Tbl.at?_filter_drop t (fun i => decide (i < k)) j (by simp; omega)]
    simp only [Option.none_or, Tbl.at?, if_neg (Ne.symm h)]
    exact Tbl.at?_filter_keep t (fun i => decide (k < i)) j (by simp; omega)

theorem Tbl.at?_put (t : Tbl α) (j k : Nat) (v : α) : Tbl.at? (Tbl.put t k v) j = if j = k then some v else Tbl.at? t j := by
  split
  · next h => subst h; simp
  · next h => exact Tbl.at?_put_other t v h

theorem Tbl.atD_put (t : Tbl α) (j k : Nat) (v d : α) : Tbl.atD (Tbl.put t k v) j d = if j = k then v else Tbl.atD t j d := by
  unfold Tbl.atD
  rw [Tbl.at?_put]
  split <;> rfl

@[simp] theorem Tbl.atD_put_self (t : Tbl α) (k : Nat) (v d : α) : Tbl.atD (Tbl.put t k v) k d = v := by simp [Tbl.atD]

theorem Tbl.at?_upd (t : Tbl α) (j k : Nat) (f : α → α) :
    Tbl.at? (Tbl.upd t k f) j = if j = k then (Tbl.at? t k).map f else Tbl.at? t j := by
  unfold Tbl.upd
  cases h : Tbl.at? t k with
  | none => split <;> simp_all
  | some v => rw [Tbl.at?_put]; rfl

theorem Tbl.at?_upd_self {t : Tbl α} {k : Nat} {v : α} (h : Tbl.at? t k = some v) (f : α → α) :
    Tbl.at? (Tbl.upd t k f) k = some (f v) := by simp [Tbl.at?_upd, h]

theorem Tbl.at?_upd_other (t : Tbl α) {j k : Nat} (f : α → α) (h : j ≠ k) : Tbl.at? (Tbl.upd t k f) j = Tbl.at? t j := by
  simp [Tbl.at?_upd, h]

theorem Tbl.atD_upd {t : Tbl α} {k : Nat} {v : α} (h : Tbl.at? t k = some v) (f : α → α) (j : Nat) (d : α) :
    Tbl.atD (Tbl.upd t k f) j d = if j = k then f v else Tbl.atD t j d := by
  unfold Tbl.atD
  rw [Tbl.at?_upd, h]
  split <;> rfl

theorem Tbl.upd_absent {t : Tbl α} {k : Nat} (h : Tbl.at? t k = none) (f : α → α) : Tbl.upd t k f = t := by simp [Tbl.upd, h]

theorem Tbl.at?_del (t : Tbl α) (j k : Nat) : Tbl.at? (Tbl.del t k) j = if j = k then none else Tbl.at? t j := by
  unfold Tbl.del
  split
  · next h => exact Tbl.at?_filter_drop t (fun i => decide (i ≠ k)) j (by simpa using h)
  · next h => exact Tbl.at?_filter_keep t (fun i => decide (i ≠ k)) j (by simpa using h)

theorem Tbl.at?_each (t : Tbl α) (f : Nat → α → α) (k : Nat) : Tbl.at? (Tbl.each t f) k = (Tbl.at? t k).map (f k) := by
  induction t with
  | nil => rfl
  | cons e r ih =>
    obtain ⟨i, v⟩ := e
    unfold Tbl.each at ih ⊢
    by_cases h : i = k
    · subst h; simp [Tbl.at?]
    · simp [Tbl.at?, h, ih]

theorem Tbl.at?_mem {t : Tbl α} {k : Nat} {v : α} (h : Tbl.at? t k = some v) : (k, v) ∈ t := by
  induction t with
  | nil => simp [Tbl.at?] at h
  | cons e r ih =>
    obtain ⟨i, w⟩ := e
    by_cases hk : i = k
    · subst hk
      simp [Tbl.at?] at h
      simp [h]
    · simp only [Tbl.at?, if_neg hk] at h
      exact List.mem_cons_of_mem _ (ih h)

end Sys2Proof
end

