-- ==== Sys2Proof/Laws/State.lean ====
section
/-!
SUPPORT. What the field updates of the state leave as it was, one lemma for each field of each update.
-/

namespace Sys2Proof.Machine

/-! ### setGang -/

@[simp] theorem State.setGang_boot (s : State) (u : Nat) (g : Gang) : (s.setGang u g).boot = s.boot := rfl
@[simp] theorem State.setGang_bootFailed (s : State) (u : Nat) (g : Gang) : (s.setGang u g).bootFailed = s.bootFailed := rfl
@[simp] theorem State.setGang_bootCount (s : State) (u : Nat) (g : Gang) : (s.setGang u g).bootCount = s.bootCount := rfl
@[simp] theorem State.setGang_now (s : State) (u : Nat) (g : Gang) : (s.setGang u g).now = s.now := rfl
@[simp] theorem State.setGang_tickEnd (s : State) (u : Nat) (g : Gang) : (s.setGang u g).tickEnd = s.tickEnd := rfl
@[simp] theorem State.setGang_tickStop (s : State) (u : Nat) (g : Gang) : (s.setGang u g).tickStop = s.tickStop := rfl
@[simp] theorem State.setGang_billed (s : State) (u : Nat) (g : Gang) : (s.setGang u g).billed = s.billed := rfl
@[simp] theorem State.setGang_mem (s : State) (u : Nat) (g : Gang) : (s.setGang u g).mem = s.mem := rfl
@[simp] theorem State.setGang_memBad (s : State) (u : Nat) (g : Gang) : (s.setGang u g).memBad = s.memBad := rfl
@[simp] theorem State.setGang_store (s : State) (u : Nat) (g : Gang) : (s.setGang u g).store = s.store := rfl
@[simp] theorem State.setGang_storeBad (s : State) (u : Nat) (g : Gang) : (s.setGang u g).storeBad = s.storeBad := rfl
@[simp] theorem State.setGang_acc (s : State) (u : Nat) (g : Gang) : (s.setGang u g).acc = s.acc := rfl
@[simp] theorem State.setGang_metas (s : State) (u : Nat) (g : Gang) : (s.setGang u g).metas = s.metas := rfl
@[simp] theorem State.setGang_l1 (s : State) (u : Nat) (g : Gang) : (s.setGang u g).l1 = s.l1 := rfl
@[simp] theorem State.setGang_near (s : State) (u : Nat) (g : Gang) : (s.setGang u g).near = s.near := rfl
@[simp] theorem State.setGang_home (s : State) (u : Nat) (g : Gang) : (s.setGang u g).home = s.home := rfl
@[simp] theorem State.setGang_victim (s : State) (u : Nat) (g : Gang) : (s.setGang u g).victim = s.victim := rfl
@[simp] theorem State.setGang_rowTab (s : State) (u : Nat) (g : Gang) : (s.setGang u g).rowTab = s.rowTab := rfl
@[simp] theorem State.setGang_tlb (s : State) (u : Nat) (g : Gang) : (s.setGang u g).tlb = s.tlb := rfl
@[simp] theorem State.setGang_walk (s : State) (u : Nat) (g : Gang) : (s.setGang u g).walk = s.walk := rfl
@[simp] theorem State.setGang_trace (s : State) (u : Nat) (g : Gang) : (s.setGang u g).trace = s.trace := rfl
@[simp] theorem State.setGang_regions (s : State) (u : Nat) (g : Gang) : (s.setGang u g).regions = s.regions := rfl
@[simp] theorem State.setGang_parts (s : State) (u : Nat) (g : Gang) : (s.setGang u g).parts = s.parts := rfl
@[simp] theorem State.setGang_ctxs (s : State) (u : Nat) (g : Gang) : (s.setGang u g).ctxs = s.ctxs := rfl
@[simp] theorem State.setGang_pages (s : State) (u : Nat) (g : Gang) : (s.setGang u g).pages = s.pages := rfl
@[simp] theorem State.setGang_grids (s : State) (u : Nat) (g : Gang) : (s.setGang u g).grids = s.grids := rfl
@[simp] theorem State.setGang_clusters (s : State) (u : Nat) (g : Gang) : (s.setGang u g).clusters = s.clusters := rfl
@[simp] theorem State.setGang_teams (s : State) (u : Nat) (g : Gang) : (s.setGang u g).teams = s.teams := rfl
@[simp] theorem State.setGang_gangs (s : State) (u : Nat) (g : Gang) : (s.setGang u g).gangs = Tbl.put s.gangs u g := rfl
@[simp] theorem State.setGang_plan (s : State) (u : Nat) (g : Gang) : (s.setGang u g).plan = s.plan := rfl
@[simp] theorem State.setGang_ports (s : State) (u : Nat) (g : Gang) : (s.setGang u g).ports = s.ports := rfl
@[simp] theorem State.setGang_farEnds (s : State) (u : Nat) (g : Gang) : (s.setGang u g).farEnds = s.farEnds := rfl
@[simp] theorem State.setGang_requests (s : State) (u : Nat) (g : Gang) : (s.setGang u g).requests = s.requests := rfl
@[simp] theorem State.setGang_pins (s : State) (u : Nat) (g : Gang) : (s.setGang u g).pins = s.pins := rfl
@[simp] theorem State.setGang_violations (s : State) (u : Nat) (g : Gang) : (s.setGang u g).violations = s.violations := rfl
@[simp] theorem State.setGang_late (s : State) (u : Nat) (g : Gang) : (s.setGang u g).late = s.late := rfl
@[simp] theorem State.setGang_groups (s : State) (u : Nat) (g : Gang) : (s.setGang u g).groups = s.groups := rfl
@[simp] theorem State.setGang_swarm (s : State) (u : Nat) (g : Gang) : (s.setGang u g).swarm = s.swarm := rfl
@[simp] theorem State.setGang_stopped (s : State) (u : Nat) (g : Gang) : (s.setGang u g).stopped = s.stopped := rfl
@[simp] theorem State.setGang_seq (s : State) (u : Nat) (g : Gang) : (s.setGang u g).seq = s.seq := rfl
@[simp] theorem State.setGang_overhead (s : State) (u : Nat) (g : Gang) : (s.setGang u g).overhead = s.overhead := rfl
@[simp] theorem State.setGang_ovresid (s : State) (u : Nat) (g : Gang) : (s.setGang u g).ovresid = s.ovresid := rfl
@[simp] theorem State.setGang_energy (s : State) (u : Nat) (g : Gang) : (s.setGang u g).energy = s.energy := rfl
@[simp] theorem State.setGang_lastPart (s : State) (u : Nat) (g : Gang) : (s.setGang u g).lastPart = s.lastPart := rfl
@[simp] theorem State.setGang_calib (s : State) (u : Nat) (g : Gang) : (s.setGang u g).calib = s.calib := rfl
@[simp] theorem State.setGang_uvlog (s : State) (u : Nat) (g : Gang) : (s.setGang u g).uvlog = s.uvlog := rfl
@[simp] theorem State.setGang_errRate (s : State) (u : Nat) (g : Gang) : (s.setGang u g).errRate = s.errRate := rfl
@[simp] theorem State.setGang_zeroised (s : State) (u : Nat) (g : Gang) : (s.setGang u g).zeroised = s.zeroised := rfl
@[simp] theorem State.setGang_keyed (s : State) (u : Nat) (g : Gang) : (s.setGang u g).keyed = s.keyed := rfl
@[simp] theorem State.setGang_minver (s : State) (u : Nat) (g : Gang) : (s.setGang u g).minver = s.minver := rfl
@[simp] theorem State.setGang_minPatch (s : State) (u : Nat) (g : Gang) : (s.setGang u g).minPatch = s.minPatch := rfl
@[simp] theorem State.setGang_patch (s : State) (u : Nat) (g : Gang) : (s.setGang u g).patch = s.patch := rfl
@[simp] theorem State.setGang_broken (s : State) (u : Nat) (g : Gang) : (s.setGang u g).broken = s.broken := rfl
@[simp] theorem State.setGang_scrub (s : State) (u : Nat) (g : Gang) : (s.setGang u g).scrub = s.scrub := rfl
@[simp] theorem State.setGang_scrubHeld (s : State) (u : Nat) (g : Gang) : (s.setGang u g).scrubHeld = s.scrubHeld := rfl
@[simp] theorem State.setGang_hottest (s : State) (u : Nat) (g : Gang) : (s.setGang u g).hottest = s.hottest := rfl
@[simp] theorem State.setGang_flow (s : State) (u : Nat) (g : Gang) : (s.setGang u g).flow = s.flow := rfl
@[simp] theorem State.setGang_ide (s : State) (u : Nat) (g : Gang) : (s.setGang u g).ide = s.ide := rfl
@[simp] theorem State.setGang_tdisp (s : State) (u : Nat) (g : Gang) : (s.setGang u g).tdisp = s.tdisp := rfl
@[simp] theorem State.setGang_sessions (s : State) (u : Nat) (g : Gang) : (s.setGang u g).sessions = s.sessions := rfl
@[simp] theorem State.setGang_spares (s : State) (u : Nat) (g : Gang) : (s.setGang u g).spares = s.spares := rfl
@[simp] theorem State.setGang_outbox (s : State) (u : Nat) (g : Gang) : (s.setGang u g).outbox = s.outbox := rfl
@[simp] theorem State.setGang_uid (s : State) (u : Nat) (g : Gang) : (s.setGang u g).uid = s.uid := rfl
@[simp] theorem State.setGang_readySeq (s : State) (u : Nat) (g : Gang) : (s.setGang u g).readySeq = s.readySeq := rfl
@[simp] theorem State.setGang_agenda (s : State) (u : Nat) (g : Gang) : (s.setGang u g).agenda = s.agenda := rfl
@[simp] theorem State.setGang_turn (s : State) (u : Nat) (g : Gang) : (s.setGang u g).turn = s.turn := rfl
@[simp] theorem State.setGang_cur (s : State) (u : Nat) (g : Gang) : (s.setGang u g).cur = s.cur := rfl
@[simp] theorem State.setGang_cells (s : State) (u : Nat) (g : Gang) : (s.setGang u g).cells = s.cells := rfl
@[simp] theorem State.setGang_free (s : State) (u : Nat) (g : Gang) : (s.setGang u g).free = s.free := rfl

/-! ### modGang -/

@[simp] theorem State.modGang_boot (s : State) (u : Nat) (f : Gang → Gang) : (s.modGang u f).boot = s.boot := rfl
@[simp] theorem State.modGang_bootFailed (s : State) (u : Nat) (f : Gang → Gang) : (s.modGang u f).bootFailed = s.bootFailed := rfl
@[simp] theorem State.modGang_bootCount (s : State) (u : Nat) (f : Gang → Gang) : (s.modGang u f).bootCount = s.bootCount := rfl
@[simp] theorem State.modGang_now (s : State) (u : Nat) (f : Gang → Gang) : (s.modGang u f).now = s.now := rfl
@[simp] theorem State.modGang_tickEnd (s : State) (u : Nat) (f : Gang → Gang) : (s.modGang u f).tickEnd = s.tickEnd := rfl
@[simp] theorem State.modGang_tickStop (s : State) (u : Nat) (f : Gang → Gang) : (s.modGang u f).tickStop = s.tickStop := rfl
@[simp] theorem State.modGang_billed (s : State) (u : Nat) (f : Gang → Gang) : (s.modGang u f).billed = s.billed := rfl
@[simp] theorem State.modGang_mem (s : State) (u : Nat) (f : Gang → Gang) : (s.modGang u f).mem = s.mem := rfl
@[simp] theorem State.modGang_memBad (s : State) (u : Nat) (f : Gang → Gang) : (s.modGang u f).memBad = s.memBad := rfl
@[simp] theorem State.modGang_store (s : State) (u : Nat) (f : Gang → Gang) : (s.modGang u f).store = s.store := rfl
@[simp] theorem State.modGang_storeBad (s : State) (u : Nat) (f : Gang → Gang) : (s.modGang u f).storeBad = s.storeBad := rfl
@[simp] theorem State.modGang_acc (s : State) (u : Nat) (f : Gang → Gang) : (s.modGang u f).acc = s.acc := rfl
@[simp] theorem State.modGang_metas (s : State) (u : Nat) (f : Gang → Gang) : (s.modGang u f).metas = s.metas := rfl
@[simp] theorem State.modGang_l1 (s : State) (u : Nat) (f : Gang → Gang) : (s.modGang u f).l1 = s.l1 := rfl
@[simp] theorem State.modGang_near (s : State) (u : Nat) (f : Gang → Gang) : (s.modGang u f).near = s.near := rfl
@[simp] theorem State.modGang_home (s : State) (u : Nat) (f : Gang → Gang) : (s.modGang u f).home = s.home := rfl
@[simp] theorem State.modGang_victim (s : State) (u : Nat) (f : Gang → Gang) : (s.modGang u f).victim = s.victim := rfl
@[simp] theorem State.modGang_rowTab (s : State) (u : Nat) (f : Gang → Gang) : (s.modGang u f).rowTab = s.rowTab := rfl
@[simp] theorem State.modGang_tlb (s : State) (u : Nat) (f : Gang → Gang) : (s.modGang u f).tlb = s.tlb := rfl
@[simp] theorem State.modGang_walk (s : State) (u : Nat) (f : Gang → Gang) : (s.modGang u f).walk = s.walk := rfl
@[simp] theorem State.modGang_trace (s : State) (u : Nat) (f : Gang → Gang) : (s.modGang u f).trace = s.trace := rfl
@[simp] theorem State.modGang_regions (s : State) (u : Nat) (f : Gang → Gang) : (s.modGang u f).regions = s.regions := rfl
@[simp] theorem State.modGang_parts (s : State) (u : Nat) (f : Gang → Gang) : (s.modGang u f).parts = s.parts := rfl
@[simp] theorem State.modGang_ctxs (s : State) (u : Nat) (f : Gang → Gang) : (s.modGang u f).ctxs = s.ctxs := rfl
@[simp] theorem State.modGang_pages (s : State) (u : Nat) (f : Gang → Gang) : (s.modGang u f).pages = s.pages := rfl
@[simp] theorem State.modGang_grids (s : State) (u : Nat) (f : Gang → Gang) : (s.modGang u f).grids = s.grids := rfl
@[simp] theorem State.modGang_clusters (s : State) (u : Nat) (f : Gang → Gang) : (s.modGang u f).clusters = s.clusters := rfl
@[simp] theorem State.modGang_teams (s : State) (u : Nat) (f : Gang → Gang) : (s.modGang u f).teams = s.teams := rfl
@[simp] theorem State.modGang_gangs (s : State) (u : Nat) (f : Gang → Gang) : (s.modGang u f).gangs = Tbl.upd s.gangs u f := rfl
@[simp] theorem State.modGang_plan (s : State) (u : Nat) (f : Gang → Gang) : (s.modGang u f).plan = s.plan := rfl
@[simp] theorem State.modGang_ports (s : State) (u : Nat) (f : Gang → Gang) : (s.modGang u f).ports = s.ports := rfl
@[simp] theorem State.modGang_farEnds (s : State) (u : Nat) (f : Gang → Gang) : (s.modGang u f).farEnds = s.farEnds := rfl
@[simp] theorem State.modGang_requests (s : State) (u : Nat) (f : Gang → Gang) : (s.modGang u f).requests = s.requests := rfl
@[simp] theorem State.modGang_pins (s : State) (u : Nat) (f : Gang → Gang) : (s.modGang u f).pins = s.pins := rfl
@[simp] theorem State.modGang_violations (s : State) (u : Nat) (f : Gang → Gang) : (s.modGang u f).violations = s.violations := rfl
@[simp] theorem State.modGang_late (s : State) (u : Nat) (f : Gang → Gang) : (s.modGang u f).late = s.late := rfl
@[simp] theorem State.modGang_groups (s : State) (u : Nat) (f : Gang → Gang) : (s.modGang u f).groups = s.groups := rfl
@[simp] theorem State.modGang_swarm (s : State) (u : Nat) (f : Gang → Gang) : (s.modGang u f).swarm = s.swarm := rfl
@[simp] theorem State.modGang_stopped (s : State) (u : Nat) (f : Gang → Gang) : (s.modGang u f).stopped = s.stopped := rfl
@[simp] theorem State.modGang_seq (s : State) (u : Nat) (f : Gang → Gang) : (s.modGang u f).seq = s.seq := rfl
@[simp] theorem State.modGang_overhead (s : State) (u : Nat) (f : Gang → Gang) : (s.modGang u f).overhead = s.overhead := rfl
@[simp] theorem State.modGang_ovresid (s : State) (u : Nat) (f : Gang → Gang) : (s.modGang u f).ovresid = s.ovresid := rfl
@[simp] theorem State.modGang_energy (s : State) (u : Nat) (f : Gang → Gang) : (s.modGang u f).energy = s.energy := rfl
@[simp] theorem State.modGang_lastPart (s : State) (u : Nat) (f : Gang → Gang) : (s.modGang u f).lastPart = s.lastPart := rfl
@[simp] theorem State.modGang_calib (s : State) (u : Nat) (f : Gang → Gang) : (s.modGang u f).calib = s.calib := rfl
@[simp] theorem State.modGang_uvlog (s : State) (u : Nat) (f : Gang → Gang) : (s.modGang u f).uvlog = s.uvlog := rfl
@[simp] theorem State.modGang_errRate (s : State) (u : Nat) (f : Gang → Gang) : (s.modGang u f).errRate = s.errRate := rfl
@[simp] theorem State.modGang_zeroised (s : State) (u : Nat) (f : Gang → Gang) : (s.modGang u f).zeroised = s.zeroised := rfl
@[simp] theorem State.modGang_keyed (s : State) (u : Nat) (f : Gang → Gang) : (s.modGang u f).keyed = s.keyed := rfl
@[simp] theorem State.modGang_minver (s : State) (u : Nat) (f : Gang → Gang) : (s.modGang u f).minver = s.minver := rfl
@[simp] theorem State.modGang_minPatch (s : State) (u : Nat) (f : Gang → Gang) : (s.modGang u f).minPatch = s.minPatch := rfl
@[simp] theorem State.modGang_patch (s : State) (u : Nat) (f : Gang → Gang) : (s.modGang u f).patch = s.patch := rfl
@[simp] theorem State.modGang_broken (s : State) (u : Nat) (f : Gang → Gang) : (s.modGang u f).broken = s.broken := rfl
@[simp] theorem State.modGang_scrub (s : State) (u : Nat) (f : Gang → Gang) : (s.modGang u f).scrub = s.scrub := rfl
@[simp] theorem State.modGang_scrubHeld (s : State) (u : Nat) (f : Gang → Gang) : (s.modGang u f).scrubHeld = s.scrubHeld := rfl
@[simp] theorem State.modGang_hottest (s : State) (u : Nat) (f : Gang → Gang) : (s.modGang u f).hottest = s.hottest := rfl
@[simp] theorem State.modGang_flow (s : State) (u : Nat) (f : Gang → Gang) : (s.modGang u f).flow = s.flow := rfl
@[simp] theorem State.modGang_ide (s : State) (u : Nat) (f : Gang → Gang) : (s.modGang u f).ide = s.ide := rfl
@[simp] theorem State.modGang_tdisp (s : State) (u : Nat) (f : Gang → Gang) : (s.modGang u f).tdisp = s.tdisp := rfl
@[simp] theorem State.modGang_sessions (s : State) (u : Nat) (f : Gang → Gang) : (s.modGang u f).sessions = s.sessions := rfl
@[simp] theorem State.modGang_spares (s : State) (u : Nat) (f : Gang → Gang) : (s.modGang u f).spares = s.spares := rfl
@[simp] theorem State.modGang_outbox (s : State) (u : Nat) (f : Gang → Gang) : (s.modGang u f).outbox = s.outbox := rfl
@[simp] theorem State.modGang_uid (s : State) (u : Nat) (f : Gang → Gang) : (s.modGang u f).uid = s.uid := rfl
@[simp] theorem State.modGang_readySeq (s : State) (u : Nat) (f : Gang → Gang) : (s.modGang u f).readySeq = s.readySeq := rfl
@[simp] theorem State.modGang_agenda (s : State) (u : Nat) (f : Gang → Gang) : (s.modGang u f).agenda = s.agenda := rfl
@[simp] theorem State.modGang_turn (s : State) (u : Nat) (f : Gang → Gang) : (s.modGang u f).turn = s.turn := rfl
@[simp] theorem State.modGang_cur (s : State) (u : Nat) (f : Gang → Gang) : (s.modGang u f).cur = s.cur := rfl
@[simp] theorem State.modGang_cells (s : State) (u : Nat) (f : Gang → Gang) : (s.modGang u f).cells = s.cells := rfl
@[simp] theorem State.modGang_free (s : State) (u : Nat) (f : Gang → Gang) : (s.modGang u f).free = s.free := rfl

/-! ### modTeam -/

@[simp] theorem State.modTeam_boot (s : State) (t : Nat) (f : Team → Team) : (s.modTeam t f).boot = s.boot := rfl
@[simp] theorem State.modTeam_bootFailed (s : State) (t : Nat) (f : Team → Team) : (s.modTeam t f).bootFailed = s.bootFailed := rfl
@[simp] theorem State.modTeam_bootCount (s : State) (t : Nat) (f : Team → Team) : (s.modTeam t f).bootCount = s.bootCount := rfl
@[simp] theorem State.modTeam_now (s : State) (t : Nat) (f : Team → Team) : (s.modTeam t f).now = s.now := rfl
@[simp] theorem State.modTeam_tickEnd (s : State) (t : Nat) (f : Team → Team) : (s.modTeam t f).tickEnd = s.tickEnd := rfl
@[simp] theorem State.modTeam_tickStop (s : State) (t : Nat) (f : Team → Team) : (s.modTeam t f).tickStop = s.tickStop := rfl
@[simp] theorem State.modTeam_billed (s : State) (t : Nat) (f : Team → Team) : (s.modTeam t f).billed = s.billed := rfl
@[simp] theorem State.modTeam_mem (s : State) (t : Nat) (f : Team → Team) : (s.modTeam t f).mem = s.mem := rfl
@[simp] theorem State.modTeam_memBad (s : State) (t : Nat) (f : Team → Team) : (s.modTeam t f).memBad = s.memBad := rfl
@[simp] theorem State.modTeam_store (s : State) (t : Nat) (f : Team → Team) : (s.modTeam t f).store = s.store := rfl
@[simp] theorem State.modTeam_storeBad (s : State) (t : Nat) (f : Team → Team) : (s.modTeam t f).storeBad = s.storeBad := rfl
@[simp] theorem State.modTeam_acc (s : State) (t : Nat) (f : Team → Team) : (s.modTeam t f).acc = s.acc := rfl
@[simp] theorem State.modTeam_metas (s : State) (t : Nat) (f : Team → Team) : (s.modTeam t f).metas = s.metas := rfl
@[simp] theorem State.modTeam_l1 (s : State) (t : Nat) (f : Team → Team) : (s.modTeam t f).l1 = s.l1 := rfl
@[simp] theorem State.modTeam_near (s : State) (t : Nat) (f : Team → Team) : (s.modTeam t f).near = s.near := rfl
@[simp] theorem State.modTeam_home (s : State) (t : Nat) (f : Team → Team) : (s.modTeam t f).home = s.home := rfl
@[simp] theorem State.modTeam_victim (s : State) (t : Nat) (f : Team → Team) : (s.modTeam t f).victim = s.victim := rfl
@[simp] theorem State.modTeam_rowTab (s : State) (t : Nat) (f : Team → Team) : (s.modTeam t f).rowTab = s.rowTab := rfl
@[simp] theorem State.modTeam_tlb (s : State) (t : Nat) (f : Team → Team) : (s.modTeam t f).tlb = s.tlb := rfl
@[simp] theorem State.modTeam_walk (s : State) (t : Nat) (f : Team → Team) : (s.modTeam t f).walk = s.walk := rfl
@[simp] theorem State.modTeam_trace (s : State) (t : Nat) (f : Team → Team) : (s.modTeam t f).trace = s.trace := rfl
@[simp] theorem State.modTeam_regions (s : State) (t : Nat) (f : Team → Team) : (s.modTeam t f).regions = s.regions := rfl
@[simp] theorem State.modTeam_parts (s : State) (t : Nat) (f : Team → Team) : (s.modTeam t f).parts = s.parts := rfl
@[simp] theorem State.modTeam_ctxs (s : State) (t : Nat) (f : Team → Team) : (s.modTeam t f).ctxs = s.ctxs := rfl
@[simp] theorem State.modTeam_pages (s : State) (t : Nat) (f : Team → Team) : (s.modTeam t f).pages = s.pages := rfl
@[simp] theorem State.modTeam_grids (s : State) (t : Nat) (f : Team → Team) : (s.modTeam t f).grids = s.grids := rfl
@[simp] theorem State.modTeam_clusters (s : State) (t : Nat) (f : Team → Team) : (s.modTeam t f).clusters = s.clusters := rfl
@[simp] theorem State.modTeam_teams (s : State) (t : Nat) (f : Team → Team) : (s.modTeam t f).teams = Tbl.upd s.teams t f := rfl
@[simp] theorem State.modTeam_gangs (s : State) (t : Nat) (f : Team → Team) : (s.modTeam t f).gangs = s.gangs := rfl
@[simp] theorem State.modTeam_plan (s : State) (t : Nat) (f : Team → Team) : (s.modTeam t f).plan = s.plan := rfl
@[simp] theorem State.modTeam_ports (s : State) (t : Nat) (f : Team → Team) : (s.modTeam t f).ports = s.ports := rfl
@[simp] theorem State.modTeam_farEnds (s : State) (t : Nat) (f : Team → Team) : (s.modTeam t f).farEnds = s.farEnds := rfl
@[simp] theorem State.modTeam_requests (s : State) (t : Nat) (f : Team → Team) : (s.modTeam t f).requests = s.requests := rfl
@[simp] theorem State.modTeam_pins (s : State) (t : Nat) (f : Team → Team) : (s.modTeam t f).pins = s.pins := rfl
@[simp] theorem State.modTeam_violations (s : State) (t : Nat) (f : Team → Team) : (s.modTeam t f).violations = s.violations := rfl
@[simp] theorem State.modTeam_late (s : State) (t : Nat) (f : Team → Team) : (s.modTeam t f).late = s.late := rfl
@[simp] theorem State.modTeam_groups (s : State) (t : Nat) (f : Team → Team) : (s.modTeam t f).groups = s.groups := rfl
@[simp] theorem State.modTeam_swarm (s : State) (t : Nat) (f : Team → Team) : (s.modTeam t f).swarm = s.swarm := rfl
@[simp] theorem State.modTeam_stopped (s : State) (t : Nat) (f : Team → Team) : (s.modTeam t f).stopped = s.stopped := rfl
@[simp] theorem State.modTeam_seq (s : State) (t : Nat) (f : Team → Team) : (s.modTeam t f).seq = s.seq := rfl
@[simp] theorem State.modTeam_overhead (s : State) (t : Nat) (f : Team → Team) : (s.modTeam t f).overhead = s.overhead := rfl
@[simp] theorem State.modTeam_ovresid (s : State) (t : Nat) (f : Team → Team) : (s.modTeam t f).ovresid = s.ovresid := rfl
@[simp] theorem State.modTeam_energy (s : State) (t : Nat) (f : Team → Team) : (s.modTeam t f).energy = s.energy := rfl
@[simp] theorem State.modTeam_lastPart (s : State) (t : Nat) (f : Team → Team) : (s.modTeam t f).lastPart = s.lastPart := rfl
@[simp] theorem State.modTeam_calib (s : State) (t : Nat) (f : Team → Team) : (s.modTeam t f).calib = s.calib := rfl
@[simp] theorem State.modTeam_uvlog (s : State) (t : Nat) (f : Team → Team) : (s.modTeam t f).uvlog = s.uvlog := rfl
@[simp] theorem State.modTeam_errRate (s : State) (t : Nat) (f : Team → Team) : (s.modTeam t f).errRate = s.errRate := rfl
@[simp] theorem State.modTeam_zeroised (s : State) (t : Nat) (f : Team → Team) : (s.modTeam t f).zeroised = s.zeroised := rfl
@[simp] theorem State.modTeam_keyed (s : State) (t : Nat) (f : Team → Team) : (s.modTeam t f).keyed = s.keyed := rfl
@[simp] theorem State.modTeam_minver (s : State) (t : Nat) (f : Team → Team) : (s.modTeam t f).minver = s.minver := rfl
@[simp] theorem State.modTeam_minPatch (s : State) (t : Nat) (f : Team → Team) : (s.modTeam t f).minPatch = s.minPatch := rfl
@[simp] theorem State.modTeam_patch (s : State) (t : Nat) (f : Team → Team) : (s.modTeam t f).patch = s.patch := rfl
@[simp] theorem State.modTeam_broken (s : State) (t : Nat) (f : Team → Team) : (s.modTeam t f).broken = s.broken := rfl
@[simp] theorem State.modTeam_scrub (s : State) (t : Nat) (f : Team → Team) : (s.modTeam t f).scrub = s.scrub := rfl
@[simp] theorem State.modTeam_scrubHeld (s : State) (t : Nat) (f : Team → Team) : (s.modTeam t f).scrubHeld = s.scrubHeld := rfl
@[simp] theorem State.modTeam_hottest (s : State) (t : Nat) (f : Team → Team) : (s.modTeam t f).hottest = s.hottest := rfl
@[simp] theorem State.modTeam_flow (s : State) (t : Nat) (f : Team → Team) : (s.modTeam t f).flow = s.flow := rfl
@[simp] theorem State.modTeam_ide (s : State) (t : Nat) (f : Team → Team) : (s.modTeam t f).ide = s.ide := rfl
@[simp] theorem State.modTeam_tdisp (s : State) (t : Nat) (f : Team → Team) : (s.modTeam t f).tdisp = s.tdisp := rfl
@[simp] theorem State.modTeam_sessions (s : State) (t : Nat) (f : Team → Team) : (s.modTeam t f).sessions = s.sessions := rfl
@[simp] theorem State.modTeam_spares (s : State) (t : Nat) (f : Team → Team) : (s.modTeam t f).spares = s.spares := rfl
@[simp] theorem State.modTeam_outbox (s : State) (t : Nat) (f : Team → Team) : (s.modTeam t f).outbox = s.outbox := rfl
@[simp] theorem State.modTeam_uid (s : State) (t : Nat) (f : Team → Team) : (s.modTeam t f).uid = s.uid := rfl
@[simp] theorem State.modTeam_readySeq (s : State) (t : Nat) (f : Team → Team) : (s.modTeam t f).readySeq = s.readySeq := rfl
@[simp] theorem State.modTeam_agenda (s : State) (t : Nat) (f : Team → Team) : (s.modTeam t f).agenda = s.agenda := rfl
@[simp] theorem State.modTeam_turn (s : State) (t : Nat) (f : Team → Team) : (s.modTeam t f).turn = s.turn := rfl
@[simp] theorem State.modTeam_cur (s : State) (t : Nat) (f : Team → Team) : (s.modTeam t f).cur = s.cur := rfl
@[simp] theorem State.modTeam_cells (s : State) (t : Nat) (f : Team → Team) : (s.modTeam t f).cells = s.cells := rfl
@[simp] theorem State.modTeam_free (s : State) (t : Nat) (f : Team → Team) : (s.modTeam t f).free = s.free := rfl

/-! ### modCluster -/

@[simp] theorem State.modCluster_boot (s : State) (c : Nat) (f : Cluster → Cluster) : (s.modCluster c f).boot = s.boot := rfl
@[simp] theorem State.modCluster_bootFailed (s : State) (c : Nat) (f : Cluster → Cluster) : (s.modCluster c f).bootFailed = s.bootFailed := rfl
@[simp] theorem State.modCluster_bootCount (s : State) (c : Nat) (f : Cluster → Cluster) : (s.modCluster c f).bootCount = s.bootCount := rfl
@[simp] theorem State.modCluster_now (s : State) (c : Nat) (f : Cluster → Cluster) : (s.modCluster c f).now = s.now := rfl
@[simp] theorem State.modCluster_tickEnd (s : State) (c : Nat) (f : Cluster → Cluster) : (s.modCluster c f).tickEnd = s.tickEnd := rfl
@[simp] theorem State.modCluster_tickStop (s : State) (c : Nat) (f : Cluster → Cluster) : (s.modCluster c f).tickStop = s.tickStop := rfl
@[simp] theorem State.modCluster_billed (s : State) (c : Nat) (f : Cluster → Cluster) : (s.modCluster c f).billed = s.billed := rfl
@[simp] theorem State.modCluster_mem (s : State) (c : Nat) (f : Cluster → Cluster) : (s.modCluster c f).mem = s.mem := rfl
@[simp] theorem State.modCluster_memBad (s : State) (c : Nat) (f : Cluster → Cluster) : (s.modCluster c f).memBad = s.memBad := rfl
@[simp] theorem State.modCluster_store (s : State) (c : Nat) (f : Cluster → Cluster) : (s.modCluster c f).store = s.store := rfl
@[simp] theorem State.modCluster_storeBad (s : State) (c : Nat) (f : Cluster → Cluster) : (s.modCluster c f).storeBad = s.storeBad := rfl
@[simp] theorem State.modCluster_acc (s : State) (c : Nat) (f : Cluster → Cluster) : (s.modCluster c f).acc = s.acc := rfl
@[simp] theorem State.modCluster_metas (s : State) (c : Nat) (f : Cluster → Cluster) : (s.modCluster c f).metas = s.metas := rfl
@[simp] theorem State.modCluster_l1 (s : State) (c : Nat) (f : Cluster → Cluster) : (s.modCluster c f).l1 = s.l1 := rfl
@[simp] theorem State.modCluster_near (s : State) (c : Nat) (f : Cluster → Cluster) : (s.modCluster c f).near = s.near := rfl
@[simp] theorem State.modCluster_home (s : State) (c : Nat) (f : Cluster → Cluster) : (s.modCluster c f).home = s.home := rfl
@[simp] theorem State.modCluster_victim (s : State) (c : Nat) (f : Cluster → Cluster) : (s.modCluster c f).victim = s.victim := rfl
@[simp] theorem State.modCluster_rowTab (s : State) (c : Nat) (f : Cluster → Cluster) : (s.modCluster c f).rowTab = s.rowTab := rfl
@[simp] theorem State.modCluster_tlb (s : State) (c : Nat) (f : Cluster → Cluster) : (s.modCluster c f).tlb = s.tlb := rfl
@[simp] theorem State.modCluster_walk (s : State) (c : Nat) (f : Cluster → Cluster) : (s.modCluster c f).walk = s.walk := rfl
@[simp] theorem State.modCluster_trace (s : State) (c : Nat) (f : Cluster → Cluster) : (s.modCluster c f).trace = s.trace := rfl
@[simp] theorem State.modCluster_regions (s : State) (c : Nat) (f : Cluster → Cluster) : (s.modCluster c f).regions = s.regions := rfl
@[simp] theorem State.modCluster_parts (s : State) (c : Nat) (f : Cluster → Cluster) : (s.modCluster c f).parts = s.parts := rfl
@[simp] theorem State.modCluster_ctxs (s : State) (c : Nat) (f : Cluster → Cluster) : (s.modCluster c f).ctxs = s.ctxs := rfl
@[simp] theorem State.modCluster_pages (s : State) (c : Nat) (f : Cluster → Cluster) : (s.modCluster c f).pages = s.pages := rfl
@[simp] theorem State.modCluster_grids (s : State) (c : Nat) (f : Cluster → Cluster) : (s.modCluster c f).grids = s.grids := rfl
@[simp] theorem State.modCluster_clusters (s : State) (c : Nat) (f : Cluster → Cluster) : (s.modCluster c f).clusters = Tbl.upd s.clusters c f := rfl
@[simp] theorem State.modCluster_teams (s : State) (c : Nat) (f : Cluster → Cluster) : (s.modCluster c f).teams = s.teams := rfl
@[simp] theorem State.modCluster_gangs (s : State) (c : Nat) (f : Cluster → Cluster) : (s.modCluster c f).gangs = s.gangs := rfl
@[simp] theorem State.modCluster_plan (s : State) (c : Nat) (f : Cluster → Cluster) : (s.modCluster c f).plan = s.plan := rfl
@[simp] theorem State.modCluster_ports (s : State) (c : Nat) (f : Cluster → Cluster) : (s.modCluster c f).ports = s.ports := rfl
@[simp] theorem State.modCluster_farEnds (s : State) (c : Nat) (f : Cluster → Cluster) : (s.modCluster c f).farEnds = s.farEnds := rfl
@[simp] theorem State.modCluster_requests (s : State) (c : Nat) (f : Cluster → Cluster) : (s.modCluster c f).requests = s.requests := rfl
@[simp] theorem State.modCluster_pins (s : State) (c : Nat) (f : Cluster → Cluster) : (s.modCluster c f).pins = s.pins := rfl
@[simp] theorem State.modCluster_violations (s : State) (c : Nat) (f : Cluster → Cluster) : (s.modCluster c f).violations = s.violations := rfl
@[simp] theorem State.modCluster_late (s : State) (c : Nat) (f : Cluster → Cluster) : (s.modCluster c f).late = s.late := rfl
@[simp] theorem State.modCluster_groups (s : State) (c : Nat) (f : Cluster → Cluster) : (s.modCluster c f).groups = s.groups := rfl
@[simp] theorem State.modCluster_swarm (s : State) (c : Nat) (f : Cluster → Cluster) : (s.modCluster c f).swarm = s.swarm := rfl
@[simp] theorem State.modCluster_stopped (s : State) (c : Nat) (f : Cluster → Cluster) : (s.modCluster c f).stopped = s.stopped := rfl
@[simp] theorem State.modCluster_seq (s : State) (c : Nat) (f : Cluster → Cluster) : (s.modCluster c f).seq = s.seq := rfl
@[simp] theorem State.modCluster_overhead (s : State) (c : Nat) (f : Cluster → Cluster) : (s.modCluster c f).overhead = s.overhead := rfl
@[simp] theorem State.modCluster_ovresid (s : State) (c : Nat) (f : Cluster → Cluster) : (s.modCluster c f).ovresid = s.ovresid := rfl
@[simp] theorem State.modCluster_energy (s : State) (c : Nat) (f : Cluster → Cluster) : (s.modCluster c f).energy = s.energy := rfl
@[simp] theorem State.modCluster_lastPart (s : State) (c : Nat) (f : Cluster → Cluster) : (s.modCluster c f).lastPart = s.lastPart := rfl
@[simp] theorem State.modCluster_calib (s : State) (c : Nat) (f : Cluster → Cluster) : (s.modCluster c f).calib = s.calib := rfl
@[simp] theorem State.modCluster_uvlog (s : State) (c : Nat) (f : Cluster → Cluster) : (s.modCluster c f).uvlog = s.uvlog := rfl
@[simp] theorem State.modCluster_errRate (s : State) (c : Nat) (f : Cluster → Cluster) : (s.modCluster c f).errRate = s.errRate := rfl
@[simp] theorem State.modCluster_zeroised (s : State) (c : Nat) (f : Cluster → Cluster) : (s.modCluster c f).zeroised = s.zeroised := rfl
@[simp] theorem State.modCluster_keyed (s : State) (c : Nat) (f : Cluster → Cluster) : (s.modCluster c f).keyed = s.keyed := rfl
@[simp] theorem State.modCluster_minver (s : State) (c : Nat) (f : Cluster → Cluster) : (s.modCluster c f).minver = s.minver := rfl
@[simp] theorem State.modCluster_minPatch (s : State) (c : Nat) (f : Cluster → Cluster) : (s.modCluster c f).minPatch = s.minPatch := rfl
@[simp] theorem State.modCluster_patch (s : State) (c : Nat) (f : Cluster → Cluster) : (s.modCluster c f).patch = s.patch := rfl
@[simp] theorem State.modCluster_broken (s : State) (c : Nat) (f : Cluster → Cluster) : (s.modCluster c f).broken = s.broken := rfl
@[simp] theorem State.modCluster_scrub (s : State) (c : Nat) (f : Cluster → Cluster) : (s.modCluster c f).scrub = s.scrub := rfl
@[simp] theorem State.modCluster_scrubHeld (s : State) (c : Nat) (f : Cluster → Cluster) : (s.modCluster c f).scrubHeld = s.scrubHeld := rfl
@[simp] theorem State.modCluster_hottest (s : State) (c : Nat) (f : Cluster → Cluster) : (s.modCluster c f).hottest = s.hottest := rfl
@[simp] theorem State.modCluster_flow (s : State) (c : Nat) (f : Cluster → Cluster) : (s.modCluster c f).flow = s.flow := rfl
@[simp] theorem State.modCluster_ide (s : State) (c : Nat) (f : Cluster → Cluster) : (s.modCluster c f).ide = s.ide := rfl
@[simp] theorem State.modCluster_tdisp (s : State) (c : Nat) (f : Cluster → Cluster) : (s.modCluster c f).tdisp = s.tdisp := rfl
@[simp] theorem State.modCluster_sessions (s : State) (c : Nat) (f : Cluster → Cluster) : (s.modCluster c f).sessions = s.sessions := rfl
@[simp] theorem State.modCluster_spares (s : State) (c : Nat) (f : Cluster → Cluster) : (s.modCluster c f).spares = s.spares := rfl
@[simp] theorem State.modCluster_outbox (s : State) (c : Nat) (f : Cluster → Cluster) : (s.modCluster c f).outbox = s.outbox := rfl
@[simp] theorem State.modCluster_uid (s : State) (c : Nat) (f : Cluster → Cluster) : (s.modCluster c f).uid = s.uid := rfl
@[simp] theorem State.modCluster_readySeq (s : State) (c : Nat) (f : Cluster → Cluster) : (s.modCluster c f).readySeq = s.readySeq := rfl
@[simp] theorem State.modCluster_agenda (s : State) (c : Nat) (f : Cluster → Cluster) : (s.modCluster c f).agenda = s.agenda := rfl
@[simp] theorem State.modCluster_turn (s : State) (c : Nat) (f : Cluster → Cluster) : (s.modCluster c f).turn = s.turn := rfl
@[simp] theorem State.modCluster_cur (s : State) (c : Nat) (f : Cluster → Cluster) : (s.modCluster c f).cur = s.cur := rfl
@[simp] theorem State.modCluster_cells (s : State) (c : Nat) (f : Cluster → Cluster) : (s.modCluster c f).cells = s.cells := rfl
@[simp] theorem State.modCluster_free (s : State) (c : Nat) (f : Cluster → Cluster) : (s.modCluster c f).free = s.free := rfl

/-! ### modGrid -/

@[simp] theorem State.modGrid_boot (s : State) (n : Nat) (f : Grid → Grid) : (s.modGrid n f).boot = s.boot := rfl
@[simp] theorem State.modGrid_bootFailed (s : State) (n : Nat) (f : Grid → Grid) : (s.modGrid n f).bootFailed = s.bootFailed := rfl
@[simp] theorem State.modGrid_bootCount (s : State) (n : Nat) (f : Grid → Grid) : (s.modGrid n f).bootCount = s.bootCount := rfl
@[simp] theorem State.modGrid_now (s : State) (n : Nat) (f : Grid → Grid) : (s.modGrid n f).now = s.now := rfl
@[simp] theorem State.modGrid_tickEnd (s : State) (n : Nat) (f : Grid → Grid) : (s.modGrid n f).tickEnd = s.tickEnd := rfl
@[simp] theorem State.modGrid_tickStop (s : State) (n : Nat) (f : Grid → Grid) : (s.modGrid n f).tickStop = s.tickStop := rfl
@[simp] theorem State.modGrid_billed (s : State) (n : Nat) (f : Grid → Grid) : (s.modGrid n f).billed = s.billed := rfl
@[simp] theorem State.modGrid_mem (s : State) (n : Nat) (f : Grid → Grid) : (s.modGrid n f).mem = s.mem := rfl
@[simp] theorem State.modGrid_memBad (s : State) (n : Nat) (f : Grid → Grid) : (s.modGrid n f).memBad = s.memBad := rfl
@[simp] theorem State.modGrid_store (s : State) (n : Nat) (f : Grid → Grid) : (s.modGrid n f).store = s.store := rfl
@[simp] theorem State.modGrid_storeBad (s : State) (n : Nat) (f : Grid → Grid) : (s.modGrid n f).storeBad = s.storeBad := rfl
@[simp] theorem State.modGrid_acc (s : State) (n : Nat) (f : Grid → Grid) : (s.modGrid n f).acc = s.acc := rfl
@[simp] theorem State.modGrid_metas (s : State) (n : Nat) (f : Grid → Grid) : (s.modGrid n f).metas = s.metas := rfl
@[simp] theorem State.modGrid_l1 (s : State) (n : Nat) (f : Grid → Grid) : (s.modGrid n f).l1 = s.l1 := rfl
@[simp] theorem State.modGrid_near (s : State) (n : Nat) (f : Grid → Grid) : (s.modGrid n f).near = s.near := rfl
@[simp] theorem State.modGrid_home (s : State) (n : Nat) (f : Grid → Grid) : (s.modGrid n f).home = s.home := rfl
@[simp] theorem State.modGrid_victim (s : State) (n : Nat) (f : Grid → Grid) : (s.modGrid n f).victim = s.victim := rfl
@[simp] theorem State.modGrid_rowTab (s : State) (n : Nat) (f : Grid → Grid) : (s.modGrid n f).rowTab = s.rowTab := rfl
@[simp] theorem State.modGrid_tlb (s : State) (n : Nat) (f : Grid → Grid) : (s.modGrid n f).tlb = s.tlb := rfl
@[simp] theorem State.modGrid_walk (s : State) (n : Nat) (f : Grid → Grid) : (s.modGrid n f).walk = s.walk := rfl
@[simp] theorem State.modGrid_trace (s : State) (n : Nat) (f : Grid → Grid) : (s.modGrid n f).trace = s.trace := rfl
@[simp] theorem State.modGrid_regions (s : State) (n : Nat) (f : Grid → Grid) : (s.modGrid n f).regions = s.regions := rfl
@[simp] theorem State.modGrid_parts (s : State) (n : Nat) (f : Grid → Grid) : (s.modGrid n f).parts = s.parts := rfl
@[simp] theorem State.modGrid_ctxs (s : State) (n : Nat) (f : Grid → Grid) : (s.modGrid n f).ctxs = s.ctxs := rfl
@[simp] theorem State.modGrid_pages (s : State) (n : Nat) (f : Grid → Grid) : (s.modGrid n f).pages = s.pages := rfl
@[simp] theorem State.modGrid_grids (s : State) (n : Nat) (f : Grid → Grid) : (s.modGrid n f).grids = Tbl.upd s.grids n f := rfl
@[simp] theorem State.modGrid_clusters (s : State) (n : Nat) (f : Grid → Grid) : (s.modGrid n f).clusters = s.clusters := rfl
@[simp] theorem State.modGrid_teams (s : State) (n : Nat) (f : Grid → Grid) : (s.modGrid n f).teams = s.teams := rfl
@[simp] theorem State.modGrid_gangs (s : State) (n : Nat) (f : Grid → Grid) : (s.modGrid n f).gangs = s.gangs := rfl
@[simp] theorem State.modGrid_plan (s : State) (n : Nat) (f : Grid → Grid) : (s.modGrid n f).plan = s.plan := rfl
@[simp] theorem State.modGrid_ports (s : State) (n : Nat) (f : Grid → Grid) : (s.modGrid n f).ports = s.ports := rfl
@[simp] theorem State.modGrid_farEnds (s : State) (n : Nat) (f : Grid → Grid) : (s.modGrid n f).farEnds = s.farEnds := rfl
@[simp] theorem State.modGrid_requests (s : State) (n : Nat) (f : Grid → Grid) : (s.modGrid n f).requests = s.requests := rfl
@[simp] theorem State.modGrid_pins (s : State) (n : Nat) (f : Grid → Grid) : (s.modGrid n f).pins = s.pins := rfl
@[simp] theorem State.modGrid_violations (s : State) (n : Nat) (f : Grid → Grid) : (s.modGrid n f).violations = s.violations := rfl
@[simp] theorem State.modGrid_late (s : State) (n : Nat) (f : Grid → Grid) : (s.modGrid n f).late = s.late := rfl
@[simp] theorem State.modGrid_groups (s : State) (n : Nat) (f : Grid → Grid) : (s.modGrid n f).groups = s.groups := rfl
@[simp] theorem State.modGrid_swarm (s : State) (n : Nat) (f : Grid → Grid) : (s.modGrid n f).swarm = s.swarm := rfl
@[simp] theorem State.modGrid_stopped (s : State) (n : Nat) (f : Grid → Grid) : (s.modGrid n f).stopped = s.stopped := rfl
@[simp] theorem State.modGrid_seq (s : State) (n : Nat) (f : Grid → Grid) : (s.modGrid n f).seq = s.seq := rfl
@[simp] theorem State.modGrid_overhead (s : State) (n : Nat) (f : Grid → Grid) : (s.modGrid n f).overhead = s.overhead := rfl
@[simp] theorem State.modGrid_ovresid (s : State) (n : Nat) (f : Grid → Grid) : (s.modGrid n f).ovresid = s.ovresid := rfl
@[simp] theorem State.modGrid_energy (s : State) (n : Nat) (f : Grid → Grid) : (s.modGrid n f).energy = s.energy := rfl
@[simp] theorem State.modGrid_lastPart (s : State) (n : Nat) (f : Grid → Grid) : (s.modGrid n f).lastPart = s.lastPart := rfl
@[simp] theorem State.modGrid_calib (s : State) (n : Nat) (f : Grid → Grid) : (s.modGrid n f).calib = s.calib := rfl
@[simp] theorem State.modGrid_uvlog (s : State) (n : Nat) (f : Grid → Grid) : (s.modGrid n f).uvlog = s.uvlog := rfl
@[simp] theorem State.modGrid_errRate (s : State) (n : Nat) (f : Grid → Grid) : (s.modGrid n f).errRate = s.errRate := rfl
@[simp] theorem State.modGrid_zeroised (s : State) (n : Nat) (f : Grid → Grid) : (s.modGrid n f).zeroised = s.zeroised := rfl
@[simp] theorem State.modGrid_keyed (s : State) (n : Nat) (f : Grid → Grid) : (s.modGrid n f).keyed = s.keyed := rfl
@[simp] theorem State.modGrid_minver (s : State) (n : Nat) (f : Grid → Grid) : (s.modGrid n f).minver = s.minver := rfl
@[simp] theorem State.modGrid_minPatch (s : State) (n : Nat) (f : Grid → Grid) : (s.modGrid n f).minPatch = s.minPatch := rfl
@[simp] theorem State.modGrid_patch (s : State) (n : Nat) (f : Grid → Grid) : (s.modGrid n f).patch = s.patch := rfl
@[simp] theorem State.modGrid_broken (s : State) (n : Nat) (f : Grid → Grid) : (s.modGrid n f).broken = s.broken := rfl
@[simp] theorem State.modGrid_scrub (s : State) (n : Nat) (f : Grid → Grid) : (s.modGrid n f).scrub = s.scrub := rfl
@[simp] theorem State.modGrid_scrubHeld (s : State) (n : Nat) (f : Grid → Grid) : (s.modGrid n f).scrubHeld = s.scrubHeld := rfl
@[simp] theorem State.modGrid_hottest (s : State) (n : Nat) (f : Grid → Grid) : (s.modGrid n f).hottest = s.hottest := rfl
@[simp] theorem State.modGrid_flow (s : State) (n : Nat) (f : Grid → Grid) : (s.modGrid n f).flow = s.flow := rfl
@[simp] theorem State.modGrid_ide (s : State) (n : Nat) (f : Grid → Grid) : (s.modGrid n f).ide = s.ide := rfl
@[simp] theorem State.modGrid_tdisp (s : State) (n : Nat) (f : Grid → Grid) : (s.modGrid n f).tdisp = s.tdisp := rfl
@[simp] theorem State.modGrid_sessions (s : State) (n : Nat) (f : Grid → Grid) : (s.modGrid n f).sessions = s.sessions := rfl
@[simp] theorem State.modGrid_spares (s : State) (n : Nat) (f : Grid → Grid) : (s.modGrid n f).spares = s.spares := rfl
@[simp] theorem State.modGrid_outbox (s : State) (n : Nat) (f : Grid → Grid) : (s.modGrid n f).outbox = s.outbox := rfl
@[simp] theorem State.modGrid_uid (s : State) (n : Nat) (f : Grid → Grid) : (s.modGrid n f).uid = s.uid := rfl
@[simp] theorem State.modGrid_readySeq (s : State) (n : Nat) (f : Grid → Grid) : (s.modGrid n f).readySeq = s.readySeq := rfl
@[simp] theorem State.modGrid_agenda (s : State) (n : Nat) (f : Grid → Grid) : (s.modGrid n f).agenda = s.agenda := rfl
@[simp] theorem State.modGrid_turn (s : State) (n : Nat) (f : Grid → Grid) : (s.modGrid n f).turn = s.turn := rfl
@[simp] theorem State.modGrid_cur (s : State) (n : Nat) (f : Grid → Grid) : (s.modGrid n f).cur = s.cur := rfl
@[simp] theorem State.modGrid_cells (s : State) (n : Nat) (f : Grid → Grid) : (s.modGrid n f).cells = s.cells := rfl
@[simp] theorem State.modGrid_free (s : State) (n : Nat) (f : Grid → Grid) : (s.modGrid n f).free = s.free := rfl

/-! ### modCtx -/

@[simp] theorem State.modCtx_boot (s : State) (a : Nat) (f : Ctx → Ctx) : (s.modCtx a f).boot = s.boot := rfl
@[simp] theorem State.modCtx_bootFailed (s : State) (a : Nat) (f : Ctx → Ctx) : (s.modCtx a f).bootFailed = s.bootFailed := rfl
@[simp] theorem State.modCtx_bootCount (s : State) (a : Nat) (f : Ctx → Ctx) : (s.modCtx a f).bootCount = s.bootCount := rfl
@[simp] theorem State.modCtx_now (s : State) (a : Nat) (f : Ctx → Ctx) : (s.modCtx a f).now = s.now := rfl
@[simp] theorem State.modCtx_tickEnd (s : State) (a : Nat) (f : Ctx → Ctx) : (s.modCtx a f).tickEnd = s.tickEnd := rfl
@[simp] theorem State.modCtx_tickStop (s : State) (a : Nat) (f : Ctx → Ctx) : (s.modCtx a f).tickStop = s.tickStop := rfl
@[simp] theorem State.modCtx_billed (s : State) (a : Nat) (f : Ctx → Ctx) : (s.modCtx a f).billed = s.billed := rfl
@[simp] theorem State.modCtx_mem (s : State) (a : Nat) (f : Ctx → Ctx) : (s.modCtx a f).mem = s.mem := rfl
@[simp] theorem State.modCtx_memBad (s : State) (a : Nat) (f : Ctx → Ctx) : (s.modCtx a f).memBad = s.memBad := rfl
@[simp] theorem State.modCtx_store (s : State) (a : Nat) (f : Ctx → Ctx) : (s.modCtx a f).store = s.store := rfl
@[simp] theorem State.modCtx_storeBad (s : State) (a : Nat) (f : Ctx → Ctx) : (s.modCtx a f).storeBad = s.storeBad := rfl
@[simp] theorem State.modCtx_acc (s : State) (a : Nat) (f : Ctx → Ctx) : (s.modCtx a f).acc = s.acc := rfl
@[simp] theorem State.modCtx_metas (s : State) (a : Nat) (f : Ctx → Ctx) : (s.modCtx a f).metas = s.metas := rfl
@[simp] theorem State.modCtx_l1 (s : State) (a : Nat) (f : Ctx → Ctx) : (s.modCtx a f).l1 = s.l1 := rfl
@[simp] theorem State.modCtx_near (s : State) (a : Nat) (f : Ctx → Ctx) : (s.modCtx a f).near = s.near := rfl
@[simp] theorem State.modCtx_home (s : State) (a : Nat) (f : Ctx → Ctx) : (s.modCtx a f).home = s.home := rfl
@[simp] theorem State.modCtx_victim (s : State) (a : Nat) (f : Ctx → Ctx) : (s.modCtx a f).victim = s.victim := rfl
@[simp] theorem State.modCtx_rowTab (s : State) (a : Nat) (f : Ctx → Ctx) : (s.modCtx a f).rowTab = s.rowTab := rfl
@[simp] theorem State.modCtx_tlb (s : State) (a : Nat) (f : Ctx → Ctx) : (s.modCtx a f).tlb = s.tlb := rfl
@[simp] theorem State.modCtx_walk (s : State) (a : Nat) (f : Ctx → Ctx) : (s.modCtx a f).walk = s.walk := rfl
@[simp] theorem State.modCtx_trace (s : State) (a : Nat) (f : Ctx → Ctx) : (s.modCtx a f).trace = s.trace := rfl
@[simp] theorem State.modCtx_regions (s : State) (a : Nat) (f : Ctx → Ctx) : (s.modCtx a f).regions = s.regions := rfl
@[simp] theorem State.modCtx_parts (s : State) (a : Nat) (f : Ctx → Ctx) : (s.modCtx a f).parts = s.parts := rfl
@[simp] theorem State.modCtx_ctxs (s : State) (a : Nat) (f : Ctx → Ctx) : (s.modCtx a f).ctxs = Tbl.upd s.ctxs a f := rfl
@[simp] theorem State.modCtx_pages (s : State) (a : Nat) (f : Ctx → Ctx) : (s.modCtx a f).pages = s.pages := rfl
@[simp] theorem State.modCtx_grids (s : State) (a : Nat) (f : Ctx → Ctx) : (s.modCtx a f).grids = s.grids := rfl
@[simp] theorem State.modCtx_clusters (s : State) (a : Nat) (f : Ctx → Ctx) : (s.modCtx a f).clusters = s.clusters := rfl
@[simp] theorem State.modCtx_teams (s : State) (a : Nat) (f : Ctx → Ctx) : (s.modCtx a f).teams = s.teams := rfl
@[simp] theorem State.modCtx_gangs (s : State) (a : Nat) (f : Ctx → Ctx) : (s.modCtx a f).gangs = s.gangs := rfl
@[simp] theorem State.modCtx_plan (s : State) (a : Nat) (f : Ctx → Ctx) : (s.modCtx a f).plan = s.plan := rfl
@[simp] theorem State.modCtx_ports (s : State) (a : Nat) (f : Ctx → Ctx) : (s.modCtx a f).ports = s.ports := rfl
@[simp] theorem State.modCtx_farEnds (s : State) (a : Nat) (f : Ctx → Ctx) : (s.modCtx a f).farEnds = s.farEnds := rfl
@[simp] theorem State.modCtx_requests (s : State) (a : Nat) (f : Ctx → Ctx) : (s.modCtx a f).requests = s.requests := rfl
@[simp] theorem State.modCtx_pins (s : State) (a : Nat) (f : Ctx → Ctx) : (s.modCtx a f).pins = s.pins := rfl
@[simp] theorem State.modCtx_violations (s : State) (a : Nat) (f : Ctx → Ctx) : (s.modCtx a f).violations = s.violations := rfl
@[simp] theorem State.modCtx_late (s : State) (a : Nat) (f : Ctx → Ctx) : (s.modCtx a f).late = s.late := rfl
@[simp] theorem State.modCtx_groups (s : State) (a : Nat) (f : Ctx → Ctx) : (s.modCtx a f).groups = s.groups := rfl
@[simp] theorem State.modCtx_swarm (s : State) (a : Nat) (f : Ctx → Ctx) : (s.modCtx a f).swarm = s.swarm := rfl
@[simp] theorem State.modCtx_stopped (s : State) (a : Nat) (f : Ctx → Ctx) : (s.modCtx a f).stopped = s.stopped := rfl
@[simp] theorem State.modCtx_seq (s : State) (a : Nat) (f : Ctx → Ctx) : (s.modCtx a f).seq = s.seq := rfl
@[simp] theorem State.modCtx_overhead (s : State) (a : Nat) (f : Ctx → Ctx) : (s.modCtx a f).overhead = s.overhead := rfl
@[simp] theorem State.modCtx_ovresid (s : State) (a : Nat) (f : Ctx → Ctx) : (s.modCtx a f).ovresid = s.ovresid := rfl
@[simp] theorem State.modCtx_energy (s : State) (a : Nat) (f : Ctx → Ctx) : (s.modCtx a f).energy = s.energy := rfl
@[simp] theorem State.modCtx_lastPart (s : State) (a : Nat) (f : Ctx → Ctx) : (s.modCtx a f).lastPart = s.lastPart := rfl
@[simp] theorem State.modCtx_calib (s : State) (a : Nat) (f : Ctx → Ctx) : (s.modCtx a f).calib = s.calib := rfl
@[simp] theorem State.modCtx_uvlog (s : State) (a : Nat) (f : Ctx → Ctx) : (s.modCtx a f).uvlog = s.uvlog := rfl
@[simp] theorem State.modCtx_errRate (s : State) (a : Nat) (f : Ctx → Ctx) : (s.modCtx a f).errRate = s.errRate := rfl
@[simp] theorem State.modCtx_zeroised (s : State) (a : Nat) (f : Ctx → Ctx) : (s.modCtx a f).zeroised = s.zeroised := rfl
@[simp] theorem State.modCtx_keyed (s : State) (a : Nat) (f : Ctx → Ctx) : (s.modCtx a f).keyed = s.keyed := rfl
@[simp] theorem State.modCtx_minver (s : State) (a : Nat) (f : Ctx → Ctx) : (s.modCtx a f).minver = s.minver := rfl
@[simp] theorem State.modCtx_minPatch (s : State) (a : Nat) (f : Ctx → Ctx) : (s.modCtx a f).minPatch = s.minPatch := rfl
@[simp] theorem State.modCtx_patch (s : State) (a : Nat) (f : Ctx → Ctx) : (s.modCtx a f).patch = s.patch := rfl
@[simp] theorem State.modCtx_broken (s : State) (a : Nat) (f : Ctx → Ctx) : (s.modCtx a f).broken = s.broken := rfl
@[simp] theorem State.modCtx_scrub (s : State) (a : Nat) (f : Ctx → Ctx) : (s.modCtx a f).scrub = s.scrub := rfl
@[simp] theorem State.modCtx_scrubHeld (s : State) (a : Nat) (f : Ctx → Ctx) : (s.modCtx a f).scrubHeld = s.scrubHeld := rfl
@[simp] theorem State.modCtx_hottest (s : State) (a : Nat) (f : Ctx → Ctx) : (s.modCtx a f).hottest = s.hottest := rfl
@[simp] theorem State.modCtx_flow (s : State) (a : Nat) (f : Ctx → Ctx) : (s.modCtx a f).flow = s.flow := rfl
@[simp] theorem State.modCtx_ide (s : State) (a : Nat) (f : Ctx → Ctx) : (s.modCtx a f).ide = s.ide := rfl
@[simp] theorem State.modCtx_tdisp (s : State) (a : Nat) (f : Ctx → Ctx) : (s.modCtx a f).tdisp = s.tdisp := rfl
@[simp] theorem State.modCtx_sessions (s : State) (a : Nat) (f : Ctx → Ctx) : (s.modCtx a f).sessions = s.sessions := rfl
@[simp] theorem State.modCtx_spares (s : State) (a : Nat) (f : Ctx → Ctx) : (s.modCtx a f).spares = s.spares := rfl
@[simp] theorem State.modCtx_outbox (s : State) (a : Nat) (f : Ctx → Ctx) : (s.modCtx a f).outbox = s.outbox := rfl
@[simp] theorem State.modCtx_uid (s : State) (a : Nat) (f : Ctx → Ctx) : (s.modCtx a f).uid = s.uid := rfl
@[simp] theorem State.modCtx_readySeq (s : State) (a : Nat) (f : Ctx → Ctx) : (s.modCtx a f).readySeq = s.readySeq := rfl
@[simp] theorem State.modCtx_agenda (s : State) (a : Nat) (f : Ctx → Ctx) : (s.modCtx a f).agenda = s.agenda := rfl
@[simp] theorem State.modCtx_turn (s : State) (a : Nat) (f : Ctx → Ctx) : (s.modCtx a f).turn = s.turn := rfl
@[simp] theorem State.modCtx_cur (s : State) (a : Nat) (f : Ctx → Ctx) : (s.modCtx a f).cur = s.cur := rfl
@[simp] theorem State.modCtx_cells (s : State) (a : Nat) (f : Ctx → Ctx) : (s.modCtx a f).cells = s.cells := rfl
@[simp] theorem State.modCtx_free (s : State) (a : Nat) (f : Ctx → Ctx) : (s.modCtx a f).free = s.free := rfl

/-! ### modPart -/

@[simp] theorem State.modPart_boot (s : State) (p : Nat) (f : Partition → Partition) : (s.modPart p f).boot = s.boot := rfl
@[simp] theorem State.modPart_bootFailed (s : State) (p : Nat) (f : Partition → Partition) : (s.modPart p f).bootFailed = s.bootFailed := rfl
@[simp] theorem State.modPart_bootCount (s : State) (p : Nat) (f : Partition → Partition) : (s.modPart p f).bootCount = s.bootCount := rfl
@[simp] theorem State.modPart_now (s : State) (p : Nat) (f : Partition → Partition) : (s.modPart p f).now = s.now := rfl
@[simp] theorem State.modPart_tickEnd (s : State) (p : Nat) (f : Partition → Partition) : (s.modPart p f).tickEnd = s.tickEnd := rfl
@[simp] theorem State.modPart_tickStop (s : State) (p : Nat) (f : Partition → Partition) : (s.modPart p f).tickStop = s.tickStop := rfl
@[simp] theorem State.modPart_billed (s : State) (p : Nat) (f : Partition → Partition) : (s.modPart p f).billed = s.billed := rfl
@[simp] theorem State.modPart_mem (s : State) (p : Nat) (f : Partition → Partition) : (s.modPart p f).mem = s.mem := rfl
@[simp] theorem State.modPart_memBad (s : State) (p : Nat) (f : Partition → Partition) : (s.modPart p f).memBad = s.memBad := rfl
@[simp] theorem State.modPart_store (s : State) (p : Nat) (f : Partition → Partition) : (s.modPart p f).store = s.store := rfl
@[simp] theorem State.modPart_storeBad (s : State) (p : Nat) (f : Partition → Partition) : (s.modPart p f).storeBad = s.storeBad := rfl
@[simp] theorem State.modPart_acc (s : State) (p : Nat) (f : Partition → Partition) : (s.modPart p f).acc = s.acc := rfl
@[simp] theorem State.modPart_metas (s : State) (p : Nat) (f : Partition → Partition) : (s.modPart p f).metas = s.metas := rfl
@[simp] theorem State.modPart_l1 (s : State) (p : Nat) (f : Partition → Partition) : (s.modPart p f).l1 = s.l1 := rfl
@[simp] theorem State.modPart_near (s : State) (p : Nat) (f : Partition → Partition) : (s.modPart p f).near = s.near := rfl
@[simp] theorem State.modPart_home (s : State) (p : Nat) (f : Partition → Partition) : (s.modPart p f).home = s.home := rfl
@[simp] theorem State.modPart_victim (s : State) (p : Nat) (f : Partition → Partition) : (s.modPart p f).victim = s.victim := rfl
@[simp] theorem State.modPart_rowTab (s : State) (p : Nat) (f : Partition → Partition) : (s.modPart p f).rowTab = s.rowTab := rfl
@[simp] theorem State.modPart_tlb (s : State) (p : Nat) (f : Partition → Partition) : (s.modPart p f).tlb = s.tlb := rfl
@[simp] theorem State.modPart_walk (s : State) (p : Nat) (f : Partition → Partition) : (s.modPart p f).walk = s.walk := rfl
@[simp] theorem State.modPart_trace (s : State) (p : Nat) (f : Partition → Partition) : (s.modPart p f).trace = s.trace := rfl
@[simp] theorem State.modPart_regions (s : State) (p : Nat) (f : Partition → Partition) : (s.modPart p f).regions = s.regions := rfl
@[simp] theorem State.modPart_parts (s : State) (p : Nat) (f : Partition → Partition) : (s.modPart p f).parts = Tbl.upd s.parts p f := rfl
@[simp] theorem State.modPart_ctxs (s : State) (p : Nat) (f : Partition → Partition) : (s.modPart p f).ctxs = s.ctxs := rfl
@[simp] theorem State.modPart_pages (s : State) (p : Nat) (f : Partition → Partition) : (s.modPart p f).pages = s.pages := rfl
@[simp] theorem State.modPart_grids (s : State) (p : Nat) (f : Partition → Partition) : (s.modPart p f).grids = s.grids := rfl
@[simp] theorem State.modPart_clusters (s : State) (p : Nat) (f : Partition → Partition) : (s.modPart p f).clusters = s.clusters := rfl
@[simp] theorem State.modPart_teams (s : State) (p : Nat) (f : Partition → Partition) : (s.modPart p f).teams = s.teams := rfl
@[simp] theorem State.modPart_gangs (s : State) (p : Nat) (f : Partition → Partition) : (s.modPart p f).gangs = s.gangs := rfl
@[simp] theorem State.modPart_plan (s : State) (p : Nat) (f : Partition → Partition) : (s.modPart p f).plan = s.plan := rfl
@[simp] theorem State.modPart_ports (s : State) (p : Nat) (f : Partition → Partition) : (s.modPart p f).ports = s.ports := rfl
@[simp] theorem State.modPart_farEnds (s : State) (p : Nat) (f : Partition → Partition) : (s.modPart p f).farEnds = s.farEnds := rfl
@[simp] theorem State.modPart_requests (s : State) (p : Nat) (f : Partition → Partition) : (s.modPart p f).requests = s.requests := rfl
@[simp] theorem State.modPart_pins (s : State) (p : Nat) (f : Partition → Partition) : (s.modPart p f).pins = s.pins := rfl
@[simp] theorem State.modPart_violations (s : State) (p : Nat) (f : Partition → Partition) : (s.modPart p f).violations = s.violations := rfl
@[simp] theorem State.modPart_late (s : State) (p : Nat) (f : Partition → Partition) : (s.modPart p f).late = s.late := rfl
@[simp] theorem State.modPart_groups (s : State) (p : Nat) (f : Partition → Partition) : (s.modPart p f).groups = s.groups := rfl
@[simp] theorem State.modPart_swarm (s : State) (p : Nat) (f : Partition → Partition) : (s.modPart p f).swarm = s.swarm := rfl
@[simp] theorem State.modPart_stopped (s : State) (p : Nat) (f : Partition → Partition) : (s.modPart p f).stopped = s.stopped := rfl
@[simp] theorem State.modPart_seq (s : State) (p : Nat) (f : Partition → Partition) : (s.modPart p f).seq = s.seq := rfl
@[simp] theorem State.modPart_overhead (s : State) (p : Nat) (f : Partition → Partition) : (s.modPart p f).overhead = s.overhead := rfl
@[simp] theorem State.modPart_ovresid (s : State) (p : Nat) (f : Partition → Partition) : (s.modPart p f).ovresid = s.ovresid := rfl
@[simp] theorem State.modPart_energy (s : State) (p : Nat) (f : Partition → Partition) : (s.modPart p f).energy = s.energy := rfl
@[simp] theorem State.modPart_lastPart (s : State) (p : Nat) (f : Partition → Partition) : (s.modPart p f).lastPart = s.lastPart := rfl
@[simp] theorem State.modPart_calib (s : State) (p : Nat) (f : Partition → Partition) : (s.modPart p f).calib = s.calib := rfl
@[simp] theorem State.modPart_uvlog (s : State) (p : Nat) (f : Partition → Partition) : (s.modPart p f).uvlog = s.uvlog := rfl
@[simp] theorem State.modPart_errRate (s : State) (p : Nat) (f : Partition → Partition) : (s.modPart p f).errRate = s.errRate := rfl
@[simp] theorem State.modPart_zeroised (s : State) (p : Nat) (f : Partition → Partition) : (s.modPart p f).zeroised = s.zeroised := rfl
@[simp] theorem State.modPart_keyed (s : State) (p : Nat) (f : Partition → Partition) : (s.modPart p f).keyed = s.keyed := rfl
@[simp] theorem State.modPart_minver (s : State) (p : Nat) (f : Partition → Partition) : (s.modPart p f).minver = s.minver := rfl
@[simp] theorem State.modPart_minPatch (s : State) (p : Nat) (f : Partition → Partition) : (s.modPart p f).minPatch = s.minPatch := rfl
@[simp] theorem State.modPart_patch (s : State) (p : Nat) (f : Partition → Partition) : (s.modPart p f).patch = s.patch := rfl
@[simp] theorem State.modPart_broken (s : State) (p : Nat) (f : Partition → Partition) : (s.modPart p f).broken = s.broken := rfl
@[simp] theorem State.modPart_scrub (s : State) (p : Nat) (f : Partition → Partition) : (s.modPart p f).scrub = s.scrub := rfl
@[simp] theorem State.modPart_scrubHeld (s : State) (p : Nat) (f : Partition → Partition) : (s.modPart p f).scrubHeld = s.scrubHeld := rfl
@[simp] theorem State.modPart_hottest (s : State) (p : Nat) (f : Partition → Partition) : (s.modPart p f).hottest = s.hottest := rfl
@[simp] theorem State.modPart_flow (s : State) (p : Nat) (f : Partition → Partition) : (s.modPart p f).flow = s.flow := rfl
@[simp] theorem State.modPart_ide (s : State) (p : Nat) (f : Partition → Partition) : (s.modPart p f).ide = s.ide := rfl
@[simp] theorem State.modPart_tdisp (s : State) (p : Nat) (f : Partition → Partition) : (s.modPart p f).tdisp = s.tdisp := rfl
@[simp] theorem State.modPart_sessions (s : State) (p : Nat) (f : Partition → Partition) : (s.modPart p f).sessions = s.sessions := rfl
@[simp] theorem State.modPart_spares (s : State) (p : Nat) (f : Partition → Partition) : (s.modPart p f).spares = s.spares := rfl
@[simp] theorem State.modPart_outbox (s : State) (p : Nat) (f : Partition → Partition) : (s.modPart p f).outbox = s.outbox := rfl
@[simp] theorem State.modPart_uid (s : State) (p : Nat) (f : Partition → Partition) : (s.modPart p f).uid = s.uid := rfl
@[simp] theorem State.modPart_readySeq (s : State) (p : Nat) (f : Partition → Partition) : (s.modPart p f).readySeq = s.readySeq := rfl
@[simp] theorem State.modPart_agenda (s : State) (p : Nat) (f : Partition → Partition) : (s.modPart p f).agenda = s.agenda := rfl
@[simp] theorem State.modPart_turn (s : State) (p : Nat) (f : Partition → Partition) : (s.modPart p f).turn = s.turn := rfl
@[simp] theorem State.modPart_cur (s : State) (p : Nat) (f : Partition → Partition) : (s.modPart p f).cur = s.cur := rfl
@[simp] theorem State.modPart_cells (s : State) (p : Nat) (f : Partition → Partition) : (s.modPart p f).cells = s.cells := rfl
@[simp] theorem State.modPart_free (s : State) (p : Nat) (f : Partition → Partition) : (s.modPart p f).free = s.free := rfl

/-! ### modRegion -/

@[simp] theorem State.modRegion_boot (s : State) (r : Nat) (f : Region → Region) : (s.modRegion r f).boot = s.boot := rfl
@[simp] theorem State.modRegion_bootFailed (s : State) (r : Nat) (f : Region → Region) : (s.modRegion r f).bootFailed = s.bootFailed := rfl
@[simp] theorem State.modRegion_bootCount (s : State) (r : Nat) (f : Region → Region) : (s.modRegion r f).bootCount = s.bootCount := rfl
@[simp] theorem State.modRegion_now (s : State) (r : Nat) (f : Region → Region) : (s.modRegion r f).now = s.now := rfl
@[simp] theorem State.modRegion_tickEnd (s : State) (r : Nat) (f : Region → Region) : (s.modRegion r f).tickEnd = s.tickEnd := rfl
@[simp] theorem State.modRegion_tickStop (s : State) (r : Nat) (f : Region → Region) : (s.modRegion r f).tickStop = s.tickStop := rfl
@[simp] theorem State.modRegion_billed (s : State) (r : Nat) (f : Region → Region) : (s.modRegion r f).billed = s.billed := rfl
@[simp] theorem State.modRegion_mem (s : State) (r : Nat) (f : Region → Region) : (s.modRegion r f).mem = s.mem := rfl
@[simp] theorem State.modRegion_memBad (s : State) (r : Nat) (f : Region → Region) : (s.modRegion r f).memBad = s.memBad := rfl
@[simp] theorem State.modRegion_store (s : State) (r : Nat) (f : Region → Region) : (s.modRegion r f).store = s.store := rfl
@[simp] theorem State.modRegion_storeBad (s : State) (r : Nat) (f : Region → Region) : (s.modRegion r f).storeBad = s.storeBad := rfl
@[simp] theorem State.modRegion_acc (s : State) (r : Nat) (f : Region → Region) : (s.modRegion r f).acc = s.acc := rfl
@[simp] theorem State.modRegion_metas (s : State) (r : Nat) (f : Region → Region) : (s.modRegion r f).metas = s.metas := rfl
@[simp] theorem State.modRegion_l1 (s : State) (r : Nat) (f : Region → Region) : (s.modRegion r f).l1 = s.l1 := rfl
@[simp] theorem State.modRegion_near (s : State) (r : Nat) (f : Region → Region) : (s.modRegion r f).near = s.near := rfl
@[simp] theorem State.modRegion_home (s : State) (r : Nat) (f : Region → Region) : (s.modRegion r f).home = s.home := rfl
@[simp] theorem State.modRegion_victim (s : State) (r : Nat) (f : Region → Region) : (s.modRegion r f).victim = s.victim := rfl
@[simp] theorem State.modRegion_rowTab (s : State) (r : Nat) (f : Region → Region) : (s.modRegion r f).rowTab = s.rowTab := rfl
@[simp] theorem State.modRegion_tlb (s : State) (r : Nat) (f : Region → Region) : (s.modRegion r f).tlb = s.tlb := rfl
@[simp] theorem State.modRegion_walk (s : State) (r : Nat) (f : Region → Region) : (s.modRegion r f).walk = s.walk := rfl
@[simp] theorem State.modRegion_trace (s : State) (r : Nat) (f : Region → Region) : (s.modRegion r f).trace = s.trace := rfl
@[simp] theorem State.modRegion_regions (s : State) (r : Nat) (f : Region → Region) : (s.modRegion r f).regions = Tbl.upd s.regions r f := rfl
@[simp] theorem State.modRegion_parts (s : State) (r : Nat) (f : Region → Region) : (s.modRegion r f).parts = s.parts := rfl
@[simp] theorem State.modRegion_ctxs (s : State) (r : Nat) (f : Region → Region) : (s.modRegion r f).ctxs = s.ctxs := rfl
@[simp] theorem State.modRegion_pages (s : State) (r : Nat) (f : Region → Region) : (s.modRegion r f).pages = s.pages := rfl
@[simp] theorem State.modRegion_grids (s : State) (r : Nat) (f : Region → Region) : (s.modRegion r f).grids = s.grids := rfl
@[simp] theorem State.modRegion_clusters (s : State) (r : Nat) (f : Region → Region) : (s.modRegion r f).clusters = s.clusters := rfl
@[simp] theorem State.modRegion_teams (s : State) (r : Nat) (f : Region → Region) : (s.modRegion r f).teams = s.teams := rfl
@[simp] theorem State.modRegion_gangs (s : State) (r : Nat) (f : Region → Region) : (s.modRegion r f).gangs = s.gangs := rfl
@[simp] theorem State.modRegion_plan (s : State) (r : Nat) (f : Region → Region) : (s.modRegion r f).plan = s.plan := rfl
@[simp] theorem State.modRegion_ports (s : State) (r : Nat) (f : Region → Region) : (s.modRegion r f).ports = s.ports := rfl
@[simp] theorem State.modRegion_farEnds (s : State) (r : Nat) (f : Region → Region) : (s.modRegion r f).farEnds = s.farEnds := rfl
@[simp] theorem State.modRegion_requests (s : State) (r : Nat) (f : Region → Region) : (s.modRegion r f).requests = s.requests := rfl
@[simp] theorem State.modRegion_pins (s : State) (r : Nat) (f : Region → Region) : (s.modRegion r f).pins = s.pins := rfl
@[simp] theorem State.modRegion_violations (s : State) (r : Nat) (f : Region → Region) : (s.modRegion r f).violations = s.violations := rfl
@[simp] theorem State.modRegion_late (s : State) (r : Nat) (f : Region → Region) : (s.modRegion r f).late = s.late := rfl
@[simp] theorem State.modRegion_groups (s : State) (r : Nat) (f : Region → Region) : (s.modRegion r f).groups = s.groups := rfl
@[simp] theorem State.modRegion_swarm (s : State) (r : Nat) (f : Region → Region) : (s.modRegion r f).swarm = s.swarm := rfl
@[simp] theorem State.modRegion_stopped (s : State) (r : Nat) (f : Region → Region) : (s.modRegion r f).stopped = s.stopped := rfl
@[simp] theorem State.modRegion_seq (s : State) (r : Nat) (f : Region → Region) : (s.modRegion r f).seq = s.seq := rfl
@[simp] theorem State.modRegion_overhead (s : State) (r : Nat) (f : Region → Region) : (s.modRegion r f).overhead = s.overhead := rfl
@[simp] theorem State.modRegion_ovresid (s : State) (r : Nat) (f : Region → Region) : (s.modRegion r f).ovresid = s.ovresid := rfl
@[simp] theorem State.modRegion_energy (s : State) (r : Nat) (f : Region → Region) : (s.modRegion r f).energy = s.energy := rfl
@[simp] theorem State.modRegion_lastPart (s : State) (r : Nat) (f : Region → Region) : (s.modRegion r f).lastPart = s.lastPart := rfl
@[simp] theorem State.modRegion_calib (s : State) (r : Nat) (f : Region → Region) : (s.modRegion r f).calib = s.calib := rfl
@[simp] theorem State.modRegion_uvlog (s : State) (r : Nat) (f : Region → Region) : (s.modRegion r f).uvlog = s.uvlog := rfl
@[simp] theorem State.modRegion_errRate (s : State) (r : Nat) (f : Region → Region) : (s.modRegion r f).errRate = s.errRate := rfl
@[simp] theorem State.modRegion_zeroised (s : State) (r : Nat) (f : Region → Region) : (s.modRegion r f).zeroised = s.zeroised := rfl
@[simp] theorem State.modRegion_keyed (s : State) (r : Nat) (f : Region → Region) : (s.modRegion r f).keyed = s.keyed := rfl
@[simp] theorem State.modRegion_minver (s : State) (r : Nat) (f : Region → Region) : (s.modRegion r f).minver = s.minver := rfl
@[simp] theorem State.modRegion_minPatch (s : State) (r : Nat) (f : Region → Region) : (s.modRegion r f).minPatch = s.minPatch := rfl
@[simp] theorem State.modRegion_patch (s : State) (r : Nat) (f : Region → Region) : (s.modRegion r f).patch = s.patch := rfl
@[simp] theorem State.modRegion_broken (s : State) (r : Nat) (f : Region → Region) : (s.modRegion r f).broken = s.broken := rfl
@[simp] theorem State.modRegion_scrub (s : State) (r : Nat) (f : Region → Region) : (s.modRegion r f).scrub = s.scrub := rfl
@[simp] theorem State.modRegion_scrubHeld (s : State) (r : Nat) (f : Region → Region) : (s.modRegion r f).scrubHeld = s.scrubHeld := rfl
@[simp] theorem State.modRegion_hottest (s : State) (r : Nat) (f : Region → Region) : (s.modRegion r f).hottest = s.hottest := rfl
@[simp] theorem State.modRegion_flow (s : State) (r : Nat) (f : Region → Region) : (s.modRegion r f).flow = s.flow := rfl
@[simp] theorem State.modRegion_ide (s : State) (r : Nat) (f : Region → Region) : (s.modRegion r f).ide = s.ide := rfl
@[simp] theorem State.modRegion_tdisp (s : State) (r : Nat) (f : Region → Region) : (s.modRegion r f).tdisp = s.tdisp := rfl
@[simp] theorem State.modRegion_sessions (s : State) (r : Nat) (f : Region → Region) : (s.modRegion r f).sessions = s.sessions := rfl
@[simp] theorem State.modRegion_spares (s : State) (r : Nat) (f : Region → Region) : (s.modRegion r f).spares = s.spares := rfl
@[simp] theorem State.modRegion_outbox (s : State) (r : Nat) (f : Region → Region) : (s.modRegion r f).outbox = s.outbox := rfl
@[simp] theorem State.modRegion_uid (s : State) (r : Nat) (f : Region → Region) : (s.modRegion r f).uid = s.uid := rfl
@[simp] theorem State.modRegion_readySeq (s : State) (r : Nat) (f : Region → Region) : (s.modRegion r f).readySeq = s.readySeq := rfl
@[simp] theorem State.modRegion_agenda (s : State) (r : Nat) (f : Region → Region) : (s.modRegion r f).agenda = s.agenda := rfl
@[simp] theorem State.modRegion_turn (s : State) (r : Nat) (f : Region → Region) : (s.modRegion r f).turn = s.turn := rfl
@[simp] theorem State.modRegion_cur (s : State) (r : Nat) (f : Region → Region) : (s.modRegion r f).cur = s.cur := rfl
@[simp] theorem State.modRegion_cells (s : State) (r : Nat) (f : Region → Region) : (s.modRegion r f).cells = s.cells := rfl
@[simp] theorem State.modRegion_free (s : State) (r : Nat) (f : Region → Region) : (s.modRegion r f).free = s.free := rfl

/-! ### select -/

@[simp] theorem State.select_boot (s : State) (u : Nat) (c : List Nat) : (s.select u c).boot = s.boot := rfl
@[simp] theorem State.select_bootFailed (s : State) (u : Nat) (c : List Nat) : (s.select u c).bootFailed = s.bootFailed := rfl
@[simp] theorem State.select_bootCount (s : State) (u : Nat) (c : List Nat) : (s.select u c).bootCount = s.bootCount := rfl
@[simp] theorem State.select_now (s : State) (u : Nat) (c : List Nat) : (s.select u c).now = s.now := rfl
@[simp] theorem State.select_tickEnd (s : State) (u : Nat) (c : List Nat) : (s.select u c).tickEnd = s.tickEnd := rfl
@[simp] theorem State.select_tickStop (s : State) (u : Nat) (c : List Nat) : (s.select u c).tickStop = s.tickStop := rfl
@[simp] theorem State.select_billed (s : State) (u : Nat) (c : List Nat) : (s.select u c).billed = s.billed := rfl
@[simp] theorem State.select_mem (s : State) (u : Nat) (c : List Nat) : (s.select u c).mem = s.mem := rfl
@[simp] theorem State.select_memBad (s : State) (u : Nat) (c : List Nat) : (s.select u c).memBad = s.memBad := rfl
@[simp] theorem State.select_store (s : State) (u : Nat) (c : List Nat) : (s.select u c).store = s.store := rfl
@[simp] theorem State.select_storeBad (s : State) (u : Nat) (c : List Nat) : (s.select u c).storeBad = s.storeBad := rfl
@[simp] theorem State.select_acc (s : State) (u : Nat) (c : List Nat) : (s.select u c).acc = s.acc := rfl
@[simp] theorem State.select_metas (s : State) (u : Nat) (c : List Nat) : (s.select u c).metas = s.metas := rfl
@[simp] theorem State.select_l1 (s : State) (u : Nat) (c : List Nat) : (s.select u c).l1 = s.l1 := rfl
@[simp] theorem State.select_near (s : State) (u : Nat) (c : List Nat) : (s.select u c).near = s.near := rfl
@[simp] theorem State.select_home (s : State) (u : Nat) (c : List Nat) : (s.select u c).home = s.home := rfl
@[simp] theorem State.select_victim (s : State) (u : Nat) (c : List Nat) : (s.select u c).victim = s.victim := rfl
@[simp] theorem State.select_rowTab (s : State) (u : Nat) (c : List Nat) : (s.select u c).rowTab = s.rowTab := rfl
@[simp] theorem State.select_tlb (s : State) (u : Nat) (c : List Nat) : (s.select u c).tlb = s.tlb := rfl
@[simp] theorem State.select_walk (s : State) (u : Nat) (c : List Nat) : (s.select u c).walk = s.walk := rfl
@[simp] theorem State.select_trace (s : State) (u : Nat) (c : List Nat) : (s.select u c).trace = s.trace := rfl
@[simp] theorem State.select_regions (s : State) (u : Nat) (c : List Nat) : (s.select u c).regions = s.regions := rfl
@[simp] theorem State.select_parts (s : State) (u : Nat) (c : List Nat) : (s.select u c).parts = s.parts := rfl
@[simp] theorem State.select_ctxs (s : State) (u : Nat) (c : List Nat) : (s.select u c).ctxs = s.ctxs := rfl
@[simp] theorem State.select_pages (s : State) (u : Nat) (c : List Nat) : (s.select u c).pages = s.pages := rfl
@[simp] theorem State.select_grids (s : State) (u : Nat) (c : List Nat) : (s.select u c).grids = s.grids := rfl
@[simp] theorem State.select_clusters (s : State) (u : Nat) (c : List Nat) : (s.select u c).clusters = s.clusters := rfl
@[simp] theorem State.select_teams (s : State) (u : Nat) (c : List Nat) : (s.select u c).teams = s.teams := rfl
@[simp] theorem State.select_gangs (s : State) (u : Nat) (c : List Nat) : (s.select u c).gangs = s.gangs := rfl
@[simp] theorem State.select_plan (s : State) (u : Nat) (c : List Nat) : (s.select u c).plan = s.plan := rfl
@[simp] theorem State.select_ports (s : State) (u : Nat) (c : List Nat) : (s.select u c).ports = s.ports := rfl
@[simp] theorem State.select_farEnds (s : State) (u : Nat) (c : List Nat) : (s.select u c).farEnds = s.farEnds := rfl
@[simp] theorem State.select_requests (s : State) (u : Nat) (c : List Nat) : (s.select u c).requests = s.requests := rfl
@[simp] theorem State.select_pins (s : State) (u : Nat) (c : List Nat) : (s.select u c).pins = s.pins := rfl
@[simp] theorem State.select_violations (s : State) (u : Nat) (c : List Nat) : (s.select u c).violations = s.violations := rfl
@[simp] theorem State.select_late (s : State) (u : Nat) (c : List Nat) : (s.select u c).late = s.late := rfl
@[simp] theorem State.select_groups (s : State) (u : Nat) (c : List Nat) : (s.select u c).groups = s.groups := rfl
@[simp] theorem State.select_swarm (s : State) (u : Nat) (c : List Nat) : (s.select u c).swarm = s.swarm := rfl
@[simp] theorem State.select_stopped (s : State) (u : Nat) (c : List Nat) : (s.select u c).stopped = s.stopped := rfl
@[simp] theorem State.select_seq (s : State) (u : Nat) (c : List Nat) : (s.select u c).seq = s.seq := rfl
@[simp] theorem State.select_overhead (s : State) (u : Nat) (c : List Nat) : (s.select u c).overhead = s.overhead := rfl
@[simp] theorem State.select_ovresid (s : State) (u : Nat) (c : List Nat) : (s.select u c).ovresid = s.ovresid := rfl
@[simp] theorem State.select_energy (s : State) (u : Nat) (c : List Nat) : (s.select u c).energy = s.energy := rfl
@[simp] theorem State.select_lastPart (s : State) (u : Nat) (c : List Nat) : (s.select u c).lastPart = s.lastPart := rfl
@[simp] theorem State.select_calib (s : State) (u : Nat) (c : List Nat) : (s.select u c).calib = s.calib := rfl
@[simp] theorem State.select_uvlog (s : State) (u : Nat) (c : List Nat) : (s.select u c).uvlog = s.uvlog := rfl
@[simp] theorem State.select_errRate (s : State) (u : Nat) (c : List Nat) : (s.select u c).errRate = s.errRate := rfl
@[simp] theorem State.select_zeroised (s : State) (u : Nat) (c : List Nat) : (s.select u c).zeroised = s.zeroised := rfl
@[simp] theorem State.select_keyed (s : State) (u : Nat) (c : List Nat) : (s.select u c).keyed = s.keyed := rfl
@[simp] theorem State.select_minver (s : State) (u : Nat) (c : List Nat) : (s.select u c).minver = s.minver := rfl
@[simp] theorem State.select_minPatch (s : State) (u : Nat) (c : List Nat) : (s.select u c).minPatch = s.minPatch := rfl
@[simp] theorem State.select_patch (s : State) (u : Nat) (c : List Nat) : (s.select u c).patch = s.patch := rfl
@[simp] theorem State.select_broken (s : State) (u : Nat) (c : List Nat) : (s.select u c).broken = s.broken := rfl
@[simp] theorem State.select_scrub (s : State) (u : Nat) (c : List Nat) : (s.select u c).scrub = s.scrub := rfl
@[simp] theorem State.select_scrubHeld (s : State) (u : Nat) (c : List Nat) : (s.select u c).scrubHeld = s.scrubHeld := rfl
@[simp] theorem State.select_hottest (s : State) (u : Nat) (c : List Nat) : (s.select u c).hottest = s.hottest := rfl
@[simp] theorem State.select_flow (s : State) (u : Nat) (c : List Nat) : (s.select u c).flow = s.flow := rfl
@[simp] theorem State.select_ide (s : State) (u : Nat) (c : List Nat) : (s.select u c).ide = s.ide := rfl
@[simp] theorem State.select_tdisp (s : State) (u : Nat) (c : List Nat) : (s.select u c).tdisp = s.tdisp := rfl
@[simp] theorem State.select_sessions (s : State) (u : Nat) (c : List Nat) : (s.select u c).sessions = s.sessions := rfl
@[simp] theorem State.select_spares (s : State) (u : Nat) (c : List Nat) : (s.select u c).spares = s.spares := rfl
@[simp] theorem State.select_outbox (s : State) (u : Nat) (c : List Nat) : (s.select u c).outbox = s.outbox := rfl
@[simp] theorem State.select_uid (s : State) (u : Nat) (c : List Nat) : (s.select u c).uid = s.uid := rfl
@[simp] theorem State.select_readySeq (s : State) (u : Nat) (c : List Nat) : (s.select u c).readySeq = s.readySeq := rfl
@[simp] theorem State.select_agenda (s : State) (u : Nat) (c : List Nat) : (s.select u c).agenda = s.agenda := rfl
@[simp] theorem State.select_turn (s : State) (u : Nat) (c : List Nat) : (s.select u c).turn = s.turn := rfl
@[simp] theorem State.select_cur (s : State) (u : Nat) (c : List Nat) : (s.select u c).cur = u := rfl
@[simp] theorem State.select_cells (s : State) (u : Nat) (c : List Nat) : (s.select u c).cells = c := rfl
@[simp] theorem State.select_free (s : State) (u : Nat) (c : List Nat) : (s.select u c).free = s.free := rfl

end Sys2Proof.Machine
end

