-- ==== Sys2Proof/Laws/Ops.lean ====
section
/-!
SUPPORT. What the shared operations can do, one lemma for each: charges, a scalar word that completes, and a scalar register written.
-/

namespace Sys2Proof.Machine

/-! ### Charges -/

/-- A charge changes energy counts only. -/
theorem State.charge_counts (s : State) (asid island n : Nat) :
    s.charge asid island n = { s with ctxs := (s.charge asid island n).ctxs, energy := (s.charge asid island n).energy } ∧
      s.sameCtxs (s.charge asid island n) := by
  unfold State.charge State.sameCtxs
  split
  · exact ⟨rfl, fun _ => rfl⟩
  · split
    · rename_i c h
      refine ⟨rfl, fun a => ?_⟩
      simp only [Tbl.at?_put]
      split
      · subst_vars; simp [h, Ctx.uncharged, Ctx.charge]
      · rfl
    · exact ⟨rfl, fun _ => rfl⟩

theorem State.chargeGang_counts (s : State) (u n : Nat) :
    s.chargeGang u n = { s with ctxs := (s.chargeGang u n).ctxs, energy := (s.chargeGang u n).energy } ∧ s.sameCtxs (s.chargeGang u n) :=
  s.charge_counts _ _ _

@[simp] theorem State.charge_gangs (s : State) (a i n : Nat) : (s.charge a i n).gangs = s.gangs := by rw [(s.charge_counts a i n).1]
@[simp] theorem State.chargeGang_gangs (s : State) (u n : Nat) : (s.chargeGang u n).gangs = s.gangs := s.charge_gangs _ _ _

/-! ### The relation `onlyGang` -/

theorem State.onlyGang.refl (s : State) (u : Nat) : s.onlyGang s u := ⟨rfl, fun _ _ => rfl, fun _ => rfl⟩

theorem State.onlyGang.trans {s t r : State} {u : Nat} (h : s.onlyGang t u) (k : t.onlyGang r u) : s.onlyGang r u := by
  obtain ⟨h1, h2, h3⟩ := h
  obtain ⟨k1, k2, k3⟩ := k
  refine ⟨?_, fun v hv => (k2 v hv).trans (h2 v hv), fun a => (k3 a).trans (h3 a)⟩
  rw [k1, h1]

theorem State.onlyGang_setGang (s : State) (u : Nat) (g : Gang) : s.onlyGang (s.setGang u g) u :=
  ⟨rfl, fun v hv => by simp [Tbl.at?_put, hv], fun _ => rfl⟩

theorem State.onlyGang_modGang (s : State) (u : Nat) (f : Gang → Gang) : s.onlyGang (s.modGang u f) u :=
  ⟨rfl, fun v hv => by simp [Tbl.at?_upd_other _ _ hv], fun _ => rfl⟩

theorem State.onlyGang_charge (s : State) (u a i n : Nat) : s.onlyGang (s.charge a i n) u := by
  obtain ⟨h, k⟩ := s.charge_counts a i n
  exact ⟨by rw [h], fun v _ => by simp, k⟩

theorem State.onlyGang_chargeGang (s : State) (u n : Nat) : s.onlyGang (s.chargeGang u n) u := s.onlyGang_charge _ _ _ _

/-! ### A scalar word that completes -/

/-- What the gang of a completed word is. -/
def Gang.done (g : Gang) (spc : Word64) : Gang :=
  { g with spc := spc, wait := .none, skipS := false, stepping := if g.stepping = 1 ∧ g.stepIn = g.pframe.isSome then 2 else g.stepping }

/-- A word that completes changes its gang and energy counts only. -/
theorem State.retire_spec (s : State) (u : Nat) (spc : Word64) {g : Gang} (h : Tbl.at? s.gangs u = some g) :
    Tbl.at? (s.retire u spc).gangs u = some (g.done spc) ∧ s.onlyGang (s.retire u spc) u := by
  unfold State.retire
  refine ⟨?_, (s.onlyGang_chargeGang _ _).trans (State.onlyGang_modGang _ _ _)⟩
  rw [State.modGang_gangs, State.chargeGang_gangs, Tbl.at?_upd_self h]
  simp [Gang.done]

theorem State.advance_spec (s : State) (u : Nat) {g : Gang} (h : Tbl.at? s.gangs u = some g) :
    Tbl.at? (s.advance u).gangs u = some (g.done (g.spc + 4)) ∧ s.onlyGang (s.advance u) u := by
  have e : (s.gang u).spc = g.spc := by simp [State.gang, Tbl.atD, h]
  rw [State.advance, e]
  exact s.retire_spec u _ h

/-! ### Scalar registers -/

theorem Gang.setS_sreg (g : Gang) (d r : SReg) (v : Word64) : (g.setS d v).sreg r = g.withReg d v r := by
  unfold Gang.setS Gang.withReg
  split
  · subst_vars; simp
  · rename_i h
    by_cases hr : r = d
    · subst hr; rw [if_pos ⟨rfl, h⟩, Gang.sreg, if_neg h]; simp
    · have : r.toNat ≠ d.toNat := fun e => hr (BitVec.eq_of_toNat_eq e)
      simp [Gang.sreg, hr, Tbl.atD_put, this]

theorem Gang.setS_eq (g : Gang) (d : SReg) (v : Word64) : g.setS d v = { g with s := (g.setS d v).s } := by
  unfold Gang.setS
  split <;> rfl

@[simp] theorem Gang.done_sreg (g : Gang) (spc : Word64) (r : SReg) : (g.done spc).sreg r = g.sreg r := rfl

/-- The gang after a register is written and the word completes. -/
theorem Gang.moved_setS (g : Gang) (d : SReg) (v spc : Word64) : g.moved ((g.setS d v).done spc) spc (g.withReg d v) := by
  refine ⟨?_, fun r => by simp [Gang.setS_sreg]⟩
  rw [Gang.setS_eq]
  rfl

theorem Gang.moved_done (g : Gang) (spc : Word64) : g.moved (g.done spc) spc g.sreg := ⟨rfl, fun _ => rfl⟩

/-- A register word completes. -/
theorem State.setReg_completes {s : State} {g : Gang} (h : s.issuing g) (i : Instr) (d : SReg) (v : Gang → Word64)
    (e : exec i s = s.setReg d v) : s.completes i g (g.spc + 4) (g.withReg d (v g)) := by
  have h' : Tbl.at? (s.setGang s.cur (g.setS d (v g))).gangs s.cur = some (g.setS d (v g)) := by simp
  obtain ⟨a, b⟩ := State.advance_spec _ _ h'
  refine ⟨_, _, ?_, a, ?_, (s.onlyGang_setGang _ _).trans b⟩
  · rw [e, State.setReg, State.issue, h]
  · have : (g.setS d (v g)).spc = g.spc := by unfold Gang.setS; split <;> rfl
    rw [this]
    exact g.moved_setS d (v g) _

/-- A word that only moves SPC completes. -/
theorem State.retire_completes {s : State} {g : Gang} (h : s.issuing g) (i : Instr) (spc : Word64)
    (e : exec i s = .next (s.retire s.cur spc)) : s.completes i g spc g.sreg := by
  obtain ⟨a, b⟩ := s.retire_spec s.cur spc h
  exact ⟨_, _, e, a, g.moved_done spc, b⟩

theorem State.issue_next {s : State} {g : Gang} (h : s.issuing g) (f : Nat → Gang → State) : s.issue f = .next (f s.cur g) := by
  rw [State.issue, h]

theorem State.gang_of {s : State} {u : Nat} {g : Gang} (h : Tbl.at? s.gangs u = some g) : s.gang u = g := by
  simp [State.gang, Tbl.atD, h]

end Sys2Proof.Machine
end

