-- ==== Sys2Proof/Laws/PerInstr.lean ====
section
/-!
SUPPORT. The family `Encodes`: an instruction that has words has one of 32 bits or one of 96, and its encoding is a number of that many bits (R3, R76,
R80).
-/

open Sys2Proof.Machine

namespace Sys2Proof.Laws.Encodes

/-- The encoding of an instruction fits its word. -/
def Statement (i : Instr) : Prop := ∀ n w, encode i = some (n, w) → (n = 32 ∨ n = 96) ∧ w < 2 ^ n

theorem none_of {i : Instr} (h : encode i = none) : Statement i := fun n w e => by
  rw [h] at e
  cases e

theorem scalar_of {i : Instr} {v : Nat} (h : encode i = some (32, v)) (b : v < 2 ^ 32) : Statement i := fun n w e => by
  rw [h] at e
  cases e
  exact ⟨.inl rfl, b⟩

theorem special_lt (x : Special) : x.code < 256 := by cases x <;> decide
theorem ty_lt (x : Ty) : x.code < 16 := by cases x <;> decide
theorem rm_lt (x : Rm) : x.code < 8 := by cases x <;> decide
theorem sm_lt (x : Sm) : x.code < 4 := by cases x <;> decide
theorem dm_lt (x : Dm) : x.code < 4 := by cases x <;> decide

theorem src_lt (x : Src) : x.code < 1024 := by
  cases x with
  | sp y => have := special_lt y; simp only [Src.code]; omega
  | _ => simp only [Src.code]; omega

theorem dst_lt (x : Dst) : x.code < 8192 := by
  cases x <;> simp only [Dst.code] <;> omega

theorem b2n_lt (b : Bool) : b2n b < 2 := by cases b <;> decide

theorem lane_lt (opc : Nat) (o : LaneOp) (h : opc < 256) : encodeLane opc o < 2 ^ 96 := by
  have := ty_lt o.ty
  have := dst_lt o.dst
  have := src_lt o.sa
  have := src_lt o.sb
  have := src_lt o.sc
  have := rm_lt o.rm
  have := sm_lt o.sm
  have := dm_lt o.dm
  have := b2n_lt o.neg
  have := b2n_lt o.yld
  simp only [encodeLane]
  omega

theorem lane_of {i : Instr} {opc : Nat} {o : LaneOp} (h : encode i = some (96, encodeLane opc o)) (b : opc < 256) : Statement i := fun n w e => by
  rw [h] at e
  cases e
  exact ⟨.inr rfl, lane_lt opc o b⟩

theorem sadd (d : SReg) (a : SReg) (b : SReg) : Statement (.sadd d a b) := scalar_of rfl (by simp only [pk]; omega)
theorem ssub (d : SReg) (a : SReg) (b : SReg) : Statement (.ssub d a b) := scalar_of rfl (by simp only [pk]; omega)
theorem smul (d : SReg) (a : SReg) (b : SReg) : Statement (.smul d a b) := scalar_of rfl (by simp only [pk]; omega)
theorem smulh (d : SReg) (a : SReg) (b : SReg) : Statement (.smulh d a b) := scalar_of rfl (by simp only [pk]; omega)
theorem smulhn (d : SReg) (a : SReg) (b : SReg) : Statement (.smulhn d a b) := scalar_of rfl (by simp only [pk]; omega)
theorem sdiv (d : SReg) (a : SReg) (b : SReg) : Statement (.sdiv d a b) := scalar_of rfl (by simp only [pk]; omega)
theorem sdivn (d : SReg) (a : SReg) (b : SReg) : Statement (.sdivn d a b) := scalar_of rfl (by simp only [pk]; omega)
theorem srem (d : SReg) (a : SReg) (b : SReg) : Statement (.srem d a b) := scalar_of rfl (by simp only [pk]; omega)
theorem sremn (d : SReg) (a : SReg) (b : SReg) : Statement (.sremn d a b) := scalar_of rfl (by simp only [pk]; omega)
theorem sand (d : SReg) (a : SReg) (b : SReg) : Statement (.sand d a b) := scalar_of rfl (by simp only [pk]; omega)
theorem sor (d : SReg) (a : SReg) (b : SReg) : Statement (.sor d a b) := scalar_of rfl (by simp only [pk]; omega)
theorem sxor (d : SReg) (a : SReg) (b : SReg) : Statement (.sxor d a b) := scalar_of rfl (by simp only [pk]; omega)
theorem sshl (d : SReg) (a : SReg) (b : SReg) : Statement (.sshl d a b) := scalar_of rfl (by simp only [pk]; omega)
theorem sshr (d : SReg) (a : SReg) (b : SReg) : Statement (.sshr d a b) := scalar_of rfl (by simp only [pk]; omega)
theorem ssra (d : SReg) (a : SReg) (b : SReg) : Statement (.ssra d a b) := scalar_of rfl (by simp only [pk]; omega)
theorem smin (d : SReg) (a : SReg) (b : SReg) : Statement (.smin d a b) := scalar_of rfl (by simp only [pk]; omega)
theorem sminn (d : SReg) (a : SReg) (b : SReg) : Statement (.sminn d a b) := scalar_of rfl (by simp only [pk]; omega)
theorem smax (d : SReg) (a : SReg) (b : SReg) : Statement (.smax d a b) := scalar_of rfl (by simp only [pk]; omega)
theorem smaxn (d : SReg) (a : SReg) (b : SReg) : Statement (.smaxn d a b) := scalar_of rfl (by simp only [pk]; omega)
theorem sslt (d : SReg) (a : SReg) (b : SReg) : Statement (.sslt d a b) := scalar_of rfl (by simp only [pk]; omega)
theorem ssltn (d : SReg) (a : SReg) (b : SReg) : Statement (.ssltn d a b) := scalar_of rfl (by simp only [pk]; omega)
theorem seq (d : SReg) (a : SReg) (b : SReg) : Statement (.seq d a b) := scalar_of rfl (by simp only [pk]; omega)
theorem spopc (d : SReg) (a : SReg) : Statement (.spopc d a) := scalar_of rfl (by simp only [pk]; omega)
theorem sclz (d : SReg) (a : SReg) : Statement (.sclz d a) := scalar_of rfl (by simp only [pk]; omega)
theorem slea (d : SReg) (a : SReg) (b : SReg) (k : BitVec 2) : Statement (.slea d a b k) := scalar_of rfl (by simp only [pk]; omega)
theorem saddi (d : SReg) (a : SReg) (i : BitVec 13) : Statement (.saddi d a i) := scalar_of rfl (by simp only [pk]; omega)
theorem sandi (d : SReg) (a : SReg) (i : BitVec 13) : Statement (.sandi d a i) := scalar_of rfl (by simp only [pk]; omega)
theorem sori (d : SReg) (a : SReg) (i : BitVec 13) : Statement (.sori d a i) := scalar_of rfl (by simp only [pk]; omega)
theorem sxori (d : SReg) (a : SReg) (i : BitVec 13) : Statement (.sxori d a i) := scalar_of rfl (by simp only [pk]; omega)
theorem sshli (d : SReg) (a : SReg) (n : BitVec 6) : Statement (.sshli d a n) := scalar_of rfl (by simp only [pk]; omega)
theorem sshri (d : SReg) (a : SReg) (n : BitVec 6) : Statement (.sshri d a n) := scalar_of rfl (by simp only [pk]; omega)
theorem ssrai (d : SReg) (a : SReg) (n : BitVec 6) : Statement (.ssrai d a n) := scalar_of rfl (by simp only [pk]; omega)
theorem sslti (d : SReg) (a : SReg) (i : BitVec 13) : Statement (.sslti d a i) := scalar_of rfl (by simp only [pk]; omega)
theorem ssltni (d : SReg) (a : SReg) (i : BitVec 13) : Statement (.ssltni d a i) := scalar_of rfl (by simp only [pk]; omega)
theorem sli (d : SReg) (i : BitVec 19) : Statement (.sli d i) := scalar_of rfl (by simp only [pk]; omega)
theorem slx (d : SReg) (i : BitVec 19) : Statement (.slx d i) := scalar_of rfl (by simp only [pk]; omega)
theorem smuli (d : SReg) (a : SReg) (i : BitVec 13) : Statement (.smuli d a i) := scalar_of rfl (by simp only [pk]; omega)
theorem sbeq (a : SReg) (b : SReg) (i : BitVec 13) : Statement (.sbeq a b i) := scalar_of rfl (by simp only [pk]; omega)
theorem sbne (a : SReg) (b : SReg) (i : BitVec 13) : Statement (.sbne a b i) := scalar_of rfl (by simp only [pk]; omega)
theorem sblt (a : SReg) (b : SReg) (i : BitVec 13) : Statement (.sblt a b i) := scalar_of rfl (by simp only [pk]; omega)
theorem sbge (a : SReg) (b : SReg) (i : BitVec 13) : Statement (.sbge a b i) := scalar_of rfl (by simp only [pk]; omega)
theorem sbltn (a : SReg) (b : SReg) (i : BitVec 13) : Statement (.sbltn a b i) := scalar_of rfl (by simp only [pk]; omega)
theorem sbgen (a : SReg) (b : SReg) (i : BitVec 13) : Statement (.sbgen a b i) := scalar_of rfl (by simp only [pk]; omega)
theorem sloop (a : SReg) (i : BitVec 13) : Statement (.sloop a i) := scalar_of rfl (by simp only [pk]; omega)
theorem sj (i : BitVec 25) : Statement (.sj i) := scalar_of rfl (by simp only [pk]; omega)
theorem sjal (i : BitVec 25) : Statement (.sjal i) := scalar_of rfl (by simp only [pk]; omega)
theorem sjr (a : SReg) (i : BitVec 13) : Statement (.sjr a i) := scalar_of rfl (by simp only [pk]; omega)
theorem sjalr (d : SReg) (a : SReg) (i : BitVec 13) : Statement (.sjalr d a i) := scalar_of rfl (by simp only [pk]; omega)
theorem sldb (d : SReg) (a : SReg) (i : BitVec 13) : Statement (.sldb d a i) := scalar_of rfl (by simp only [pk]; omega)
theorem sldh (d : SReg) (a : SReg) (i : BitVec 13) : Statement (.sldh d a i) := scalar_of rfl (by simp only [pk]; omega)
theorem sldw (d : SReg) (a : SReg) (i : BitVec 13) : Statement (.sldw d a i) := scalar_of rfl (by simp only [pk]; omega)
theorem sldd (d : SReg) (a : SReg) (i : BitVec 13) : Statement (.sldd d a i) := scalar_of rfl (by simp only [pk]; omega)
theorem sldbx (d : SReg) (a : SReg) (i : BitVec 13) : Statement (.sldbx d a i) := scalar_of rfl (by simp only [pk]; omega)
theorem sldhx (d : SReg) (a : SReg) (i : BitVec 13) : Statement (.sldhx d a i) := scalar_of rfl (by simp only [pk]; omega)
theorem sldwx (d : SReg) (a : SReg) (i : BitVec 13) : Statement (.sldwx d a i) := scalar_of rfl (by simp only [pk]; omega)
theorem sldk (d : SReg) (a : SReg) (i : BitVec 13) : Statement (.sldk d a i) := scalar_of rfl (by simp only [pk]; omega)
theorem sstb (b : SReg) (a : SReg) (i : BitVec 13) : Statement (.sstb b a i) := scalar_of rfl (by simp only [pk]; omega)
theorem ssth (b : SReg) (a : SReg) (i : BitVec 13) : Statement (.ssth b a i) := scalar_of rfl (by simp only [pk]; omega)
theorem sstw (b : SReg) (a : SReg) (i : BitVec 13) : Statement (.sstw b a i) := scalar_of rfl (by simp only [pk]; omega)
theorem sstd (b : SReg) (a : SReg) (i : BitVec 13) : Statement (.sstd b a i) := scalar_of rfl (by simp only [pk]; omega)
theorem slds (d : SReg) (a : SReg) (i : BitVec 13) : Statement (.slds d a i) := scalar_of rfl (by simp only [pk]; omega)
theorem ssts (b : SReg) (a : SReg) (i : BitVec 13) : Statement (.ssts b a i) := scalar_of rfl (by simp only [pk]; omega)
theorem lq (a : SReg) (i : BitVec 13) : Statement (.lq a i) := scalar_of rfl (by simp only [pk]; omega)
theorem lqw : Statement (.lqw) := scalar_of rfl (by decide)
theorem sgetl (d : SReg) (r : BitVec 8) (l : BitVec 5) : Statement (.sgetl d r l) := scalar_of rfl (by simp only [pk]; omega)
theorem bcopy (n : BitVec 6) (a : SReg) (b : SReg) (x : BitVec 3) (y : BitVec 3) : Statement (.bcopy n a b x y) := scalar_of rfl (by simp only [pk]; omega)
theorem bred (n : BitVec 6) (a : SReg) (b : SReg) (x : BitVec 3) (o : BitVec 4) : Statement (.bred n a b x o) := scalar_of rfl (by simp only [pk]; omega)
theorem ttq (a : SReg) (i : BitVec 13) : Statement (.ttq a i) := scalar_of rfl (by simp only [pk]; omega)
theorem tagx (d : SReg) (n : BitVec 6) : Statement (.tagx d n) := scalar_of rfl (by simp only [pk]; omega)
theorem ctset (a : SReg) (i : BitVec 13) : Statement (.ctset a i) := scalar_of rfl (by simp only [pk]; omega)
theorem shadow (d : SReg) (a : SReg) (b : SReg) : Statement (.shadow d a b) := scalar_of rfl (by simp only [pk]; omega)
theorem publish (a : SReg) : Statement (.publish a) := scalar_of rfl (by simp only [pk]; omega)
theorem trchk (d : SReg) (a : SReg) (i : BitVec 13) : Statement (.trchk d a i) := scalar_of rfl (by simp only [pk]; omega)
theorem bar (l : BitVec 3) (x : BitVec 4) : Statement (.bar l x) := scalar_of rfl (by simp only [pk]; omega)
theorem bara (l : BitVec 3) (x : BitVec 4) : Statement (.bara l x) := scalar_of rfl (by simp only [pk]; omega)
theorem barw (l : BitVec 3) (x : BitVec 4) : Statement (.barw l x) := scalar_of rfl (by simp only [pk]; omega)
theorem waitall (a : SReg) : Statement (.waitall a) := scalar_of rfl (by simp only [pk]; omega)
theorem waitany (d : SReg) (a : SReg) : Statement (.waitany d a) := scalar_of rfl (by simp only [pk]; omega)
theorem tagff (d : SReg) (a : SReg) : Statement (.tagff d a) := scalar_of rfl (by simp only [pk]; omega)
theorem tagclr (a : SReg) : Statement (.tagclr a) := scalar_of rfl (by simp only [pk]; omega)
theorem fence (s : BitVec 3) : Statement (.fence s) := scalar_of rfl (by simp only [pk]; omega)
theorem acq (d : SReg) (a : SReg) (s : BitVec 3) : Statement (.acq d a s) := scalar_of rfl (by simp only [pk]; omega)
theorem rel (a : SReg) (b : SReg) (s : BitVec 3) : Statement (.rel a b s) := scalar_of rfl (by simp only [pk]; omega)
theorem bind (c : SReg) (a : SReg) (b : SReg) (s : BitVec 3) : Statement (.bind c a b s) := scalar_of rfl (by simp only [pk]; omega)
theorem unbind (a : SReg) : Statement (.unbind a) := scalar_of rfl (by simp only [pk]; omega)
theorem evset (e : BitVec 8) : Statement (.evset e) := scalar_of rfl (by simp only [pk]; omega)
theorem evwait (e : BitVec 8) : Statement (.evwait e) := scalar_of rfl (by simp only [pk]; omega)
theorem launch (d : SReg) (a : SReg) (q : BitVec 3) : Statement (.launch d a q) := scalar_of rfl (by simp only [pk]; omega)
theorem freeze : Statement (.freeze) := scalar_of rfl (by decide)
theorem stamp (a : SReg) : Statement (.stamp a) := scalar_of rfl (by simp only [pk]; omega)
theorem stt (b : SReg) (a : SReg) (i : BitVec 13) : Statement (.stt b a i) := scalar_of rfl (by simp only [pk]; omega)
theorem yield : Statement (.yield) := scalar_of rfl (by decide)
theorem exit : Statement (.exit) := scalar_of rfl (by decide)
theorem trap (i : BitVec 13) : Statement (.trap i) := scalar_of rfl (by simp only [pk]; omega)
theorem rowpinP (n : BitVec 3) (a : SReg) (m : BitVec 8) : Statement (.rowpinP n a m) := scalar_of rfl (by simp only [pk]; omega)
theorem rowpinV (n : BitVec 3) (a : SReg) (m : BitVec 8) : Statement (.rowpinV n a m) := scalar_of rfl (by simp only [pk]; omega)
theorem rowrel (n : BitVec 3) : Statement (.rowrel n) := scalar_of rfl (by simp only [pk]; omega)
theorem rowq (d : SReg) (n : BitVec 3) : Statement (.rowq d n) := scalar_of rfl (by simp only [pk]; omega)
theorem opreq (d : SReg) (n : BitVec 4) : Statement (.opreq d n) := scalar_of rfl (by simp only [pk]; omega)
theorem ebkt (d : SReg) : Statement (.ebkt d) := scalar_of rfl (by simp only [pk]; omega)
theorem tmark (v : BitVec 12) : Statement (.tmark v) := scalar_of rfl (by simp only [pk]; omega)
theorem pdone (a : SReg) : Statement (.pdone a) := scalar_of rfl (by simp only [pk]; omega)
theorem rngacq (a : SReg) (b : SReg) : Statement (.rngacq a b) := scalar_of rfl (by simp only [pk]; omega)
theorem rngrel (a : SReg) (b : SReg) : Statement (.rngrel a b) := scalar_of rfl (by simp only [pk]; omega)
theorem drowse (e : BitVec 1) : Statement (.drowse e) := scalar_of rfl (by simp only [pk]; omega)
theorem csrr (d : SReg) (c : BitVec 12) : Statement (.csrr d c) := scalar_of rfl (by simp only [pk]; omega)
theorem csrw (b : SReg) (c : BitVec 12) : Statement (.csrw b c) := scalar_of rfl (by simp only [pk]; omega)
theorem segw (a : SReg) (b : SReg) (s : BitVec 3) : Statement (.segw a b s) := scalar_of rfl (by simp only [pk]; omega)
theorem tret : Statement (.tret) := scalar_of rfl (by decide)
theorem mapf (d : SReg) (a : SReg) : Statement (.mapf d a) := scalar_of rfl (by simp only [pk]; omega)
theorem fltpark (d : SReg) : Statement (.fltpark d) := scalar_of rfl (by simp only [pk]; omega)
theorem fltret : Statement (.fltret) := scalar_of rfl (by decide)
theorem tlbinv (a : SReg) (k : BitVec 2) : Statement (.tlbinv a k) := scalar_of rfl (by simp only [pk]; omega)
theorem poolq (d : SReg) : Statement (.poolq d) := scalar_of rfl (by simp only [pk]; omega)
theorem cflush (a : SReg) (b : SReg) (s : BitVec 3) : Statement (.cflush a b s) := scalar_of rfl (by simp only [pk]; omega)
theorem cinv (a : SReg) (b : SReg) (s : BitVec 3) : Statement (.cinv a b s) := scalar_of rfl (by simp only [pk]; omega)
theorem sbrk (x : BitVec 25) : Statement (.sbrk x) := scalar_of rfl (by simp only [pk]; omega)
theorem vadd (w : LaneOp) : Statement (.vadd w) := lane_of rfl (by decide)
theorem vsub (w : LaneOp) : Statement (.vsub w) := lane_of rfl (by decide)
theorem vmul (w : LaneOp) : Statement (.vmul w) := lane_of rfl (by decide)
theorem vmulh (w : LaneOp) : Statement (.vmulh w) := lane_of rfl (by decide)
theorem vmad (w : LaneOp) : Statement (.vmad w) := lane_of rfl (by decide)
theorem vdiv (w : LaneOp) : Statement (.vdiv w) := lane_of rfl (by decide)
theorem vrem (w : LaneOp) : Statement (.vrem w) := lane_of rfl (by decide)
theorem vabs (w : LaneOp) : Statement (.vabs w) := lane_of rfl (by decide)
theorem vneg (w : LaneOp) : Statement (.vneg w) := lane_of rfl (by decide)
theorem vmin (w : LaneOp) : Statement (.vmin w) := lane_of rfl (by decide)
theorem vmax (w : LaneOp) : Statement (.vmax w) := lane_of rfl (by decide)
theorem vand (w : LaneOp) : Statement (.vand w) := lane_of rfl (by decide)
theorem vor (w : LaneOp) : Statement (.vor w) := lane_of rfl (by decide)
theorem vxor (w : LaneOp) : Statement (.vxor w) := lane_of rfl (by decide)
theorem vnot (w : LaneOp) : Statement (.vnot w) := lane_of rfl (by decide)
theorem vshl (w : LaneOp) : Statement (.vshl w) := lane_of rfl (by decide)
theorem vshr (w : LaneOp) : Statement (.vshr w) := lane_of rfl (by decide)
theorem vsra (w : LaneOp) : Statement (.vsra w) := lane_of rfl (by decide)
theorem vrot (w : LaneOp) : Statement (.vrot w) := lane_of rfl (by decide)
theorem vpopc (w : LaneOp) : Statement (.vpopc w) := lane_of rfl (by decide)
theorem vclz (w : LaneOp) : Statement (.vclz w) := lane_of rfl (by decide)
theorem vbfx (w : LaneOp) : Statement (.vbfx w) := lane_of rfl (by decide)
theorem vbfi (w : LaneOp) : Statement (.vbfi w) := lane_of rfl (by decide)
theorem vcmp (w : LaneOp) : Statement (.vcmp w) := lane_of rfl (by decide)
theorem vsel (w : LaneOp) : Statement (.vsel w) := lane_of rfl (by decide)
theorem vadc (w : LaneOp) : Statement (.vadc w) := lane_of rfl (by decide)
theorem vsad (w : LaneOp) : Statement (.vsad w) := lane_of rfl (by decide)
theorem vdot4 (w : LaneOp) : Statement (.vdot4 w) := lane_of rfl (by decide)
theorem fadd (w : LaneOp) : Statement (.fadd w) := lane_of rfl (by decide)
theorem fsub (w : LaneOp) : Statement (.fsub w) := lane_of rfl (by decide)
theorem fmul (w : LaneOp) : Statement (.fmul w) := lane_of rfl (by decide)
theorem ffma (w : LaneOp) : Statement (.ffma w) := lane_of rfl (by decide)
theorem fmin (w : LaneOp) : Statement (.fmin w) := lane_of rfl (by decide)
theorem fmax (w : LaneOp) : Statement (.fmax w) := lane_of rfl (by decide)
theorem fabs (w : LaneOp) : Statement (.fabs w) := lane_of rfl (by decide)
theorem fneg (w : LaneOp) : Statement (.fneg w) := lane_of rfl (by decide)
theorem fdiv (w : LaneOp) : Statement (.fdiv w) := lane_of rfl (by decide)
theorem fsqrt (w : LaneOp) : Statement (.fsqrt w) := lane_of rfl (by decide)
theorem ftrn (w : LaneOp) : Statement (.ftrn w) := lane_of rfl (by decide)
theorem fcmp (w : LaneOp) : Statement (.fcmp w) := lane_of rfl (by decide)
theorem fclass (w : LaneOp) : Statement (.fclass w) := lane_of rfl (by decide)
theorem fscale (w : LaneOp) : Statement (.fscale w) := lane_of rfl (by decide)
theorem frnd (w : LaneOp) : Statement (.frnd w) := lane_of rfl (by decide)
theorem fdot2 (w : LaneOp) : Statement (.fdot2 w) := lane_of rfl (by decide)
theorem cvt (w : LaneOp) : Statement (.cvt w) := lane_of rfl (by decide)
theorem cvtb (w : LaneOp) : Statement (.cvtb w) := lane_of rfl (by decide)
theorem cvtx (w : LaneOp) : Statement (.cvtx w) := lane_of rfl (by decide)
theorem vamax (w : LaneOp) : Statement (.vamax w) := lane_of rfl (by decide)
theorem vmov (w : LaneOp) : Statement (.vmov w) := lane_of rfl (by decide)
theorem vperm (w : LaneOp) : Statement (.vperm w) := lane_of rfl (by decide)
theorem vbcast (w : LaneOp) : Statement (.vbcast w) := lane_of rfl (by decide)
theorem vreds (w : LaneOp) : Statement (.vreds w) := lane_of rfl (by decide)
theorem vscan (w : LaneOp) : Statement (.vscan w) := lane_of rfl (by decide)
theorem vvote (w : LaneOp) : Statement (.vvote w) := lane_of rfl (by decide)
theorem vpopSet (w : LaneOp) : Statement (.vpopSet w) := lane_of rfl (by decide)
theorem vpopGet (w : LaneOp) : Statement (.vpopGet w) := lane_of rfl (by decide)
theorem vpopPut (w : LaneOp) : Statement (.vpopPut w) := lane_of rfl (by decide)
theorem lbra (w : LaneOp) : Statement (.lbra w) := lane_of rfl (by decide)
theorem ljmp (w : LaneOp) : Statement (.ljmp w) := lane_of rfl (by decide)
theorem lcall (w : LaneOp) : Statement (.lcall w) := lane_of rfl (by decide)
theorem lret (w : LaneOp) : Statement (.lret w) := lane_of rfl (by decide)
theorem lif (w : LaneOp) : Statement (.lif w) := lane_of rfl (by decide)
theorem lelse (w : LaneOp) : Statement (.lelse w) := lane_of rfl (by decide)
theorem lendif (w : LaneOp) : Statement (.lendif w) := lane_of rfl (by decide)
theorem lregang (w : LaneOp) : Statement (.lregang w) := lane_of rfl (by decide)
theorem lend (w : LaneOp) : Statement (.lend w) := lane_of rfl (by decide)
theorem lexit (w : LaneOp) : Statement (.lexit w) := lane_of rfl (by decide)
theorem lyield (w : LaneOp) : Statement (.lyield w) := lane_of rfl (by decide)
theorem lbarg (w : LaneOp) : Statement (.lbarg w) := lane_of rfl (by decide)
theorem lnop (w : LaneOp) : Statement (.lnop w) := lane_of rfl (by decide)
theorem ldv (w : LaneOp) : Statement (.ldv w) := lane_of rfl (by decide)
theorem stv (w : LaneOp) : Statement (.stv w) := lane_of rfl (by decide)
theorem ldpk (w : LaneOp) : Statement (.ldpk w) := lane_of rfl (by decide)
theorem stpk (w : LaneOp) : Statement (.stpk w) := lane_of rfl (by decide)
theorem stnt (w : LaneOp) : Statement (.stnt w) := lane_of rfl (by decide)
theorem pref (w : LaneOp) : Statement (.pref w) := lane_of rfl (by decide)
theorem atom (w : LaneOp) : Statement (.atom w) := lane_of rfl (by decide)
theorem atomn (w : LaneOp) : Statement (.atomn w) := lane_of rfl (by decide)
theorem redmc (w : LaneOp) : Statement (.redmc w) := lane_of rfl (by decide)
theorem rowld (w : LaneOp) : Statement (.rowld w) := lane_of rfl (by decide)
theorem rowst (w : LaneOp) : Statement (.rowst w) := lane_of rfl (by decide)
theorem accrd (w : LaneOp) : Statement (.accrd w) := lane_of rfl (by decide)
theorem accwr (w : LaneOp) : Statement (.accwr w) := lane_of rfl (by decide)
theorem ldmap (w : LaneOp) : Statement (.ldmap w) := lane_of rfl (by decide)
theorem stmap (w : LaneOp) : Statement (.stmap w) := lane_of rfl (by decide)
theorem vfence (w : LaneOp) : Statement (.vfence w) := lane_of rfl (by decide)
theorem lwaitt (w : LaneOp) : Statement (.lwaitt w) := lane_of rfl (by decide)
theorem ltmark (w : LaneOp) : Statement (.ltmark w) := lane_of rfl (by decide)
theorem illegalEncoding : Statement (.illegalEncoding) := none_of rfl
theorem scalarFetchFault : Statement (.scalarFetchFault) := none_of rfl
theorem readingPeriodic (asid : Nat) : Statement (.readingPeriodic asid) := none_of rfl
theorem requestTimeout (tag : Nat) : Statement (.requestTimeout tag) := none_of rfl
theorem traceDrain (core asid : Nat) : Statement (.traceDrain core asid) := none_of rfl
theorem traceIdleFlush (core asid : Nat) : Statement (.traceIdleFlush core asid) := none_of rfl
theorem laneBlockStart (g : Nat) : Statement (.laneBlockStart g) := none_of rfl
theorem gangRetire (g : Nat) : Statement (.gangRetire g) := none_of rfl
theorem teamExit (t : Nat) : Statement (.teamExit t) := none_of rfl
theorem deferredTaskfmt (t : Nat) : Statement (.deferredTaskfmt t) := none_of rfl
theorem taskStart (r : Nat) : Statement (.taskStart r) := none_of rfl
theorem taskStep (t k : Nat) : Statement (.taskStep t k) := none_of rfl
theorem mxp (t k : Nat) : Statement (.mxp t k) := none_of rfl
theorem mxb (t k : Nat) : Statement (.mxb t k) := none_of rfl
theorem scacc (t k : Nat) : Statement (.scacc t k) := none_of rfl
theorem accz (t k : Nat) : Statement (.accz t k) := none_of rfl
theorem acccv (t k : Nat) : Statement (.acccv t k) := none_of rfl
theorem accmov (t k : Nat) : Statement (.accmov t k) := none_of rfl
theorem copyChunk (r e : Nat) : Statement (.copyChunk r e) := none_of rfl
theorem rowOpenComplete (t n : Nat) : Statement (.rowOpenComplete t n) := none_of rfl
theorem itemCreate (g : Nat) : Statement (.itemCreate g) := none_of rfl
theorem preemptDelivery (g : Nat) : Statement (.preemptDelivery g) := none_of rfl
theorem pbleftExpiry (g : Nat) : Statement (.pbleftExpiry g) := none_of rfl
theorem clusterSaved (c : Nat) : Statement (.clusterSaved c) := none_of rfl
theorem swapBegin (c : Nat) : Statement (.swapBegin c) := none_of rfl
theorem swapSaveComplete (c : Nat) : Statement (.swapSaveComplete c) := none_of rfl
theorem restoreComplete (c : Nat) : Statement (.restoreComplete c) := none_of rfl
theorem clusterPlace (p : Nat) : Statement (.clusterPlace p) := none_of rfl
theorem hostRecordRead (asid q : Nat) : Statement (.hostRecordRead asid q) := none_of rfl
theorem faultRecordPost (asid : Nat) : Statement (.faultRecordPost asid) := none_of rfl
theorem tick (m : List Sample) : Statement (.tick m) := none_of rfl
theorem epochStart (p : Nat) : Statement (.epochStart p) := none_of rfl
theorem sliceEnd (asid : Nat) : Statement (.sliceEnd asid) := none_of rfl
theorem ageStep (asid q : Nat) : Statement (.ageStep asid q) := none_of rfl
theorem frequencySwitch (r : Nat) : Statement (.frequencySwitch r) := none_of rfl
theorem voltageSlewEnd (r : Nat) : Statement (.voltageSlewEnd r) := none_of rfl
theorem drowseRailMove (r : Nat) : Statement (.drowseRailMove r) := none_of rfl
theorem trimStep (r : Nat) : Statement (.trimStep r) := none_of rfl
theorem undervoltHoldoffEnd (r : Nat) : Statement (.undervoltHoldoffEnd r) := none_of rfl
theorem correctableError (x : ErrSite) : Statement (.correctableError x) := none_of rfl
theorem uncorrectableError (x : ErrSite) : Statement (.uncorrectableError x) := none_of rfl
theorem refresh (stack pc : Nat) (bad : List (Nat × Nat)) : Statement (.refresh stack pc bad) := none_of rfl
theorem patrolScrub (stack corrected : Nat) : Statement (.patrolScrub stack corrected) := none_of rfl
theorem thermalStop : Statement .thermalStop := none_of rfl
theorem thermalResume : Statement .thermalResume := none_of rfl
theorem hotSpot (r : Nat) : Statement (.hotSpot r) := none_of rfl
theorem swarmPeriod (demand measured : Nat) : Statement (.swarmPeriod demand measured) := none_of rfl
theorem swarmReport (x : SwarmFlit) : Statement (.swarmReport x) := none_of rfl
theorem swarmReportTimeout (member : Nat) : Statement (.swarmReportTimeout member) := none_of rfl
theorem readRequest (x : Packet) : Statement (.readRequest x) := none_of rfl
theorem write (x : Packet) : Statement (.write x) := none_of rfl
theorem readCompletion (x : Packet) : Statement (.readCompletion x) := none_of rfl
theorem atomic (x : Packet) : Statement (.atomic x) := none_of rfl
theorem writeAcknowledgement (x : Packet) : Statement (.writeAcknowledgement x) := none_of rfl
theorem reduceContribution (x : Packet) : Statement (.reduceContribution x) := none_of rfl
theorem reduceDelivery (x : Packet) : Statement (.reduceDelivery x) := none_of rfl
theorem firmwareMessage (x : Packet) : Statement (.firmwareMessage x) := none_of rfl
theorem portTraining (port : Nat) (far : Option Nat) (gen2ok : Bool) : Statement (.portTraining port far gen2ok) := none_of rfl
theorem cxlMemAccess (x : CxlAccess) : Statement (.cxlMemAccess x) := none_of rfl
theorem qbase (asid q : Nat) (v : Word64) : Statement (.qbase asid q v) := none_of rfl
theorem qcfg (asid q : Nat) (v : Word64) : Statement (.qcfg asid q v) := none_of rfl
theorem qtail (asid q : Nat) (v : Word64) : Statement (.qtail asid q v) := none_of rfl
theorem qstat (asid q : Nat) (v : Word64) : Statement (.qstat asid q v) := none_of rfl
theorem kill (asid : Nat) (v : Word64) : Statement (.kill asid v) := none_of rfl
theorem frhead (asid : Nat) (v : Word64) : Statement (.frhead asid v) := none_of rfl
theorem reply (asid : Nat) (v : Word64) : Statement (.reply asid v) := none_of rfl
theorem mreq (p : Nat) (v : Word64) : Statement (.mreq p v) := none_of rfl
theorem mrhead (p : Nat) (v : Word64) : Statement (.mrhead p v) := none_of rfl
theorem hdmb (p n : Nat) (v : Word64) : Statement (.hdmb p n v) := none_of rfl
theorem hdml (p n : Nat) (v : Word64) : Statement (.hdml p n v) := none_of rfl
theorem pwrctl (p : Nat) (v : Word64) : Statement (.pwrctl p v) := none_of rfl
theorem trctl (asid : Nat) (v : Word64) : Statement (.trctl asid v) := none_of rfl
theorem trhead (asid : Nat) (v : Word64) : Statement (.trhead asid v) := none_of rfl
theorem trlost (asid : Nat) : Statement (.trlost asid) := none_of rfl
theorem trtail (g : Nat) : Statement (.trtail g) := none_of rfl
theorem registerWrite (x : PageReg) (v : Word64) : Statement (.registerWrite x v) := none_of rfl
theorem traceSyncCadence (g : Nat) : Statement (.traceSyncCadence g) := none_of rfl
theorem flr (f : Nat) : Statement (.flr f) := none_of rfl
theorem tdispError (f : Nat) : Statement (.tdispError f) := none_of rfl
theorem perst : Statement (.perst) := none_of rfl
theorem coldReset : Statement (.coldReset) := none_of rfl
theorem warmResetRequest : Statement (.warmResetRequest) := none_of rfl
theorem contextCreate (x : CtxDesc) : Statement (.contextCreate x) := none_of rfl
theorem contextDestroy (asid : Nat) : Statement (.contextDestroy asid) := none_of rfl
theorem workerFirmwareUpdate (p : Nat) (x : FwImage) : Statement (.workerFirmwareUpdate p x) := none_of rfl
theorem regionMove (r p : Nat) : Statement (.regionMove r p) := none_of rfl
theorem spareRegionSwap (r : Nat) (lost : List Nat) : Statement (.spareRegionSwap r lost) := none_of rfl
theorem getVersion (die : Nat) : Statement (.getVersion die) := none_of rfl
theorem getCapabilities (die : Nat) : Statement (.getCapabilities die) := none_of rfl
theorem negotiateAlgorithms (die : Nat) : Statement (.negotiateAlgorithms die) := none_of rfl
theorem getDigests (die : Nat) : Statement (.getDigests die) := none_of rfl
theorem getCertificate (die : Nat) : Statement (.getCertificate die) := none_of rfl
theorem challenge (die : Nat) : Statement (.challenge die) := none_of rfl
theorem getMeasurements (x : MeasRequest) : Statement (.getMeasurements x) := none_of rfl
theorem keyExchange (die : Nat) : Statement (.keyExchange die) := none_of rfl
theorem finish (die : Nat) : Statement (.finish die) := none_of rfl
theorem tdispConfigLocked (f : Nat) : Statement (.tdispConfigLocked f) := none_of rfl
theorem tdispRun (f : Nat) : Statement (.tdispRun f) := none_of rfl
theorem tdispConfigUnlocked (f : Nat) : Statement (.tdispConfigUnlocked f) := none_of rfl
theorem configurationRequest (f : Nat) (write : Bool) : Statement (.configurationRequest f write) := none_of rfl
theorem portFailure (port : Nat) : Statement (.portFailure port) := none_of rfl
theorem multicastReduceGroupSetup (x : GroupDesc) : Statement (.multicastReduceGroupSetup x) := none_of rfl
theorem unknownPacketType (x : Packet) : Statement (.unknownPacketType x) := none_of rfl

end Sys2Proof.Laws.Encodes
end

