-- ==== Sys2Proof/Laws/Trace.lean ====
section
/-!
SUPPORT. What the trace can change: buffers, TRLOST and the trace counters of gangs; and what taking a trap does.
-/

namespace Sys2Proof.Machine

/-- The trace has run: only what `untraced` leaves out has changed, in every gang. -/
def State.tracedTo (s t : State) : Prop :=
  t = { s with gangs := t.gangs, ctxs := t.ctxs, trace := t.trace } ∧
    (∀ v, (Tbl.at? t.gangs v).map Gang.untraced = (Tbl.at? s.gangs v).map Gang.untraced) ∧
    ∀ a, (Tbl.at? t.ctxs a).map Ctx.untraced = (Tbl.at? s.ctxs a).map Ctx.untraced

theorem State.tracedTo.refl (s : State) : s.tracedTo s := ⟨rfl, fun _ => rfl, fun _ => rfl⟩

theorem State.tracedTo.trans {s t r : State} (h : s.tracedTo t) (k : t.tracedTo r) : s.tracedTo r := by
  obtain ⟨h1, h2, h3⟩ := h
  obtain ⟨k1, k2, k3⟩ := k
  exact ⟨by rw [k1, h1], fun v => (k2 v).trans (h2 v), fun a => (k3 a).trans (h3 a)⟩

theorem State.tracedTo_setTraceBuf (s : State) (c a : Nat) (b : TraceBuf) : s.tracedTo (s.setTraceBuf c a b) :=
  ⟨rfl, fun _ => rfl, fun _ => rfl⟩

theorem State.tracedTo_modGang (s : State) (u : Nat) (f : Gang → Gang) (hf : ∀ g, (f g).untraced = g.untraced) :
    s.tracedTo (s.modGang u f) := by
  refine ⟨rfl, fun v => ?_, fun _ => rfl⟩
  simp only [State.modGang_gangs, Tbl.at?_upd]
  split
  · rename_i e
    rw [e]
    cases Tbl.at? s.gangs u <;> simp [hf]
  · rfl

theorem State.tracedTo_modCtx (s : State) (u : Nat) (f : Ctx → Ctx) (hf : ∀ g, (f g).untraced = g.untraced) :
    s.tracedTo (s.modCtx u f) := by
  refine ⟨rfl, fun _ => rfl, fun v => ?_⟩
  simp only [State.modCtx_ctxs, Tbl.at?_upd]
  split
  · rename_i e
    rw [e]
    cases Tbl.at? s.ctxs u <;> simp [hf]
  · rfl

theorem State.tracedTo_foldl {α : Type} (l : List α) (f : State → α → State) (hf : ∀ (s : State) x, s.tracedTo (f s x)) (s : State) :
    s.tracedTo (l.foldl f s) := by
  induction l generalizing s with
  | nil => exact .refl s
  | cons x l ih => exact (hf s x).trans (ih _)

theorem State.tracedTo_traceRoom {s t : State} {c a : Nat} {bs : List Byte} (h : s.traceRoom c a bs = some t) : s.tracedTo t := by
  unfold State.traceRoom at h
  simp only at h
  split at h
  · injection h with h; subst h; exact s.tracedTo_setTraceBuf _ _ _
  · contradiction

theorem State.tracedTo_traceDrop (s : State) (c a : Nat) : s.tracedTo (s.traceDrop c a) :=
  (s.tracedTo_setTraceBuf _ _ _).trans (State.tracedTo_modCtx _ _ _ fun _ => rfl)

theorem State.tracedTo_traceLoss {s t : State} {c a : Nat} (h : s.traceLoss c a = some t) : s.tracedTo t := by
  unfold State.traceLoss at h
  simp only at h
  split at h
  · injection h with h; subst h; exact .refl s
  · obtain ⟨r, hr, rfl⟩ := Option.map_eq_some_iff.1 h
    exact ((State.tracedTo_traceRoom hr).trans (r.tracedTo_setTraceBuf _ _ _)).trans
      (State.tracedTo_foldl _ _ (fun s u => s.tracedTo_modGang u (fun g => { g with tr := { g.tr with due := some 7 } }) fun _ => rfl) _)

theorem State.tracedTo_tracePush (s : State) (c a : Nat) (bs : List Byte) : s.tracedTo (s.tracePush c a bs).1 := by
  unfold State.tracePush
  split
  · rename_i h
    split at h
    · exact State.tracedTo_traceRoom h
    · contradiction
  · exact s.tracedTo_traceDrop _ _

theorem State.tracedTo_tryLoss (s : State) (c a : Nat) : s.tracedTo (s.tryLoss c a) := by
  unfold State.tryLoss
  cases h : s.traceLoss c a with
  | none => exact .refl s
  | some t => exact State.tracedTo_traceLoss h

theorem State.tracedTo_pushSync (s : State) (u reason : Nat) : s.tracedTo (s.pushSync u reason) :=
  (s.tracedTo_tracePush _ _ _).trans (State.tracedTo_modGang _ _ _ fun _ => rfl)

theorem State.tracedTo_emitSync (s : State) (u reason : Nat) : s.tracedTo (s.emitSync u reason) := by
  unfold State.emitSync
  simp only
  split
  · exact (s.tracedTo_tryLoss _ _).trans (State.tracedTo_pushSync _ _ _)
  · exact .refl s

theorem State.tracedTo_emitDue (s : State) (u : Nat) : s.tracedTo (s.emitDue u) := by
  have key : ∀ (l : List Nat) (t : State), t.tracedTo (l.foldl (fun s v => if (s.gang v).tr.due = some 7 then s.pushSync v 7 else s) t) :=
    fun l t => State.tracedTo_foldl l _ (fun s v => by
      split
      · exact s.tracedTo_pushSync _ _
      · exact .refl s) t
  unfold State.emitDue
  simp only
  split
  · exact ((s.tracedTo_tryLoss _ _).trans (key _ _)).trans (State.tracedTo_pushSync _ _ _)
  · exact (s.tracedTo_tryLoss _ _).trans (key _ _)

theorem State.tracedTo_pushPacket (s : State) (u kind : Nat) (p : List Byte) : s.tracedTo (s.pushPacket u kind p) :=
  (s.tracedTo_tracePush _ _ _).trans (State.tracedTo_modGang _ _ _ fun _ => rfl)

theorem State.tracedTo_emitAll (s : State) (u kind : Nat) (ps : List (List Byte)) : s.tracedTo (s.emitAll u kind ps) := by
  unfold State.emitAll
  simp only
  split
  · refine State.tracedTo.trans ?_ (State.tracedTo_foldl _ _ (fun s p => s.tracedTo_pushPacket u kind p) _)
    split
    · exact ((s.tracedTo_emitDue u).trans (State.tracedTo_tracePush _ _ _ _)).trans (State.tracedTo_modGang _ _ _ fun _ => rfl)
    · exact s.tracedTo_emitDue u
  · exact .refl s

theorem State.tracedTo_emit (s : State) (u kind : Nat) (bs : List Byte) : s.tracedTo (s.emit u kind bs) := s.tracedTo_emitAll _ _ _

theorem State.tracedTo_emitCadence (s : State) (u : Nat) : s.tracedTo (s.emitCadence u) := by
  unfold State.emitCadence
  simp only
  split
  · split
    · exact s.tracedTo_emitSync _ _
    · split
      · exact s.tracedTo_emitSync _ _
      · exact .refl s
  · exact .refl s

/-- The gang after the trace has run. -/
theorem State.tracedTo.gang {s t : State} (h : s.tracedTo t) {u : Nat} {g : Gang} (hg : Tbl.at? s.gangs u = some g) :
    ∃ x, Tbl.at? t.gangs u = some { g with tr := x } := by
  have := h.2.1 u
  rw [hg] at this
  obtain ⟨k, hk, e⟩ := Option.map_eq_some_iff.1 this
  refine ⟨k.tr, hk.trans (congrArg some ?_)⟩
  cases k; cases g; simp only [Gang.untraced, Gang.mk.injEq] at e ⊢
  simp [e]

theorem State.tracedTo.onlyTraced {s t : State} (h : s.tracedTo t) (u : Nat) : s.onlyTraced t u :=
  ⟨h.1.trans (by rw [show t.energy = s.energy by rw [h.1]]), fun v _ => h.2.1 v, h.2.2⟩

/-! ### The relation `onlyTraced` -/

theorem State.onlyTraced.trans {s t r : State} {u : Nat} (h : s.onlyTraced t u) (k : t.onlyTraced r u) : s.onlyTraced r u := by
  obtain ⟨h1, h2, h3⟩ := h
  obtain ⟨k1, k2, k3⟩ := k
  exact ⟨by rw [k1, h1], fun v hv => (k2 v hv).trans (h2 v hv), fun a => (k3 a).trans (h3 a)⟩

theorem State.onlyGang.onlyTraced {s t : State} {u : Nat} (h : s.onlyGang t u) : s.onlyTraced t u := by
  obtain ⟨h1, h2, h3⟩ := h
  refine ⟨h1.trans (by rw [show t.trace = s.trace by rw [h1]]), fun v hv => by rw [h2 v hv], fun a => ?_⟩
  have := congrArg (Option.map fun c : Ctx => { c with trlost := 0 }) (h3 a)
  rwa [Option.map_map, Option.map_map] at this

theorem State.onlyTraced_setGang (s : State) (u : Nat) (g : Gang) : s.onlyTraced (s.setGang u g) u := (s.onlyGang_setGang u g).onlyTraced

/-! ### Taking a trap -/

/-- Breaking off a gang's reads commutes with a change of energy counts. -/
theorem State.onlyTraced_breakOff {s r : State} {u : Nat} (h : s.onlyGang r u) (hg : r.gangs = s.gangs) :
    (s.breakOff u).onlyTraced (r.breakOff u) u := by
  obtain ⟨h1, h2, h3⟩ := h.onlyTraced
  refine ⟨?_, h2, h3⟩
  have hr : r.requests = s.requests := by rw [h1]
  have hp : r.pins = s.pins := by rw [h1]
  have : r.breakOff u = { r with requests := (s.breakOff u).requests, pins := (s.breakOff u).pins } := by
    have hd : r.gang u = s.gang u := by unfold State.gang; rw [hg]
    simp only [State.breakOff, hd, hr, hp]
  rw [this]
  exact congrArg (fun x : State => { x with requests := (s.breakOff u).requests, pins := (s.breakOff u).pins }) h1

/-- The registers a trap writes. -/
def TrapInfo.regs (x : TrapInfo) : TrapRegs :=
  { cause := x.word, tspc := x.tspc, tlpc := x.tlpc, tmask := BitVec.ofNat 32 x.tmask, taddr := BitVec.ofNat 64 x.taddr,
    clanes := BitVec.ofNat 32 x.clanes, fkind := x.fkind, acc := x.acc }

/-- A trap at U with a handler (R224). -/
theorem State.trapEntry_spec {s : State} {u : Nat} {g : Gang} (x : TrapInfo) (h : Tbl.at? s.gangs u = some g) (hp : g.priv = false)
    (ht : (s.ctxOf g).tvec ≠ 0) :
    ∃ k, Tbl.at? (s.trapEntry u x).gangs u = some k ∧ g.inHandler k (s.ctxOf g).tvec x.regs ∧
      (s.breakOff u).onlyTraced (s.trapEntry u x) u := by
  have hg := State.gang_of h
  unfold State.trapEntry
  simp only [hg, hp, Bool.false_or]
  rw [if_neg (by simpa [State.ctxOf] using ht)]
  generalize hk : ({ g.clearLanes with trap := _, frame := _, priv := _, spc := _, dbctl := _, skipS := _, skipL := _, stepping := _ } : Gang) = k
  have h1 : Tbl.at? ((s.breakOff u).setGang u k).gangs u = some k := by simp
  have h2 := ((s.breakOff u).setGang u k).tracedTo_emitSync u 3
  obtain ⟨y, hy⟩ := h2.gang h1
  refine ⟨_, hy, ?_, ((s.breakOff u).onlyTraced_setGang u k).trans (h2.onlyTraced u)⟩
  subst hk
  refine ⟨rfl, rfl, rfl, rfl, rfl, rfl, rfl, rfl, rfl, rfl, rfl, rfl, rfl, rfl, rfl, rfl, fun l => ?_⟩
  simp [Gang.clearLanes, Tbl.at?_each, Lane.cleared, Lane.blank]

/-- A scalar trap at U with a handler: precise, with TSPC at the word. -/
theorem State.scalarTrap_spec {s : State} {g : Gang} (h : s.issuing g) (i : Instr) (c addr fk acc : Nat)
    (e : exec i s = .next (s.scalarTrap s.cur c addr fk acc)) : s.raises i g c addr := by
  intro hp ht
  refine ⟨_, TrapInfo.regs { cause := c, tspc := g.spc, taddr := addr, fkind := fk, acc := acc }, e, ?_, ?_, rfl, rfl, rfl, rfl, rfl⟩
  · unfold State.scalarTrap
    simp only [State.gang_of h]
    have key : ∀ r : State, s.onlyGang r s.cur → r.gangs = s.gangs → ∃ k, Tbl.at? (r.trapEntry s.cur { cause := c, tspc := g.spc, taddr := addr, fkind := fk, acc := acc }).gangs s.cur = some k ∧ g.inHandler k (s.ctxOf g).tvec (TrapInfo.regs { cause := c, tspc := g.spc, taddr := addr, fkind := fk, acc := acc }) ∧ (s.breakOff s.cur).onlyTraced (r.trapEntry s.cur { cause := c, tspc := g.spc, taddr := addr, fkind := fk, acc := acc }) s.cur := by
      intro r hr hgs
      have ea : r.asidOf g = s.asidOf g := by rw [hr.1]; rfl
      have et : (r.ctxOf g).tvec = (s.ctxOf g).tvec := by
        unfold State.ctxOf State.ctx Tbl.atD
        rw [ea]
        have := hr.2.2 (s.asidOf g)
        cases h1 : Tbl.at? r.ctxs (s.asidOf g) <;> cases h2 : Tbl.at? s.ctxs (s.asidOf g) <;> simp [h1, h2] at this ⊢
        have := congrArg Ctx.tvec this
        simpa [Ctx.uncharged] using this
      obtain ⟨k, k1, k2, k3⟩ := State.trapEntry_spec (s := r) (u := s.cur) { cause := c, tspc := g.spc, taddr := addr, fkind := fk, acc := acc } (hgs ▸ h) hp (et ▸ ht)
      exact ⟨k, k1, et ▸ k2, (State.onlyTraced_breakOff hr hgs).trans k3⟩
    split
    · exact key s (.refl _ _) rfl
    · exact key _ (s.onlyGang_chargeGang _ _) (s.chargeGang_gangs _ _)
  · simp [TrapInfo.regs, TrapInfo.word, b2n]

end Sys2Proof.Machine
end

