-- ==== Sys2Proof/Tests/Slice0.lean ====
section
/-!
SUPPORT. Tests: words decoded from the encodings of the spec, ill-formed instructions that the checks refuse, single words with results worked out
from the rules, and, for every statement with hypotheses, a state and operands that meet them.
-/

-- One theorem at a time: each evaluation in the kernel would otherwise hold a thread of its own.
set_option Elab.async false

open Sys2Proof Sys2Proof.Machine

namespace Sys2Proof.Tests

/-- A leaf that maps a page of 64 KiB, readable, writable and executable (R292). -/
def pageEntry : Nat := 0x100017

/-- Page tables of four levels at 0x10000 that map virtual 0x10000 to physical 0x100000 (R290). -/
def tables : Mem :=
  [(0x10000, 0x01), (0x10001, 0x40), (0x10002, 0x01), (0x14000, 0x01), (0x14001, 0x80), (0x14002, 0x01), (0x18000, 0x01), (0x18001, 0xC0),
   (0x18002, 0x01), (0x1C008, 0x17), (0x1C00A, 0x10)]

def rec0 : LaunchRec :=
  { LaunchRec.blank with entry := 0x10000, lcbase := 0x10000, gangs := 2, regs := 16, tags := 4, rows := 2, tiles := 4, tdepth := 1, scratch := 1024, ntb := 1, ncb := 1 }

def ctx0 : Ctx := { Ctx.blank with l1 := 0x10000, tvec := 0x10400, fn := 1, key := 1, gseg := { base := 0x10000, lim := 0x10000 } }

def team0 : Team :=
  { Team.blank with grid := 1, cluster := 1, slots := [0, 1], wbases := [0, 16], sbase := 64, tb := [(0, { Barrier.blank with exp := 1 })] }

/-- A gang at U with G over the mapped page, S over its scratchpad, and s1 = 8. -/
def gang0 : Gang :=
  { Gang.blank with
    team := 1, spc := 0x10000, s := [(1, 8)]
    segs := [(0, { base := 0x10000, lim := 0x10000 }), (1, { base := 0x2000, lim := 1024 }), (2, { base := 0, lim := 1024 }),
             (3, { base := 0x10000, lim := 0x0400000000000100 }), (4, { base := 0, lim := 0 }), (5, { base := 0, lim := 0x300000 })] }

/-- A device past bring-up with one context, grid, cluster, team and gang. -/
def world (c : Ctx) (t : Team) (g : Gang) : State :=
  { State.resetWith 1 [] with
    boot := 8, mem := tables, regions := [(0, { Region.reset with part := some 0 })], parts := [(0, Partition.blank)], ctxs := [(1, c)]
    grids := [(1, { Grid.blank with asid := 1, gid := 1, rcd := rec0, placed := 1, admitted := true })]
    clusters := [(1, { Cluster.blank with grid := 1, teams := [1], cb := [(0, { Barrier.blank with exp := 1 })] })]
    teams := [(1, t)], gangs := [(1, g)], cur := 1, uid := 2 }
def wg (g : Gang) : State := world ctx0 team0 g
def w0 : State := wg gang0

/-- The gang with other scalar registers. -/
def gs (l : Tbl Word64) : Gang := { gang0 with s := l }

/-- The gang at S. -/
def atS (g : Gang) : Gang := { g with priv := true }

/-- What a scalar word leaves in register `d`; 0 where it does not complete. -/
def result (i : Instr) (g : Gang) (d : SReg) : Word64 :=
  match exec i (wg g) with
  | .next t => (t.gang 1).sreg d
  | _ => 0

/-- The gang after a word. -/
def after (i : Instr) (s : State) : Gang :=
  match exec i s with
  | .next t => t.gang 1
  | _ => gang0

theorem quiet0 : ∀ c, Tbl.atD gang0.wcl c [] = [] := fun _ => rfl

/-! ### Decoding: words written out from R76, R79 and R80 -/

theorem test_decode_sadd : decodeTableWord 32 0x01040180 = some (.sadd 32 32 3) := by decide +kernel
theorem test_decode_saddi : decodeTableWord 32 0x02000001 = some (.saddi 0 0 1) := by decide +kernel
theorem test_decode_sli : decodeTableWord 32 0x15000003 = some (.sli 32 3) := by decide +kernel
theorem test_decode_slx : decodeTableWord 32 0x162C8D15 = some (.slx 5 0x48D15) := by decide +kernel
theorem test_decode_sloop : decodeTableWord 32 0x2C181FFF = some (.sloop 3 0x1FFF) := by decide +kernel
theorem test_decode_lq : decodeTableWord 32 0x60000002 = some (.lq 0 2) := by decide +kernel
theorem test_decode_sgetl : decodeTableWord 32 0x64280023 = some (.sgetl 5 1 3) := by decide +kernel
theorem test_decode_bcopy : decodeTableWord 32 0x70094602 = some (.bcopy 1 10 12 0 1) := by decide +kernel
theorem test_decode_ttq : decodeTableWord 32 0x7400C000 = some (.ttq 6 0) := by decide +kernel
theorem test_decode_fence : decodeTableWord 32 0x8E000003 = some (.fence 3) := by decide +kernel
theorem test_decode_freeze : decodeTableWord 32 0x9E000000 = some .freeze := by decide +kernel
theorem test_decode_exit : decodeTableWord 32 0xA6000000 = some .exit := by decide +kernel
theorem test_decode_opreq : decodeTableWord 32 0xB0380006 = some (.opreq 7 6) := by decide +kernel
theorem test_decode_csrr : decodeTableWord 32 0xC1E0005C = some (.csrr 60 0x5C) := by decide +kernel
theorem test_decode_fltret : decodeTableWord 32 0xCC000000 = some .fltret := by decide +kernel

/-- A lane word's fields, with what R80 leaves at zero. -/
def op0 : LaneOp :=
  { ty := .i8, fn := 0, dst := .v 0, sa := .v 0, sb := .v 0, sc := .v 0, neg := false, pg := 0, rm := .dyn, sm := .mode, dm := .mode,
    yld := false, imm := 0 }

theorem test_decode_ffma : decodeTableWord 96 0x33A08290_0480C004_40000000 =
    some (.ffma { op0 with ty := .f32, dst := .vo 10 2, sa := .v 2, sb := .o 1, sc := .lt, pg := 2, rm := .rne }) := by decide +kernel
theorem test_decode_lbra : decodeTableWord 96 0x80000000_02000000_00000003 = some (.lbra { op0 with sa := .v 1, imm := 3 }) := by decide +kernel
theorem test_decode_ljmp : decodeTableWord 96 0x81000000_00000000_00000007 = some (.ljmp { op0 with imm := 7 }) := by decide +kernel
theorem test_decode_ltmark : decodeTableWord 96 0xD1000000_00000000_00000123 = some (.ltmark { op0 with imm := 0x123 }) := by decide +kernel
theorem test_decode_atom : decodeTableWord 96 0xA5200100_10050000_00000010 =
    some (.atom { op0 with ty := .i32, dst := .v 4, sa := .v 8, sb := .v 10, imm := 0x10 }) := by decide +kernel
theorem test_decode_accrd : decodeTableWord 96 0xAAA00180_0A000000_40008000 =
    some (.accrd { op0 with ty := .f32, dst := .v 6, sa := .v 5, rm := .rne, imm := 0x8000 }) := by decide +kernel
theorem test_decode_stt : decodeTableWord 32 0xA228C001 = some (.stt 5 6 1) := by decide +kernel
theorem test_decode_bind : decodeTableWord 32 0x94282203 = some (.bind 5 1 4 3) := by decide +kernel
theorem test_decode_rel : decodeTableWord 32 0x92010303 = some (.rel 8 6 3) := by decide +kernel
theorem test_decode_acq : decodeTableWord 32 0x90190003 = some (.acq 3 8 3) := by decide +kernel
theorem test_decode_trchk : decodeTableWord 32 0x7FF7A000 = some (.trchk 62 61 0) := by decide +kernel
theorem test_decode_mapf : decodeTableWord 32 0xC9F78000 = some (.mapf 62 60) := by decide +kernel
theorem test_decode_reserved : decodeTableWord 32 0x1C000000 = none ∧ decodeTableWord 96 0xFF0000000000000000000000 = none := by decide +kernel

/-! ### Well-formed instructions: one that breaks each rule of the encoding is refused -/

theorem test_wf_good : (Instr.fadd { op0 with ty := .f32, dst := .v 1 }).wellFormed = true := by decide +kernel
/-- R80, R86: an integer type for a floating-point word. -/
theorem test_wf_type : (Instr.fadd { op0 with ty := .i32, dst := .v 1 }).wellFormed = false := by decide +kernel
/-- R86: a nonzero FN where the word has none. -/
theorem test_wf_fn : (Instr.fadd { op0 with ty := .f32, fn := 1 }).wellFormed = false := by decide +kernel
/-- R86: a source that the word does not read. -/
theorem test_wf_source : (Instr.vmov { op0 with ty := .i32, sb := .v 1 }).wellFormed = false := by decide +kernel
/-- R143: IMM20 of LRET is zero, whatever its source names. -/
theorem test_wf_lret : (Instr.lret { op0 with sa := .imm, imm := 4 }).wellFormed = false ∧
    (Instr.lret { op0 with sa := .imm }).wellFormed = true := by decide +kernel
/-- R142: VPOP names its operation by FN. -/
theorem test_wf_vpop : (Instr.vpopSet { op0 with fn := 1 }).wellFormed = false := by decide +kernel
/-- R177: an odd first register, and a destination segment that no copy writes. -/
theorem test_wf_bcopy : (Instr.bcopy 0 1 2 0 1).wellFormed = false ∧ (Instr.bcopy 0 2 2 3 1).wellFormed = false := by decide +kernel
/-- R178: a reserved reduction code. -/
theorem test_wf_bred : (Instr.bred 0 2 2 0 10).wellFormed = false := by decide +kernel
/-- R78: a barrier name of level 0, and of level 2 above its range. -/
theorem test_wf_bar : (Instr.bar 0 0).wellFormed = false ∧ (Instr.barw 2 8).wellFormed = false := by decide +kernel
/-- R78: a reserved scope. -/
theorem test_wf_scope : (Instr.fence 6).wellFormed = false ∧ (Instr.acq 0 0 7).wellFormed = false := by decide +kernel
/-- R237: a segment code beyond M. -/
theorem test_wf_segw : (Instr.segw 0 0 6).wellFormed = false := by decide +kernel
/-- R164: an empty segment mask. -/
theorem test_wf_rowpin : (Instr.rowpinP 0 0 0).wellFormed = false := by decide +kernel
/-- R241: a reserved kind. -/
theorem test_wf_tlbinv : (Instr.tlbinv 0 3).wellFormed = false := by decide +kernel

/-! ### Single words, with results worked out from the rules -/

/-- R27: s0 reads zero and discards what is written to it. -/
theorem test_s0 : result (.saddi 0 1 5) gang0 0 = 0 := by decide +kernel
/-- R104: SDIV of −7 by 2 gives −3, and SREM −1. -/
theorem test_sdiv : result (.sdiv 3 1 2) (gs [(1, 0xFFFFFFFFFFFFFFF9), (2, 2)]) 3 = 0xFFFFFFFFFFFFFFFD ∧
    result (.srem 3 1 2) (gs [(1, 0xFFFFFFFFFFFFFFF9), (2, 2)]) 3 = 0xFFFFFFFFFFFFFFFF := by decide +kernel
/-- R104: SDIVN of 2⁶³ by 3, and SREMN. -/
theorem test_sdivn : result (.sdivn 3 1 2) (gs [(1, 0x8000000000000000), (2, 3)]) 3 = 0x2AAAAAAAAAAAAAAA ∧
    result (.sremn 3 1 2) (gs [(1, 0x8000000000000000), (2, 3)]) 3 = 2 := by decide +kernel
/-- R106, Example 1: the second word of the sequence that loads a constant. -/
theorem test_slx : result (.slx 5 0x4F135) (gs [(5, 0x48D15)]) 5 = 0x2468ACF135 := by decide +kernel
/-- R103: the count of a shift is its low 6 bits. -/
theorem test_sshl : result (.sshl 3 1 2) (gs [(1, 3), (2, 0x41)]) 3 = 6 := by decide +kernel
/-- R110: SJALR with sd = sa jumps to the old value. -/
theorem test_sjalr : (after (.sjalr 1 1 0) w0).spc = 8 ∧ (after (.sjalr 1 1 0) w0).sreg 1 = 0x10004 := by decide +kernel
/-- R112: SLDBX extends the sign of its byte, and SLDB fills with zeros. -/
theorem test_sldbx :
    let s := { w0 with mem := tables ++ [(0x100008, 0x80)] }
    (after (.sldbx 3 1 0) s).sreg 3 = 0xFFFFFFFFFFFFFF80 ∧ (after (.sldb 3 1 0) s).sreg 3 = 0x80 := by decide +kernel
/-- R224: ILLEGAL at U enters the handler with PRIV set, and R227: TRET returns to TSPC. -/
theorem test_trap : (after .tret w0).priv = true ∧ (after .tret w0).spc = 0x10400 ∧ (after .tret w0).trap.tspc = 0x10000 := by decide +kernel

/-! ### Witnesses: states and operands that meet the hypotheses of the statements -/

theorem witness_ScalarArithmetic : w0.issuing gang0 := rfl

theorem witness_ScalarDivision :
    let g := gs [(1, 0x8000000000000000), (2, 0xFFFFFFFFFFFFFFFF)]
    (wg g).issuing g ∧ g.sreg 1 = BitVec.intMin 64 ∧ g.sreg 2 = BitVec.allOnes 64 := ⟨rfl, by decide +kernel⟩

theorem witness_ScalarImmediates : w0.issuing gang0 := rfl

/-- The targets of R110 at the edges of its ranges: the highest one that is well formed, a misaligned one, and the lowest beyond. -/
theorem witness_BranchesAndJumps :
    let g := gs [(1, 0x01FFFFFFFFFFFFFC), (2, 9), (3, 0x0200000000000000)]
    (wg g).issuing g ∧ (g.sreg 1 + (0 : BitVec 13).signExtend 64).toNat % 4 = 0 ∧ (g.sreg 1 + (0 : BitVec 13).signExtend 64).toNat < 2 ^ 57 ∧
      (g.sreg 2 + (0 : BitVec 13).signExtend 64).toNat % 4 ≠ 0 ∧ (g.sreg 3 + (0 : BitVec 13).signExtend 64).toNat % 4 = 0 ∧
      2 ^ 57 ≤ (g.sreg 3 + (0 : BitVec 13).signExtend 64).toNat ∧ g.priv = false ∧ ((wg g).ctxOf g).tvec ≠ 0 := ⟨rfl, by decide +kernel⟩

/-- The first cell of a gang's block issues the word at its LPC. -/
def laneGang (g : Gang) : Gang :=
  { g with
    block := some { idx := 0, k := [], den := false, satd := false, rmd := 1, enq := 0 }
    cells := (List.range 8).map fun c => (c, { Cell.blank with run := .run }) }

/-- A device whose gang `g` issues a lane word from every cell. -/
def wl (g : Gang) : State := { wg (laneGang g) with cells := List.range 8 }

theorem witness_WordsThatTrap :
    (w0.issuing gang0 ∧ gang0.priv = false ∧ (w0.ctxOf gang0).tvec ≠ 0 ∧ w0.cells = [] ∧ gang0.spc.toNat % 4 = 0) ∧
    ((wl gang0).issuing (laneGang gang0) ∧ (wl gang0).cells ≠ [] ∧ ∀ c ∈ (wl gang0).cells, c < 8) ∧
    (let g := { gang0 with spc := 0x0200000000000000 }
     (wg g).issuing g ∧ g.spc.toNat % 4 = 0 ∧ 2 ^ 57 ≤ g.spc.toNat) ∧
    (let g := { gang0 with spc := 0x20000 }
     (wg g).issuing g ∧ g.spc.toNat < 2 ^ 57 ∧ ((wg g).translateFor (.fetch 1) (.core 0) 1 g.spc.toNat .fetch).2 = .bad 0) ∧
    (let s := { w0 with memBad := [0x100000] }
     s.issuing gang0 ∧ (s.translateFor (.fetch 1) (.core 0) 1 gang0.spc.toNat .fetch).2 = .ok 0x100000 0x100017 16 ∧ isPeer 0x100000 = false ∧
       ((s.translateFor (.fetch 1) (.core 0) 1 gang0.spc.toNat .fetch).1.codeAt 0 1 0x100000 4).2 = true) :=
  ⟨⟨rfl, by decide +kernel⟩, ⟨rfl, by decide +kernel⟩, ⟨rfl, by decide +kernel⟩, ⟨rfl, by decide +kernel⟩, rfl, by decide +kernel⟩

/-- A gang in its S handler, with the frame of its trap and the fault slot 0. -/
def inS : Gang :=
  { atS gang0 with frame := some (gang0.laneFrame 0x10000), held := [0], trap := { TrapRegs.blank with tspc := 0x10000, taddr := 0x20000 } }

def slot0 : FaultSlot := { st := .waiting, seq := 1, rcd := [], tspc := 0, owner := .gang 1, status := 0 }

theorem witness_TrapsAtSAndReturns :
    (wg (atS gang0)).issuing (atS gang0) ∧ (atS gang0).priv = true ∧ (wg (atS gang0)).cells = [] ∧
      (Tbl.at? (wg (atS gang0)).teams (atS gang0).team).isSome ∧ (Tbl.at? (wg (atS gang0)).ctxs ((wg (atS gang0)).asidOf (atS gang0))).isSome ∧
      ((wg (atS gang0)).ctxOf (atS gang0)).freeSlot = some 0 ∧
    (let s := world { ctx0 with slots := [(0, slot0)] } team0 inS
     s.issuing inS ∧ inS.priv = true ∧ inS.frame = some (gang0.laneFrame 0x10000) ∧ (s.ctxOf inS).waiting = [] ∧ 0 ∈ inS.held) :=
  ⟨rfl, by decide +kernel, by decide +kernel, by decide +kernel, by decide +kernel, by decide +kernel, rfl, by decide +kernel⟩

/-- A load at the last bytes of its segment, and one of poisoned bytes; a load through K. -/
theorem witness_ScalarLoads :
    let g := gs [(1, 0xFFF8), (2, 8)]
    let s := { wg g with memBad := [0x100008] }
    s.issuing g ∧ (g.sreg 1).toNat + 8 ≤ (g.seg 0).limit ∧ ((g.seg 0).baseN + (g.sreg 1).toNat) % 8 = 0 ∧
      (s.translateFor (.scalar 1) (.core 0) 1 0x1FFF8 .load).2 = .ok 0x10FFF8 0x100017 16 ∧ isPeer 0x10FFF8 = false ∧ 0x10FFF8 % 128 + 8 ≤ 128 ∧
      (wcLoad g.wcs 0x10FFF8 (s.codeAt 0 1 0x10FFF8 8).1 (s.codeAt 0 1 0x10FFF8 8).2).2 = false ∧
      (s.translateFor (.scalar 1) (.core 0) 1 0x10008 .load).2 = .ok 0x100008 0x100017 16 ∧
      (wcLoad g.wcs 0x100008 (s.codeAt 0 1 0x100008 8).1 (s.codeAt 0 1 0x100008 8).2).2 = true ∧ g.priv = false ∧
      (s.ctxOf g).tvec ≠ 0 ∧ (g.sreg 2).toNat + 8 ≤ (g.seg 3).limit ∧ ((g.seg 3).baseN + (g.sreg 2).toNat) % 8 = 0 :=
  ⟨rfl, by decide +kernel⟩

/-- A gang whose G is write-combined. -/
def wcGang : Gang := { gang0 with segs := Tbl.put gang0.segs 0 { base := 0x10000, lim := 0x0800000000010000 } }

theorem witness_ScalarStores :
    (w0.issuing gang0 ∧ (gang0.sreg 1).toNat + 8 ≤ (gang0.seg 0).limit ∧ (gang0.seg 0).ros = false ∧ (gang0.seg 0).wc = false ∧
      (w0.translate (.core 0) 1 0x10008 .store).2 = .ok 0x100008 0x100017 16 ∧ isPeer 0x100008 = false ∧ 0x100008 % 128 + 8 ≤ 128 ∧
      ∀ y ∈ gang0.wcs, y.line ≠ 0x100008 / 128) ∧
    ((wg wcGang).issuing wcGang ∧ (wcGang.seg 0).wc = true ∧ wcGang.wcs.length < 2 ∧
      ((wg wcGang).translate (.core 0) 1 0x10008 .store).2 = .ok 0x100008 0x100017 16) :=
  ⟨⟨rfl, by decide +kernel⟩, rfl, by decide +kernel⟩

/-- Tables whose page at virtual 0x10000 is 64 KiB of device 2's memory, a leaf of kind 3 (R292, R386). -/
def peerTables : Mem := tables ++ [(0x1C00D, 0x01), (0x1C00E, 0x08), (0x1C00F, 0x30)]
def peerAt (o : Nat) : Nat := 2 ^ 51 + 2 * 2 ^ 39 + 0x100000 + o

/-- A request of gang 1 on its way, and answered. -/
def read0 : Request :=
  { tag := 9, ptype := 0, who := .scalar 1, team := 1, asid := 1, addr := peerAt 8, n := 8, key := 0, depth := 0, sent := 0, answer := none }

/-- A load, a store and words of keys at another device's memory: asked for, on its way, and answered. -/
theorem witness_ScalarPeer :
    let s := { w0 with mem := peerTables }
    let ask := fun (r : Request) => ({ s with requests := [r] } : State)
    let r := { read0 with answer := some (List.replicate 8 5, 1) }
    s.issuing gang0 ∧ (gang0.sreg 1).toNat + 8 ≤ (gang0.seg 0).limit ∧ ((gang0.seg 0).baseN + (gang0.sreg 1).toNat) % 8 = 0 ∧
      (s.translateFor (.scalar 1) (.core 0) 1 0x10008 .load).2 = .ok (peerAt 8) 0x3008010000100017 16 ∧
      (s.translateFor (.scalar 1) (.core 0) 1 0x10008 .store).2 = .ok (peerAt 8) 0x3008010000100017 16 ∧
      (s.translate (.core 0) 1 0x10008 .store).2 = .ok (peerAt 8) 0x3008010000100017 16 ∧ isPeer (peerAt 8) = true ∧
      s.findReq (.scalar 1) (peerAt 8) 8 = none ∧ (ask read0).findReq (.scalar 1) (peerAt 8) 8 = some read0 ∧ read0.answer = none ∧
      (ask r).findReq (.scalar 1) (peerAt 8) 8 = some r ∧ r.answer = some (List.replicate 8 5, 1) ∧
      (∀ k < 8, (1 : BitVec 128).getLsbD (peerAt 8 % 128 + k) = false) ∧ gang0.wcs = [] ∧
      (gang0.seg 0).ros = false ∧ (gang0.seg 0).wc = false ∧ s.ctxWritesOut 1 = false := ⟨rfl, by decide +kernel⟩

/-- One offset beyond the segment, a store through a read-only segment, a misaligned offset, an unmapped address, and a frozen line. -/
theorem witness_ScalarAccessChecks :
    (let g := gs [(1, 0xFFF9)]
     (wg g).issuing g ∧ (g.seg 0).limit < (g.sreg 1).toNat + 8) ∧
    (let g := { gang0 with segs := [(0, { base := 0x10000, lim := 0x0400000000010000 })] }
     (wg g).issuing g ∧ (g.seg 0).ros = true) ∧
    (let g := gs [(1, 9)]
     (wg g).issuing g ∧ (g.sreg 1).toNat + 8 ≤ (g.seg 0).limit ∧ ((g.seg 0).baseN + (g.sreg 1).toNat) % 8 ≠ 0) ∧
    (let g := { gang0 with segs := [(0, { base := 0x20000, lim := 0x10000 })] }
     (wg g).issuing g ∧ (g.sreg 1).toNat + 8 ≤ (g.seg 0).limit ∧ ((g.seg 0).baseN + (g.sreg 1).toNat) % 8 = 0 ∧ (g.seg 0).ros = false ∧
       ((wg g).translate (.core 0) 1 0x20008 .store).2 = .bad 0) ∧
    (let g := { gang0 with tplOf := some 2 }
     let s := world ctx0 { team0 with frozen := [(0, 2)] } g
     s.issuing g ∧ (g.sreg 1).toNat < 0x100000 ∧ s.frozenHit g g.team 8 8 = true ∧ s.frozenHit g g.team 128 8 = false) ∧
    gang0.priv = false ∧ (w0.ctxOf gang0).tvec ≠ 0 :=
  ⟨⟨rfl, by decide +kernel⟩, ⟨rfl, by decide +kernel⟩, ⟨rfl, by decide +kernel⟩, ⟨rfl, by decide +kernel⟩, ⟨rfl, by decide +kernel⟩, by decide +kernel⟩

/-- Scratchpad and window offsets at their edges: the last 8 bytes of the scratchpad, registers 15 and 16 of 16, poisoned data. -/
theorem witness_ScratchpadAndWindowWords :
    (let g := gs [(1, 1016)]
     (wg g).issuing g ∧ (g.sreg 1).toNat < 0x100000 ∧ (g.sreg 1).toNat + 8 ≤ (g.seg 1).limit ∧ ((g.seg 1).baseN + (g.sreg 1).toNat) % 8 = 0 ∧
       poisoned (wg g).storeBad ((wg g).scratchAddr 1 1016) 8 = false ∧
       poisoned ({ wg g with storeBad := [(wg g).scratchAddr 1 1016] } : State).storeBad ((wg g).scratchAddr 1 1016) 8 = true ∧
       (g.seg 1).ros = false ∧ (wg g).frozenHit g g.team 1016 8 = false) ∧
    (let g := gs [(1, 0x100000 + 128 * 15 + 120), (2, 0x100000 + 128 * 16)]
     let s := wg g
     s.issuing g ∧ (g.sreg 1).toNat = 0x100000 + 128 * 15 + 8 * 15 ∧ (g.sreg 2).toNat = 0x100000 + 128 * 16 + 8 * 0 ∧ (g.seg 1).baseN % 8 = 0 ∧
       s.regsOf g = 16 ∧ (s.readReg g 15 30).2 = false ∧ (s.readReg g 15 31).2 = false ∧ (g.seg 1).ros = false ∧ 15 / 16 ∉ g.shared) ∧
    (let s := { w0 with storeBad := [128 * 15] }
     s.issuing gang0 ∧ ((s.readReg gang0 15 0).2 || (s.readReg gang0 15 1).2) = true) :=
  ⟨⟨rfl, by decide +kernel⟩, ⟨rfl, by decide +kernel⟩, rfl, by decide +kernel⟩

def entry0 : QEntry := { idx := 0, k := List.replicate 16 0, den := false, satd := false, rmd := 1, enq := 0 }

theorem witness_LaneQueue :
    (let g := gs [(1, 0x0001000000000000), (2, 0)]
     (wg g).issuing g ∧ 2 ^ 48 ≤ (g.sreg 1).toNat ∧ (g.sreg 2).toNat < 2 ^ 48 ∧ ((wg g).recOf g).lcbase + 12 * (g.sreg 2).toNat < 2 ^ 57 ∧
       g.queue.length < 16 ∧ g.wcs = []) ∧
    (let g := { gang0 with queue := List.replicate 16 entry0 }
     (wg g).issuing g ∧ 16 ≤ g.queue.length ∧ g.queue ≠ []) ∧
    (w0.issuing gang0 ∧ gang0.queue = [] ∧ gang0.block = none ∧ (∀ c, Tbl.atD gang0.wcl c [] = []) ∧ w0.requests = [] ∧
      (15 : BitVec 8).toNat < w0.regsOf gang0 ∧ w0.regsOf gang0 ≤ (16 : BitVec 8).toNat) ∧
    (laneGang gang0).block.isSome :=
  ⟨⟨rfl, by decide +kernel⟩, ⟨rfl, by decide +kernel⟩, ⟨rfl, rfl, rfl, quiet0, by decide +kernel⟩, rfl⟩

theorem witness_ControlRegisterReads :
    (w0.issuing gang0 ∧ (0x021 : BitVec 12).toNat ∈ [0x001, 0x021]) ∧ ((wg (atS gang0)).issuing (atS gang0) ∧ (atS gang0).priv = true) ∧
      (0xFFF : BitVec 12).toNat = 0xFFF := ⟨⟨rfl, by decide +kernel⟩, ⟨rfl, rfl⟩, by decide +kernel⟩

/-- MODE written with each rounding code at the edges of the legal ones; TRCTL with EN newly set, and not. -/
theorem witness_ControlRegisterWrites :
    let g := atS (gs [(1, 1), (2, 6), (3, 7), (4, 0x100)])
    let s := wg g
    s.issuing g ∧ g.priv = true ∧ (g.sreg 1).extractLsb' 0 3 ≠ 0 ∧ (g.sreg 2).extractLsb' 0 3 ≠ 7 ∧ (g.sreg 3).extractLsb' 0 3 = 7 ∧
      (g.sreg 0).extractLsb' 0 3 = 0 ∧ (g.sreg 1).getLsbD 8 = false ∧ (g.sreg 1).toNat % 16 < 10 ∧ (g.sreg 4).getLsbD 8 = true ∧
      (s.ctxOf g).tren = false ∧ (Tbl.at? s.ctxs (s.asidOf g)).isSome := ⟨rfl, by decide +kernel⟩

/-- SEGW of G; of S with its own base and its whole grant, and with one byte more. -/
theorem witness_SegmentWrites :
    let g := atS (gs [(1, 0x2000), (2, 1024), (3, 1025)])
    let s := wg g
    let granted := Tbl.atD (s.createSegs g.team) 1 { base := 0, lim := 0 }
    s.issuing g ∧ g.priv = true ∧ g.queue = [] ∧ g.block = none ∧ (∀ c, Tbl.atD g.wcl c [] = []) ∧ s.requests = [] ∧
      (g.sreg 1).toNat = granted.baseN ∧ (g.sreg 2).toNat ≤ granted.limit ∧ ¬ (g.sreg 3).toNat ≤ granted.limit :=
  ⟨rfl, rfl, rfl, rfl, quiet0, by decide +kernel⟩

/-- The tables with an entry of level 4 that asks for a page of the pool (R292, R298) at 0x30000, and a malformed one at 0x40000. -/
def poolTables : Mem := tables ++ [(0x1C01F, 0x04), (0x1C020, 0x09)]

theorem at_const {α : Type} (x : α) (l : List Nat) {k : Nat} (h : k ∈ l) : Tbl.at? (l.map fun n => (n, x)) k = some x := by
  induction l with
  | nil => simp at h
  | cons i r ih =>
    simp only [List.map_cons, Tbl.at?]
    split
    · rfl
    · next e =>
      rcases List.mem_cons.mp h with h | h
      · exact absurd h.symm e
      · exact ih h

/-- A context with its first `m` fault slots in use. -/
def fullCtx (m : Nat) : Ctx := { ctx0 with slots := (List.range m).map fun n => (n, slot0) }

theorem fullCtx_at {m n : Nat} (h : n < m) : Tbl.at? (fullCtx m).slots n = some slot0 := at_const slot0 _ (List.mem_range.mpr h)

/-- Whether two walks end alike. -/
def endsAt (x y : WalkEnd) : Bool :=
  match x, y with
  | .leaf a l e n, .leaf b k f m => a = b && l = k && e = f && n = m
  | .unmapped a l e, .unmapped b k f => a = b && l = k && e = f
  | .malformed, .malformed => true
  | _, _ => false

theorem witness_FaultServices :
    (let g := atS (gs [(1, 0x10000), (2, 0x20000), (3, 0x30000), (4, 0x40000)])
     let s := { wg g with mem := poolTables }
     let t := { s with parts := [(0, { Partition.blank with pool := [0x200000], poolTotal := 1 })] }
     s.issuing g ∧ t.issuing g ∧ g.priv = true ∧ endsAt (s.peek 1 0x10000) (.leaf 0x1C008 4 0x100017 16) ∧
       endsAt (s.peek 1 0x20000) (.unmapped 0x1C010 4 0) ∧ ptePool 0 = false ∧ endsAt (s.peek 1 0x30000) (.unmapped 0x1C018 4 (2 ^ 58)) ∧
       pteKind (2 ^ 58) = 0 ∧ ptePool (2 ^ 58) = true ∧ endsAt (s.peek 1 0x40000) .malformed ∧ (s.part 0).pool = [] ∧
       (t.part 0).pool = [0x200000]) ∧
    (let s := wg inS
     s.issuing inS ∧ inS.priv = true ∧ Tbl.at? s.ctxs (s.asidOf inS) = some ctx0 ∧ ∃ n < 1024, ∀ y, Tbl.at? ctx0.slots n = some y → y.st = .free) ∧
    ((world (fullCtx 1024) team0 inS).issuing inS ∧ slot0.st ≠ .free ∧ ∀ n < 1024, Tbl.at? (fullCtx 1024).slots n = some slot0) :=
  by
  refine ⟨⟨rfl, rfl, by decide +kernel⟩, ⟨rfl, rfl, by decide +kernel, 0, by omega, ?_⟩, rfl, by decide +kernel, ?_⟩
  · intro y h
    cases h
  · intro n h
    exact fullCtx_at h

theorem witness_CacheAndTranslationWords :
    let g := atS (gs [(1, 0xFF80), (2, 128), (3, 129)])
    let s := wg g
    s.issuing g ∧ g.priv = true ∧ g.wcs = [] ∧ (2 : BitVec 2) ≠ 3 ∧ (s.part (s.ctxOf g).part).poolTotal < 2 ^ 32 ∧
      (s.part (s.ctxOf g).part).pool.length < 2 ^ 32 ∧ (g.sreg 0).toNat = 0 ∧ (g.sreg 2).toNat ≠ 0 ∧
      (g.sreg 1).toNat + (g.sreg 2).toNat ≤ (g.seg 0).limit ∧ (g.seg 0).limit < (g.sreg 1).toNat + (g.sreg 3).toNat ∧
      (5 : BitVec 3).toNat < 6 ∧ 6 ≤ (6 : BitVec 3).toNat := ⟨rfl, by decide +kernel⟩

/-- The masks of R213 at their edges: no tag, the highest granted tag, and one above; a tag that has a count, and one that is DONE. -/
theorem witness_TagWords :
    let g := gs [(1, 8), (2, 16)]
    let t := { team0 with tags := [(3, { Tag.blank with count := 1 })] }
    let t' := { team0 with tags := [(3, { Tag.blank with done := true })] }
    let s := wg g
    (s.issuing g ∧ (world ctx0 t g).issuing g ∧ (world ctx0 t' g).issuing g) ∧ (∀ k, (team0.tag k).count = 0 ∧ (team0.tag k).done = false) ∧
      (3 : BitVec 6).toNat < s.tagsOf g.team ∧ s.tagsOf g.team ≤ (4 : BitVec 6).toNat ∧ (g.sreg 0).toNat = 0 ∧
      (g.sreg 1).toNat < 2 ^ s.tagsOf g.team ∧ 2 ^ s.tagsOf g.team ≤ (g.sreg 2).toNat ∧ (g.sreg 1).getLsbD 3 = true ∧
      (t.tag 3).count ≠ 0 ∧ (t'.tag 3).done = true ∧ ∀ k < 3, (g.sreg 1).getLsbD k = false :=
  ⟨⟨rfl, rfl, rfl⟩, fun _ => ⟨rfl, rfl⟩, by decide +kernel⟩

/-- A barrier of a team at its first arrival, which is the last; with one more expected; a gang that has arrived in an open phase, and one inside BAR. -/
theorem witness_BarrierWords :
    let t := { team0 with tb := [(0, { Barrier.blank with exp := 2 })] }
    let g := { gang0 with armed := [(16, 0)] }
    let h := { gang0 with bar := some 16 }
    (w0.issuing gang0 ∧ (world ctx0 t gang0).issuing gang0 ∧ (wg g).issuing g ∧ (wg h).issuing h) ∧ (0 : BitVec 4).toNat < (w0.recOf gang0).ntb ∧
      ¬ (1 : BitVec 4).toNat < (w0.recOf gang0).ntb ∧ (w0.barrier 1 16).exp ≤ (w0.barrier 1 16).arr + 1 ∧
      ¬ ((world ctx0 t gang0).barrier 1 16).exp ≤ ((world ctx0 t gang0).barrier 1 16).arr + 1 ∧
      Tbl.at? g.armed 16 = some ((wg g).barrier 1 16).phase ∧ Tbl.at? gang0.armed 16 ≠ some (w0.barrier 1 16).phase ∧ h.bar = some 16 ∧
      gang0.wcs = [] ∧ (Tbl.at? w0.teams gang0.team).isSome ∧ (Tbl.at? w0.clusters (w0.team gang0.team).cluster).isSome ∧
      (Tbl.at? w0.grids (w0.team gang0.team).grid).isSome ∧ w0.ctxWritesOut (w0.asidOf gang0) = false ∧ w0.contributesOut w0.cur = false :=
  ⟨⟨rfl, rfl, rfl, rfl⟩, by decide +kernel⟩

def write0 : Request :=
  { tag := 1, ptype := 1, who := .scalar 1, team := 1, asid := 1, addr := 0, n := 8, key := 0, depth := 0, sent := 0, answer := none }

/-- A write on its way to another device behind a binding of domain scope, and a contribution that the switch has yet to accept. -/
theorem witness_BarrierWords_unpaid :
    let b : Binding := { base := 0x10000, len := 128, scope := 4, kind := kBarrier, owner := w0.barOwner gang0 1 16, name := 16 }
    let s := { world { ctx0 with binds := [b] } team0 gang0 with requests := [write0] }
    let t := { w0 with requests := [{ write0 with ptype := 5 }], grids := [(1, { w0.grid 1 with rcd := { rec0 with nxb := 1, cor := true } })] }
    (s.issuing gang0 ∧ t.issuing gang0) ∧ 4 ≤ s.widest (s.asidOf gang0) 0 (s.isBar s.cur 16) ∧ s.ctxWritesOut (s.asidOf gang0) = true ∧
      (0 : Nat) < (t.recOf gang0).nxb ∧ (t.recOf gang0).cor = true ∧ t.contributesOut t.cur = true := ⟨⟨rfl, rfl⟩, by decide +kernel⟩

/-- Key words at the end of their segment, past it, misaligned, unmapped, poisoned, and behind a read-only segment; a write of the gang on its way. -/
theorem witness_FencesAndKeys :
    (w0.issuing gang0 ∧ gang0.wcs = [] ∧ w0.ctxWritesOut (w0.asidOf gang0) = false ∧ (3 : BitVec 3).toNat < 4 ∧ (5 : BitVec 3).toNat < 6 ∧
      ({ w0 with requests := [write0] } : State).ctxWritesOut 1 = true ∧ (∀ n < 8, ((w0.team gang0.team).row n).st ≠ .opening) ∧
      (let t := { team0 with rows := [(1, { RowSlot.blank with st := .opening, row := 1024, mask := 1, pinner := 1 })] }
       let s := world ctx0 t gang0
       Tbl.at? s.gangs s.cur = some gang0 ∧ ((s.team gang0.team).row 1).st = .opening ∧ ((s.team gang0.team).row 1).pinner = s.cur) ∧
      (let b : Binding := { base := 0x10000, len := 128, scope := 4, kind := kKey, owner := 1, name := 0x1FFF8 }
       let s := { world { ctx0 with binds := [b] } team0 gang0 with requests := [write0] }
       ¬ s.widest 1 0 (isKey 0x1FFF8) < 4 ∧ s.ctxWritesOut 1 = true ∧ w0.widest 1 3 (isKey 0x1FFF8) < 4)) ∧
    (let g := gs [(1, 0xFFF8), (2, 0xFFF9), (3, 4)]
     (wg g).issuing g ∧ (g.sreg 1).toNat + 8 ≤ (g.seg 0).limit ∧ ((g.seg 0).baseN + (g.sreg 1).toNat) % 8 = 0 ∧
       (g.seg 0).limit < (g.sreg 2).toNat + 8 ∧ ((g.seg 0).baseN + (g.sreg 3).toNat) % 8 ≠ 0 ∧ (g.seg 0).ros = false ∧
       ((wg g).translateFor (.scalar 1) (.core 0) 1 0x1FFF8 .load).2 = .ok 0x10FFF8 0x100017 16 ∧
       ((wg g).translateFor (.scalar 1) (.core 0) 1 0x1FFF8 .store).2 = .ok 0x10FFF8 0x100017 16 ∧ isPeer 0x10FFF8 = false ∧ 0x10FFF8 % 8 = 0 ∧
       (wcLoad g.wcs 0x10FFF8 [] (poisoned (wg g).memBad 0x10FFF8 8)).2 = false ∧ (wcLoad g.wcs 0x10FFF8 [] (poisoned [0x10FFFF] 0x10FFF8 8)).2 = true) ∧
    (let g := { gang0 with segs := [(0, { base := 0x20000, lim := 0x0400000000010000 })] }
     (wg g).issuing g ∧ (g.seg 0).ros = true ∧ ((wg g).translateFor (.scalar 1) (.core 0) 1 0x20008 .load).2 = .bad 0 ∧
       (g.sreg 1).toNat + 8 ≤ (g.seg 0).limit ∧ ((g.seg 0).baseN + (g.sreg 1).toNat) % 8 = 0) :=
  ⟨⟨rfl, by decide +kernel⟩, ⟨rfl, by decide +kernel⟩, rfl, by decide +kernel⟩

/-- Descriptors of the highest legal name of each kind, and the lowest that names nothing; ranges that are legal, empty and out of bounds; an event
that is set. -/
theorem witness_BindingsAndEvents :
    (let g := gs [(1, 0xFF80), (2, 128), (3, 129), (4, 0x1000000000000003), (5, 0x2000000000000007), (6, 0x30000000000FFFF8), (7, 0x4000000000000000), (8, 1024)]
     let s := wg g
     s.issuing g ∧ (g.sreg 4).toNat = 2 ^ 60 + 3 ∧ 3 < s.tagsOf g.team ∧ (g.sreg 5).toNat = 2 * 2 ^ 60 + 7 ∧
       (g.sreg 6).toNat = 3 * 2 ^ 60 + 0xFFFF8 ∧ 4 * 2 ^ 60 ≤ (g.sreg 7).toNat ∧ (g.sreg 8).toNat = 1024 * 1 + 0 ∧ 0 < (s.recOf g).ntb ∧
       (g.sreg 2).toNat ≠ 0 ∧ (g.sreg 1).toNat + (g.sreg 2).toNat ≤ (g.seg 0).limit ∧ (g.sreg 1).toNat % 128 = 0 ∧ (g.sreg 2).toNat % 128 = 0 ∧
       (g.sreg 0).toNat = 0 ∧ (g.seg 0).limit < (g.sreg 1).toNat + (g.sreg 3).toNat ∧ (g.sreg 3).toNat % 128 ≠ 0 ∧
       (s.ctxOf g).binds.length < 512 ∧ (s.ctxOf g).binds = [] ∧
       -- The first name beyond each kind: a gang barrier, a team barrier beyond the grant, a level, a bit that must be zero, a tag, a queue, a key, a kind.
       4 / 1024 = 0 ∧ (s.recOf g).ntb ≤ 1025 % 16 ∧ 5 ≤ 5120 / 1024 ∧ 1040 / 16 % 64 ≠ 0 ∧ 2 ^ 13 ≤ 8192 ∧ s.tagsOf g.team ≤ 4 ∧ 8 ≤ 8 ∧
       (2 ^ 60 + 4) / 2 ^ 60 = 1 ∧ (2 * 2 ^ 60 + 8) / 2 ^ 60 = 2 ∧ (3 * 2 ^ 60 + 2 ^ 57) / 2 ^ 60 = 3) ∧
    (w0.issuing gang0 ∧ Tbl.at? w0.ctxs (w0.asidOf gang0) = some ctx0 ∧ gang0.wcs = [] ∧ ctx0.events.getLsbD 255 = false ∧
      ({ ctx0 with events := BitVec.twoPow 256 255 } : Ctx).events.getLsbD 255 = true) :=
  ⟨⟨rfl, by decide +kernel⟩, rfl, rfl, rfl, by decide +kernel⟩

/-- A legal launch record of R92 at physical 0x100000: one gang, one team, one cluster, one register per lane. -/
def record0 : Mem :=
  [(0x100010, 1), (0x100011, 1), (0x100014, 1), (0x100018, 1), (0x10001C, 1), (0x100020, 1)]

/-- A device-fed queue whose slots lie at virtual 0x18000. -/
def devQueue : Queue := { Queue.blank with en := true, prod := true, base := 0x18000 }

/-- What LAUNCH reads of a record at virtual 0x10000, for a queue whose slots lie at `base`, and whether the record could be appended. -/
def launchRead (m : Mem) (base : Nat) : Option (List Byte × Bool) :=
  let s := { world { ctx0 with queues := [(0, { devQueue with base := base })] } team0 gang0 with mem := m }
  match (s.drainScalar s.cur).readRange (.scalar s.cur) 1 1 0 (.core 0) 0x10000 192 (fun s pa n seen => s.coreRead 0 1 pa n seen) with
  | .bytes r bs none => some (bs, (r.appendRecord 1 0 bs).2)
  | _ => none

def recordBytes : List Byte := Mem.read record0 0x100000 192

/-- A legal record is accepted; one of zeros is malformed; one that needs more than a core holds is too large. -/
theorem record0_gives : w0.recordGives 0 0x10000 recordBytes 0 := by
  refine Or.inr ⟨?_, Or.inr ⟨by decide +kernel, Or.inr ⟨rfl, by decide +kernel⟩⟩⟩
  repeat' apply And.intro
  all_goals decide +kernel

theorem zeros_give : w0.recordGives 0 0x10000 (List.replicate 192 0) 2 := by
  refine Or.inl ⟨rfl, fun h => ?_⟩
  obtain ⟨-, -, -, -, -, -, -, -, -, -, -, -, h, -⟩ := h
  exact absurd h (by decide +kernel)

theorem witness_Launches :
    let c := { ctx0 with queues := [(0, devQueue)] }
    let g := gs [(1, 0xFF41)]
    let s := world c team0 g
    s.issuing g ∧ g.wcs = [] ∧ Tbl.at? s.ctxs (s.asidOf g) = some c ∧ devQueue.prod = true ∧ devQueue.ferr = false ∧
      (devQueue.tail - devQueue.head).toNat < 2 ^ devQueue.log2s ∧ (g.seg 0).limit < (g.sreg 1).toNat + 192 ∧
      (g.sreg 0).toNat + 192 ≤ (g.seg 0).limit ∧ launchRead (tables ++ record0) 0x18000 = some (recordBytes, true) ∧
      launchRead (tables ++ record0) 0x50000 = some (recordBytes, false) ∧ launchRead tables 0x18000 = some (List.replicate 192 0, true) ∧
      (Tbl.atD ctx0.queues 0 Queue.blank).prod = false := ⟨rfl, rfl, rfl, by decide +kernel⟩

def copy0 : Copy :=
  { op := none, seq := 0, gang := 1, gidx := 0, tag := 0, dseg := 1, sseg := 1, dst := 0, src := 128, count := 128, prog := 0, engine := some 0,
    fault := none, landing := none }

/-- A copy within S of the most bytes it holds, one byte more, a misaligned reduction, one of no bytes, and 32 commands already accepted. -/
theorem witness_CopyCommands :
    let g := gs [(2, 0), (3, 0), (4, 1024), (5, 1025), (6, 6), (7, 6)]
    let t := { team0 with copies := List.replicate 32 copy0 }
    let s := wg g
    (s.issuing g ∧ (world ctx0 t g).issuing g ∧ Tbl.at? s.teams g.team = some team0) ∧ (2 : SReg).toNat % 2 = 0 ∧
      (3 : BitVec 6).toNat < s.tagsOf g.team ∧ s.tagsOf g.team ≤ (4 : BitVec 6).toNat ∧
      (g.sreg 4).toNat ≤ 2 ^ 40 ∧ g.fits (s.regsOf g) 1 (g.sreg 2).toNat (g.sreg 4).toNat = true ∧ (g.seg 1).ros = false ∧
      (∀ l ∈ s.frozenAt g 1, overlap (g.sreg 2).toNat (g.sreg 4).toNat l 128 = false) ∧
      g.fits (s.regsOf g) 1 (g.sreg 2).toNat (g.sreg 5).toNat = false ∧ (g.sreg 6).toNat % 4 ≠ 0 ∧ (g.sreg 0).toNat = 0 ∧
      32 ≤ t.copies.length ∧ team0.copies.length < 32 ∧ (team0.tag 3).count + (g.sreg 4).toNat < 2 ^ 48 :=
  ⟨⟨rfl, rfl, rfl⟩, by decide +kernel⟩

/-- The record of an ACCZ of tile 0 (R89, R201). -/
def acczRecord : List Byte := 4 :: List.replicate 63 0

theorem accz_legal : taskLegal acczRecord 4 4 1024 := by
  have h : ∀ n, taskWrites acczRecord n → n = 0 := by
    intro n h
    have e : field acczRecord 0 1 = 4 ∧ field acczRecord 2 1 % 64 = 0 ∧ field acczRecord 30 1 % 2 = 0 := by decide +kernel
    simp only [taskWrites, e] at h
    simpa using h
  have r : ∀ n, ¬ taskReads acczRecord n := by
    intro n h
    have e : field acczRecord 0 1 = 4 := by decide +kernel
    simp [taskReads, e] at h
  unfold taskLegal
  and_intros
  all_goals first
    | decide +kernel
    | exact fun n w => by have := h n w; omega
    | exact fun n w => absurd w (r n)
    | exact fun _ n _ => r n

theorem zeros_illegal : ¬ taskLegal (List.replicate 64 0) 4 4 1024 := fun h => absurd h.1 (by decide +kernel)

/-- The record of an ACCZ of tile 0 at scratchpad offset 960; one with opcode 0; limits of R190. -/
theorem witness_TaskEnqueue :
    let g := gs [(1, 960), (2, 961), (3, 32)]
    let s := { wg g with store := [((wg g).scratchAddr 1 960, 4)] }
    let r := s.recOf g
    let k : Task := { rcd := [], enq := 0, gang := 1, gidx := 0, soff := 0, ctv := 0, rmd := 1, prog := 0, engine := none, wait0 := true,
                      wait1 := true, tensA := none, tensB := none, flags := 0, fault := none }
    (s.issuing g ∧ Tbl.at? s.teams g.team = some team0) ∧ (g.sreg 1).toNat + 64 ≤ (g.seg 1).limit ∧ (g.sreg 1).toNat % 64 = 0 ∧
      (g.seg 1).limit < (g.sreg 2).toNat + 64 ∧ (g.sreg 3).toNat % 64 ≠ 0 ∧ (g.sreg 3).toNat + 64 ≤ (g.seg 1).limit ∧
      poisoned s.storeBad (s.scratchAddr 1 960) 64 = false ∧ s.store.read (s.scratchAddr 1 960) 64 = acczRecord ∧
      s.store.read (s.scratchAddr 1 0) 64 = List.replicate 64 0 ∧ r.tiles = 4 ∧ r.tags = 4 ∧ r.scratch = 1024 ∧ team0.tasks.length < 64 ∧
      64 ≤ ({ team0 with tasks := List.replicate 64 k } : Team).tasks.length := ⟨⟨rfl, rfl⟩, by decide +kernel⟩

theorem witness_CodeTableSet :
    let g := gs [(1, 960), (2, 961), (3, 32)]
    let s := wg g
    let s' := { s with store := [(s.scratchAddr 1 994, 1)] }
    (s.issuing g ∧ s'.issuing g ∧ Tbl.at? s.teams g.team = some team0) ∧ (g.sreg 1).toNat + 64 ≤ (g.seg 1).limit ∧ (g.sreg 1).toNat % 64 = 0 ∧
      (g.seg 1).limit < (g.sreg 2).toNat + 64 ∧ (g.sreg 3).toNat % 64 ≠ 0 ∧ poisoned s.storeBad (s.scratchAddr 1 960) 64 = false ∧
      (∀ b ∈ (s.store.read (s.scratchAddr 1 960) 64).drop 34, b = 0) ∧ (∃ b ∈ (s'.store.read (s.scratchAddr 1 960) 64).drop 34, b ≠ 0) ∧
      team0.tasks = [] := ⟨⟨rfl, rfl, rfl⟩, by decide +kernel⟩

def shadow0 : Shadow := { base := 0x10000, len := 65536, twin := 0x30000, gen := 0 }

/-- Tables that reserve the page at virtual 0x30000 for shadows (R298, R299): kind 4. -/
def shadowTables : Mem := tables ++ [(0x1C01F, 0x40)]

theorem witness_ShadowsAndPublishing :
    (let g := { gs [(1, 0), (2, 65536), (3, 32768)] with segs := [(0, { base := 0x10000, lim := 0x40000 })] }
     let s := { wg g with mem := shadowTables, parts := [(0, { Partition.blank with pool := [0x200000], poolTotal := 1 })] }
     (s.issuing g ∧ Tbl.at? s.ctxs (s.asidOf g) = some ctx0) ∧ (g.sreg 1).toNat + (g.sreg 2).toNat ≤ (g.seg 0).limit ∧ ctx0.shadows = [] ∧
       (0x10000 + (g.sreg 1).toNat) % 65536 = 0 ∧ (g.sreg 2).toNat % 65536 = 0 ∧ (g.sreg 3).toNat % 65536 ≠ 0 ∧
       (s.walkXl (s.walkOf 1 0x10000).2 0x10000 .probe) = .ok 0x100000 0x100017 16 ∧
       endsAt (s.peek 1 0x10000) (.leaf 0x1C008 4 0x100017 16) ∧
       lowestRun (reserveFrom (s.memOf 1) walkLevels 1 ctx0.l1 0) 1 0x10000 0x40000 = some 0x30000 ∧ (s.part 0).pool = [0x200000] ∧
       s.pte4 1 0x30000 = some (0x1C018, 2 ^ 62)) ∧
    (let c := { ctx0 with shadows := [shadow0] }
     let s := world c { team0 with copies := [{ copy0 with dseg := 0, dst := 0x10000 }] } gang0
     (s.issuing gang0 ∧ Tbl.at? s.ctxs (s.asidOf gang0) = some c) ∧ gang0.wcs = [] ∧
       c.shadows.find? (fun y => y.base = 0x10000 && y.len = 65536) = some shadow0 ∧ c.shadows.find? (fun y => y.base = 0x10000) = some shadow0 ∧
       overlap 0x10000 128 shadow0.base shadow0.len = true) :=
  ⟨⟨⟨rfl, rfl⟩, by decide +kernel⟩, ⟨rfl, rfl⟩, by decide +kernel⟩

/-- TRCHK at the last byte of its segment and past it; a leaf, an entry with V = 0, a pool entry and a malformed one. -/
theorem witness_TranslationProbe :
    let g := { gs [(1, 0x2FFFF), (2, 0x30000)] with segs := [(0, { base := 0x10000, lim := 0x30000 })] }
    let s := { wg g with mem := poolTables }
    s.issuing g ∧ (g.sreg 1).toNat < (g.seg 0).limit ∧ (g.seg 0).limit ≤ (g.sreg 2).toNat ∧ endsAt (s.peek 1 0x10000) (.leaf 0x1C008 4 0x100017 16) ∧
      pteHost 0x100017 = false ∧ endsAt (s.peek 1 0x20000) (.unmapped 0x1C010 4 0) ∧ endsAt (s.peek 1 0x3FFFF) (.unmapped 0x1C018 4 (2 ^ 58)) ∧
      endsAt (s.peek 1 0x40000) .malformed := ⟨rfl, by decide +kernel⟩

/-- Templates below and at their depth, counts at the edge of 32 bits, and gangs whose lanes or copies have not ended. -/
theorem witness_Templates :
    let g := { gs [(1, 0xFFFFFFFF), (2, 0x100000000), (3, 0xFFF8)] with stamp := some 1 }
    let s := wg g
    (s.issuing g ∧ (world ctx0 { team0 with copies := [copy0] } g).issuing g ∧ (wg { g with ntpl := 1 }).issuing { g with ntpl := 1 }) ∧
      (∀ c, Tbl.atD g.wcl c [] = []) ∧ g.ntpl ≠ (s.recOf g).tdepth ∧ (1 : Nat) = (s.recOf g).tdepth ∧ (g.sreg 1).toNat < 2 ^ 32 ∧
      2 ^ 32 ≤ (g.sreg 2).toNat ∧ g.stts.length < 16 ∧ (g.sreg 3).toNat + 8 ≤ (g.seg 0).limit ∧ (g.seg 0).ros = false ∧
      ((g.seg 0).baseN + (g.sreg 3).toNat) % 8 = 0 ∧ (s.templatesOf g.team).length + 1 < (s.recOf g).gangs ∧ g.queue = [] ∧ g.block = none ∧
      s.requests = [] ∧ g.wcs = [] ∧ (s.team g.team).copies = [] ∧ copy0.gang = s.cur ∧ g.tplOf = none :=
  ⟨⟨rfl, rfl, rfl⟩, fun _ => rfl, by decide +kernel⟩

theorem witness_EndsOfTheStream :
    (w0.issuing gang0 ∧ gang0.preq = none) ∧
    (let g := { gang0 with preq := some 7 }
     (wg g).issuing g ∧ (world { ctx0 with pvec := 0x10800 } team0 g).issuing g ∧ g.priv = false ∧ ((wg g).ctxOf g).pvec = 0 ∧ g.run = .run ∧
       g.pframe = none ∧ ((world { ctx0 with pvec := 0x10800 } team0 g).ctxOf g).pvec ≠ 0) ∧
    (let g := { gs [(1, 0x10004), (2, 0x10002)] with pframe := some (gang0.laneFrame 0x10000) }
     (wg g).issuing g ∧ g.pframe.isSome ∧ g.priv = false ∧ (g.sreg 1).toNat % 4 = 0 ∧ (g.sreg 2).toNat % 4 ≠ 0 ∧ g.wcs = [] ∧
       (∀ c, Tbl.atD g.wcl c [] = []) ∧ (wg g).gangWritesOut (wg g).cur = false ∧ ({ wg g with requests := [write0] } : State).gangWritesOut 1 = true) :=
  ⟨⟨rfl, rfl⟩, ⟨rfl, rfl, by decide +kernel⟩, rfl, rfl, rfl, by decide +kernel, by decide +kernel, rfl, fun _ => rfl, by decide +kernel⟩

def heldSlot : RowSlot := { RowSlot.blank with st := .held, row := 1024, mask := 1 }

theorem witness_RowSlots :
    let g := { gs [(1, 0xFC00), (2, 0xFC01), (3, 4)] with segs := gang0.segs }
    let s := wg g
    let t := { team0 with rows := [(1, heldSlot)] }
    (s.issuing g ∧ (world ctx0 t g).issuing g ∧ Tbl.at? s.teams g.team = some team0 ∧ Tbl.at? (world ctx0 t g).teams g.team = some t) ∧
      (∀ c, Tbl.atD g.wcl c [] = []) ∧ (1 : BitVec 3).toNat < (s.recOf g).rows ∧ ¬ (2 : BitVec 3).toNat < (s.recOf g).rows ∧
      (g.sreg 1).toNat + 1024 ≤ (g.seg 0).limit ∧ ((g.seg 0).baseN + (g.sreg 1).toNat) % 1024 = 0 ∧ (g.seg 0).limit < (g.sreg 2).toNat + 1024 ∧
      ((g.seg 0).baseN + (g.sreg 3).toNat) % 1024 ≠ 0 ∧ (s.translateFor (.scalar 1) (.core 0) 1 0x1FC00 .rowpin).2 = .ok 0x10FC00 0x100017 16 ∧
      (team0.row 1).st = .free ∧ (t.row 1).st = .held ∧ (t.row 1).saved = false ∧ (t.row 1).why < 8 ∧ g.queue = [] ∧ g.block = none ∧ s.requests = [] ∧
      (let r : RowRef := { team := 1, slot := 1, opens := 1, dirty := 1 }
       let e : RowEntry := { row := 1024, asid := 1, slots := [r] }
       ([e].find? fun e => e.row = (t.row 1).row) = some e ∧ (e.slots.find? fun z => z.team = g.team && z.slot = (1 : BitVec 3).toNat) = some r ∧
         ∀ z ∈ e.slots, z.team = g.team ∧ z.slot = (1 : BitVec 3).toNat) :=
  ⟨⟨rfl, rfl, rfl, rfl⟩, fun _ => rfl, by decide +kernel⟩

theorem witness_PowerAndTraceWords :
    let c := { ctx0 with tren := true }
    let s := world c team0 gang0
    (w0.issuing gang0 ∧ s.issuing gang0) ∧ (w0.part (w0.ctxOf gang0).part).opfast ≤ (15 : BitVec 4).toNat ∧
      (15 : BitVec 4).toNat ≤ (w0.part (w0.ctxOf gang0).part).opslow ∧ ¬ (w0.part (w0.ctxOf gang0).part).opfast ≤ (1 : BitVec 4).toNat ∧
      (Tbl.at? w0.regions (w0.regOf gang0)).isSome ∧ c.tren = true ∧ c.trts = false ∧ gang0.tr.due = none ∧ (∀ v ∈ s.gangsOnCore 0 1, (s.gang v).tr.due ≠ some 7) ∧
      (s.traceBuf 0 1).lost = 0 ∧
      (s.traceBuf 0 1).bytes.length + 4 ≤ s.traceShare 0 ∧ (w0.ctxOf gang0).tren = false := ⟨⟨rfl, rfl⟩, by decide +kernel⟩

/-- Control words of eight cells, two of which have no live lane; mask stacks with an entry and room, and empty; a tag without a count. -/
theorem witness_ControlCharges :
    let g : Gang := { laneGang gang0 with
      lanes := gang0.lanes.map fun e => (e.1, { e.2 with exited := decide (24 ≤ e.1) })
      cells := (List.range 8).map fun c => (c, { Cell.blank with run := .run, stack := [15] }) }
    let s := { wg g with cells := List.range 8 }
    let live := s.cells.filter fun x => (List.range 4).any fun k => !(g.lane (4 * x + k)).exited
    (s.issuing g ∧ Tbl.at? s.ctxs (s.asidOf g) = some ctx0) ∧ ctx0.ectr < 2 ^ 48 ∧ live = [0, 1, 2, 3, 4, 5] ∧
      (∀ x ∈ live, (g.cell x).stack ≠ [] ∧ (g.cell x).stack.length < 8) ∧
      (∀ o ∈ [0x81, 0x85, 0x86, 0x87, 0x88, 0x89, 0x8A, 0x8B, 0x8C, 0xD0, 0xD1], laneOk o op0 = true ∧ laneFits o op0 (s.regsOf g) = true) ∧
      (∀ o ∈ [0x80, 0x83, 0x84], laneOk o { op0 with sa := .v 1 } = true) ∧ laneOk 0x82 { op0 with dst := .v 1 } = true ∧
      laneOk 0x87 { op0 with imm := 1 } = false ∧ (0 : Nat) < s.tagsOf g.team ∧ ((s.team g.team).tag 0).count = 0 ∧ s.requests = [] :=
  ⟨⟨rfl, rfl⟩, by decide +kernel⟩

/-- A translation held in the core's TLB, and a line of the home region in L1, at home, in the victim cache, held, and in none of them; a near copy of a
line of another region; a scratchpad offset at its edge; charges that have ended and that have not. -/
theorem witness_EnergyCharges :
    let e : TlbEntry := { asid := 1, vbase := 1, bits := 16, pte := 0x100017 }
    let s := w0.setTlb (.core 0) [e]
    let line := fun (n : Nat) => 0x100000 / 128 + n
    let copy : LineCopy := { bytes := List.replicate 128 0, bad := [] }
    let at_ := fun (n : Nat) => (gs [(1, BitVec.ofNat 64 (128 * n))] : Gang)
    ((s.issuing gang0 ∧ Tbl.at? s.ctxs (s.asidOf gang0) = some ctx0) ∧ ctx0.ectr < 2 ^ 48 ∧ gang0.priv = false ∧ ctx0.tvec ≠ 0 ∧ s.cells = [] ∧
      (1016 : Nat) + 8 ≤ (gang0.seg 1).limit ∧ ((gang0.seg 1).baseN + 1016) % 8 = 0 ∧ (s.readScratch gang0.team 1016 8).2 = false ∧
      (gang0.seg 1).ros = false ∧ s.frozenHit gang0 gang0.team 1016 8 = false ∧ (gang0.seg 1).limit < 1017 + 8) ∧
    ((s.translateFor (.scalar s.cur) (.core 0) 1 0x10008 .load).2 = .ok 0x100008 0x100017 16 ∧
      (s.translateFor (.scalar s.cur) (.core 0) 1 0x10008 .load).1.ctxs = s.ctxs ∧ isPeer 0x100008 = false ∧ isDev 0x100008 = true ∧
      isDev (2 ^ 48) = false ∧ isPeer (2 ^ 48) = false ∧
      (wcLoad gang0.wcs 0x100008 (s.codeAt 0 1 0x100008 8).1 (s.codeAt 0 1 0x100008 8).2).2 = false) ∧
    ((({ s with l1 := [(0, [(line 0, copy)])] } : State).l1Copy 0 (line 0)).isSome ∧ s.l1Copy 0 (line 0) = none ∧
      (({ s with near := [(0, [(line 1, { asid := 1, copy := copy })])] } : State).nearCopy 0 1 (line 1)).isSome ∧
      (∃ n < 64, homeOf (0x100000 + 128 * n) = 0 ∧ s.heldAt (0x100000 + 128 * n) = none ∧ Tbl.at? s.home (line n) = none ∧
        Tbl.at? s.victim (line n) = none ∧
        (({ s with rowTab := [{ row := (0x100000 + 128 * n) / 1024, asid := 1, slots := [{ team := 1, slot := 1, opens := 0xFF, dirty := 0 }] }] } :
          State).heldAt (0x100000 + 128 * n)).isSome) ∧
      (∃ n < 64, homeOf (0x100000 + 128 * n) ≠ 0 ∧ (at_ n).sreg 1 = BitVec.ofNat 64 (128 * n)) ∧
      s.home.length + (Tbl.atD s.near 0 []).length < 16) ∧
    ((s.energy.owed = [] ∧ s.pins = []) ∧ s.ended (.scalar 1) = true ∧
      ({ s with gangs := [(1, { gang0 with wait := .other })] } : State).ended (.scalar 1) = false) ∧
    (∀ x ∈ (wl gang0).cells, ((laneGang gang0).cell x).unpaid = false) :=
  ⟨⟨⟨rfl, by decide +kernel⟩, by decide +kernel⟩, by decide +kernel, by decide +kernel, by decide +kernel, by decide +kernel⟩

/-- Every fault slot in use, and one that is free. -/
theorem witness_RangeWords_slots : (∀ k < 1024, (Tbl.atD (fullCtx 1024).slots k FaultSlot.blank).st ≠ .free) ∧
    (Tbl.atD ctx0.slots 1023 FaultSlot.blank).st = .free := by
  refine ⟨fun k h => ?_, rfl⟩
  rw [show Tbl.atD (fullCtx 1024).slots k FaultSlot.blank = slot0 by simp [Tbl.atD, fullCtx_at h]]
  decide

/-- Tables whose page at virtual 0x10000 belongs to the host (R310). -/
def hostTables : Mem := tables ++ [(0x1C00F, 0x08)]

theorem witness_RangeWords :
    let g := gs [(1, 65536), (2, 65537), (3, 32768)]
    let s := wg g
    let h := { s with mem := hostTables }
    (s.issuing g ∧ h.issuing g ∧ Tbl.at? s.ctxs (s.asidOf g) = some ctx0) ∧ (∀ c, Tbl.atD g.wcl c [] = []) ∧
      (g.sreg 0).toNat + (g.sreg 1).toNat ≤ (g.seg 0).limit ∧ (g.seg 0).limit < (g.sreg 0).toNat + (g.sreg 2).toNat ∧
      (g.sreg 1).toNat % 65536 = 0 ∧ (g.sreg 3).toNat % 65536 ≠ 0 ∧ g.rng = none ∧ s.hostPage 1 0x10000 65536 = none ∧
      (h.hostPage 1 0x10000 65536).isSome ∧ g.priv = false ∧ ctx0.tvec ≠ 0 ∧ ctx0.waiting = [] ∧ g.wcs = [] ∧ s.ctxWritesOut 1 = false ∧
      ({ s with requests := [write0] } : State).ctxWritesOut 1 = true ∧ 0x1C008 % 8 = 0 ∧
      (let r : RngWait := { slot := 1023, base := 0x10000, len := 65536 }
       ({ g with rng := some r } : Gang).rng = some r ∧ (g.seg 0).baseN + (g.sreg 0).toNat = 0x10000 ∧ (g.sreg 1).toNat = 65536 ∧
         ∀ k < 2, let c := { ctx0 with slots := [(1023, { slot0 with st := .replied, owner := .range 1, status := k })] }
           (Tbl.atD c.slots 1023 FaultSlot.blank).st = .replied ∧ (Tbl.atD c.slots 1023 FaultSlot.blank).status = k) ∧
      endsAt (s.peek 1 0x10000) (.leaf 0x1C008 4 0x100017 16) ∧ pteHost 0x100017 = false := ⟨⟨rfl, rfl, rfl⟩, fun _ => rfl, by decide +kernel⟩

/-! ### Witnesses: lane words -/

def lg : Gang := laneGang gang0
def ls : State := wl gang0

theorem ls_issuing : ls.issuing lg := rfl

/-- Words that are legal for a gang, from the checks of R86 and R87. -/
theorem legal_all {s : State} {g : Gang} {w : LaneOp} {l : List Nat} (h : (l.all fun o => laneOk o w && laneFits o w (s.regsOf g)) = true) :
    ∀ o ∈ l, s.legal g o w := by
  intro o ho
  have := List.all_eq_true.mp h o ho
  exact Bool.and_eq_true_iff.mp this

/-- A word of two sources, IMM20 and v2, that writes v1. -/
def wii : LaneOp := { op0 with ty := .i32, dst := .v 1, sa := .imm, sb := .v 2, imm := 5 }

/-- The three-source words, the comparisons at the highest FN, VSEL by each half of FN, and VADC with p7; leading zeros and bit fields of 5. -/
theorem witness_LaneIntegers :
    (∀ o ∈ [0x00, 0x01, 0x02, 0x03, 0x05, 0x06, 0x09, 0x0A, 0x0B, 0x0C, 0x0D, 0x0F, 0x10, 0x11, 0x12, 0x15], ls.legal lg o wii) ∧
    (∀ o ∈ [0x04, 0x1A, 0x1B, 0x16], ls.legal lg o { wii with sc := .v 3 }) ∧
    (∀ o ∈ [0x07, 0x08, 0x0E, 0x13, 0x14], ls.legal lg o { wii with sb := .v 0 }) ∧ (∀ o ∈ [0x17], ls.legal lg o { wii with fn := 5 }) ∧
    (∀ o ∈ [0x18], ls.legal lg o { wii with fn := 15 }) ∧ (∀ o ∈ [0x18, 0x19], ls.legal lg o { wii with fn := 7 }) ∧
    (∀ l ∈ lg.active ls.cells wii, ∀ x ∈ [Src.imm, .v 2, .v 3], (ls.srcInt lg l 32 5 x).2 = false) ∧ lg.active ls.cells wii = List.range 32 ∧
    (∀ l ∈ lg.active ls.cells wii, 29 ≤ 32 ∧ (∀ j, 32 - 29 ≤ j → (ls.srcInt lg l 32 5 .imm).1.testBit j = false) ∧
      (29 < 32 → (ls.srcInt lg l 32 5 .imm).1.testBit (32 - 1 - 29) = true)) := by
  and_intros
  all_goals first
    | exact legal_all (by decide +kernel)
    | decide +kernel
    | skip
  intro l _
  refine ⟨by decide, fun j h => ?_, fun _ => (by decide : Nat.testBit 5 2 = true)⟩
  show Nat.testBit 5 j = false
  exact Nat.testBit_lt_two_pow (Nat.lt_of_lt_of_le (by decide : 5 < 2 ^ 3) (Nat.pow_le_pow_right (by decide) h))

def wff : LaneOp := { op0 with ty := .f32, dst := .v 1, sa := .imm, sb := .v 2, imm := 5 }

theorem witness_LaneFloats :
    (∀ o ∈ [0x30, 0x31, 0x32, 0x34, 0x35, 0x38, 0x3D], ls.legal lg o wff) ∧ (∀ o ∈ [0x33], ls.legal lg o { wff with sc := .v 3 }) ∧
    (∀ o ∈ [0x36, 0x37, 0x39, 0x3C, 0x3E], ls.legal lg o { wff with sb := .v 0 }) ∧ (∀ o ∈ [0x34, 0x35], ls.legal lg o { wff with fn := 1 }) ∧
    (∀ o ∈ [0x3A], ls.legal lg o { wff with sb := .v 0, fn := 7 }) ∧ (∀ o ∈ [0x3B], ls.legal lg o { wff with fn := 15 }) ∧
    (∀ o ∈ [0x3F], ls.legal lg o { wff with ty := .bf16, sc := .v 3 }) ∧
    (∀ l ∈ lg.active ls.cells wff, ∀ x ∈ [Src.imm, .v 2, .v 3], (ls.srcFlt lg l .f32 (lg.rmOf wff.rm) 5 x).2 = false ∧
      (ls.srcFlt lg l .f32 .rne 5 x).2 = false ∧ (ls.srcInt lg l 32 5 x).2 = false) := by
  and_intros
  all_goals first
    | exact legal_all (by decide +kernel)
    | decide +kernel

/-- Codes on either side of the limits of R44: the greatest finite one, infinity, and NaNs of both kinds; finite values of either sign, 0 and not. -/
theorem witness_RoundedResults :
    Fmt.f32 ∈ [Fmt.f64, .f32, .f16, .bf16] ∧ Rm.rne ≠ Rm.dyn ∧
    (0xFF7FFFFF < 2 ^ Fmt.f32.width ∧ 0xFF7FFFFF % 2 ^ 31 < Fmt.f32.top ∧ 0xFF800000 % 2 ^ 31 = Fmt.f32.top ∧ Fmt.f32.top < 0x7F800001 % 2 ^ 31) ∧
    ((FVal.fin true 3 (-1)).isFin = true ∧ (FVal.fin true 3 (-1)).mag ≠ 0 ∧ (FVal.fin true 3 (-1)).neg = true ∧ (FVal.fin false 1 0).neg = false ∧
      (FVal.fin false 1 0).mag ≠ 0 ∧ (FVal.fin true 0 0).mag = 0) := by decide +kernel

theorem witness_LaneConversions :
    let w := { wff with sb := .v 0 }
    (∀ o ∈ [0x40], ls.legal lg o { w with fn := 2 }) ∧ (∀ o ∈ [0x41], ls.legal lg o { w with fn := 6 }) ∧
    (∀ o ∈ [0x42], ls.legal lg o { wff with fn := 6 }) ∧ (∀ o ∈ [0x43], ls.legal lg o w) ∧
    (∀ l ∈ lg.active ls.cells w, (ls.srcCvt lg l (Ty.ofCode 2) (lg.rmOf w.rm) 5 .imm).2 = false ∧
      (ls.srcFlt lg l .f32 (lg.rmOf w.rm) 5 .imm).2 = false ∧ (ls.srcFlt lg l .f32 .rne 5 .imm).2 = false ∧
      (ls.srcInt lg l 32 5 .imm).2 = false ∧ (ls.srcInt lg l 32 5 (.v 2)).2 = false) :=
  ⟨legal_all (by decide +kernel), legal_all (by decide +kernel), legal_all (by decide +kernel), legal_all (by decide +kernel), by decide +kernel⟩

/-- A type of each kind, as source and as destination; codes below, at and above the limits; blocks with a greatest magnitude between powers of two, of zeros, with
an infinity, and with a NaN; scales and element codes at their edges. -/
theorem witness_RoundedConversions :
    (Rm.rne ≠ Rm.dyn ∧ 0x7E < 2 ^ Ty.e4m3.width ∧ 0x7E % 2 ^ 7 < Fmt.e4m3.top ∧ Fmt.e4m3.top ≤ 0x7F % 2 ^ 7 ∧ Ty.fmt? .e4m3 = some Fmt.e4m3 ∧
      Ty.e4m3.binary = false ∧ Ty.fmt? .f32 = some Fmt.f32 ∧ Ty.f32.binary = true ∧ Ty.fmt? .i8 = none ∧
      (Ty.source .f32 false 0xC0400000).isFin = true ∧ (Ty.source .f32 false 0xC0400000).mag ≠ 0 ∧ (Ty.source .f32 false 0).mag = 0 ∧
      Ty.source .f32 false 0xFF800000 = .inf true ∧ Ty.source .f32 false 0x7F800001 = .nan true) ∧
    (let vals := fun (l : List Nat) => l.map (Fmt.f32.read false)
     (∀ y ∈ vals [0x3F800000, 0x40400000], y.isFin = true) ∧ (∃ y ∈ vals [0x3F800000, 0x40400000], (2 : Rat) ^ (1 : Int) ≤ y.mag) ∧
       (∀ y ∈ vals [0x3F800000, 0x40400000], y.mag < (2 : Rat) ^ ((1 : Int) + 1)) ∧ (∀ y ∈ vals [0, 0x80000000], y.mag = 0) ∧
       (∃ y ∈ vals [0x7F800000, 0], y.isFin = false) ∧ (∃ y ∈ vals [0x7F800001, 0], y.isNan = true) ∧
       ∀ y ∈ vals [0x3F800000, 0x7F800000], y.isNan = false) ∧
    (255 % 256 = 255 ∧ ¬ (254 % 256 = 255) ∧ 0x80 % 256 = 0x80 ∧ ¬ (5 = 6 ∧ 0x80 % 256 = 0x80) ∧ MFmt.e4m3.flt = some Fmt.e4m3) := by decide +kernel

/-- The words that move data; masks of a vote, extremes and bitwise reductions where every lane holds 5. -/
theorem witness_LaneMoves :
    let w := { wii with sb := .v 0 }
    (∀ o ∈ [0x60, 0x63, 0x64], ls.legal lg o w) ∧ (∀ o ∈ [0x61], ls.legal lg o wii) ∧ (∀ o ∈ [0x62], ls.legal lg o { wii with sb := .k 15 }) ∧
    (∀ o ∈ [0x63], ls.legal lg o { w with fn := 5 }) ∧ (∀ o ∈ [0x64], ls.legal lg o { w with fn := 13 }) ∧
    (∀ o ∈ [0x65], ls.legal lg o { w with ty := .i8, fn := 3 }) ∧ (∀ o ∈ [0x66], ls.legal lg o { w with ty := .i8, fn := 0 }) ∧
    (∀ o ∈ [0x66], ls.legal lg o { op0 with dst := .v 1, fn := 1 }) ∧
    (∀ o ∈ [0x66], ls.legal lg o { op0 with sa := .v 1, fn := 2 }) ∧
    (∀ l ∈ lg.active ls.cells w, (ls.srcTy lg l .i32 .rne 5 .imm).2 = false ∧ (ls.srcInt lg l 32 5 (.v 2)).2 = false ∧
      (ls.srcTy lg ((ls.srcInt lg l 32 5 (.v 2)).1 % 32) .i32 .rne 5 .imm).2 = false ∧
      (ls.srcTy lg l .i32 (lg.rmOf w.rm) 5 .imm).2 = false ∧ (ls.srcInt lg l 32 5 .imm).2 = false) ∧
    (∀ l < 32, (2 ^ 32 - 1).testBit l = decide (l ∈ lg.active ls.cells w ∧ (ls.srcInt lg l 32 5 .imm).1 ≠ 0)) ∧
    (∀ l ∈ lg.active ls.cells w, Ty.int .i32 (ls.srcInt lg 31 32 5 .imm).1 ≤ Ty.int .i32 (ls.srcInt lg l 32 5 .imm).1) ∧
    (∀ j < 32, (5 : Nat).testBit j = decide (∀ l ∈ lg.active ls.cells w, (ls.srcInt lg l 32 5 .imm).1.testBit j = true)) ∧
    (∀ j < 32, (5 : Nat).testBit j = decide (∃ l ∈ lg.active ls.cells w, (ls.srcInt lg l 32 5 .imm).1.testBit j = true)) ∧
    lg.active ls.cells w ≠ [] := by
  and_intros
  all_goals first
    | exact legal_all (by decide +kernel)
    | decide +kernel

/-- The checks of `State.reaches`, evaluated. -/
def reachesB (s : State) (g : Gang) (w : LaneOp) (sg : Nat) (store : Bool) (acc : Acc) (at_ : Nat → Target) : Bool :=
  let act := g.active s.cells w
  let place := fun l => g.place (s.regsOf g) sg (s.laneOff g w (decide (sg = 0)) l) (accBytes w.ty) store
  act.all (fun l => !(s.srcAddr g l (decide (sg = 0)) w.sa).2) &&
    act.all (fun l => match place l with
      | .bad _ _ => false
      | _ => true) &&
    decide ((s.laneTargets g acc (act.map fun l => (l, place l))).2 = act.map (fun l => (l, at_ l))) &&
    act.all fun l => match at_ l with
      | .fault _ => false
      | .pa a => decide (a % 128 + accBytes w.ty ≤ 128)
      | _ => true

theorem reaches_of {s : State} {g : Gang} {w : LaneOp} {sg : Nat} {store : Bool} {acc : Acc} {at_ : Nat → Target}
    (h : reachesB s g w sg store acc at_ = true) : s.reaches g w sg store acc at_ := by
  simp only [reachesB, Bool.and_eq_true, List.all_eq_true, decide_eq_true_eq] at h
  obtain ⟨⟨⟨h1, h2⟩, h3⟩, h4⟩ := h
  refine ⟨fun l hl => by simpa using h1 l hl, fun l hl c a e => ?_, h3, fun l hl => ⟨fun k e => ?_, fun a e => ?_⟩⟩
  · have := h2 l hl
    dsimp only at e
    rw [e] at this
    cases this
  · have := h4 l hl
    rw [e] at this
    cases this
  · have := h4 l hl
    rw [e] at this
    simpa using this

theorem nearby_of {act : List Nat} {a : Nat} (h : isPeer a = false) : nearby act fun _ => .pa a := by
  intro _ _ b e
  cases e
  exact h

theorem nearby_off {act : List Nat} {o : Nat} : nearby act fun _ => .off o := by
  intro _ _ b e
  cases e

theorem unshared_one {s : State} {g : Gang} (h : s.gangs = [(1, g)]) (e : g.shared = []) : s.unshared := by
  intro v x hx
  rw [h] at hx
  simp only [Tbl.at?] at hx
  split at hx
  · cases hx
    exact e
  · cases hx

theorem apart_of {s : State} {g : Gang} {w : LaneOp} {sg l k a : Nat} {at_ : Nat → Target} (h : s.storeAddr g sg (at_ l) = some a)
    (d : ∀ r ∈ dstRegs w.dst (w.ty.width = 64) 0, a + accBytes w.ty ≤ s.regAddr g r.1 k ∨ s.regAddr g r.1 k + 4 ≤ a) : s.apart g w sg at_ l k := by
  intro b e
  cases h.symm.trans e
  exact d

/-- A lane access of 4 bytes through v2, with IMM20 as its offset, that loads v1 or stores v4. -/
def wld (imm : BitVec 20) (fn : BitVec 4) : LaneOp := { op0 with ty := .i32, fn := fn, dst := .v 1, sa := .v 2, imm := imm }
def wst (imm : BitVec 20) (fn : BitVec 4) : LaneOp := { op0 with ty := .i32, fn := fn, sa := .v 2, sb := .v 4, imm := imm }

/-- A word of a wrong type; a poisoned source in one lane; offsets one byte past each segment, and misaligned ones; a read-only G. -/
theorem witness_LaneTraps :
    (laneInstr 0x00 { op0 with ty := .f32 } = some (.vadd { op0 with ty := .f32 }) ∧ ¬ ls.legal lg 0x00 { op0 with ty := .f32 }) ∧
    (let s := { ls with storeBad := [ls.regAddr lg 2 3] }
     s.issuing lg ∧ (∀ o ∈ [0x00], s.legal lg o { wii with sa := .v 2, imm := 0 }) ∧ (∀ o ∈ [0x63], s.legal lg o { wii with sa := .v 2, sb := .v 0, imm := 0 }) ∧
       (lg.active s.cells wii).filter (fun l => (s.srcInt lg l 32 5 (.v 2)).2) = [3]) ∧
    (lg.priv = false ∧ (ls.ctxOf lg).tvec ≠ 0) ∧
    (∀ o ∈ [0xA0, 0xA2, 0xAD], ls.legal lg o (wld 0x10000 0)) ∧ (∀ o ∈ [0xA1, 0xA3, 0xA4, 0xA7], ls.legal lg o (wst 0xFFFD 0)) ∧
    (∀ o ∈ [0xA5], ls.legal lg o { wst 1021 8 with dst := .v 1 }) ∧ (∀ o ∈ [0xA6], ls.legal lg o (wst 1021 8)) ∧
    (∀ l ∈ lg.active ls.cells (wld 0x10000 0), (lg.seg 0).limit < ls.laneOff lg (wld 0x10000 0) true l + 4 ∧
      (lg.seg 0).limit < ls.laneOff lg (wst 0xFFFD 0) true l + 4 ∧ ls.laneOff lg (wst 0xFFFC 0) true l + 4 ≤ (lg.seg 0).limit ∧
      ls.laneOff lg (wst 0xFFFA 0) true l + 4 ≤ (lg.seg 0).limit ∧ ((lg.seg 0).baseN + ls.laneOff lg (wst 0xFFFA 0) true l) % 4 ≠ 0 ∧
      (lg.seg 1).limit < ls.laneOff lg (wst 1021 8) false l + 4 ∧ ls.laneOff lg (wst 1018 8) false l + 4 ≤ (lg.seg 1).limit ∧
      ls.frozenAtOff lg 1 (ls.laneOff lg (wst 1021 8) false l) 4 = false) := by
  refine ⟨⟨rfl, fun h => absurd h.1 (by decide +kernel)⟩, ⟨rfl, legal_all (by decide +kernel), legal_all (by decide +kernel), by decide +kernel⟩,
    ⟨rfl, by decide +kernel⟩, legal_all (by decide +kernel), legal_all (by decide +kernel), legal_all (by decide +kernel),
    legal_all (by decide +kernel), by decide +kernel⟩

/-- The gang with another mask stack in every cell. -/
def stacked (n : Nat) : Gang :=
  { lg with cells := (List.range 8).map fun c => (c, { Cell.blank with run := .run, stack := List.replicate n 15 }) }

/-- Branch targets of every lane; a stack of 7, where LIF still fits, of 8, where it does not, and of 0, where there is nothing to pop. -/
theorem witness_LaneControl :
    (∀ o ∈ [0x80], ls.legal lg o { op0 with sa := .v 1, imm := 3 }) ∧ (∀ o ∈ [0x81], ls.legal lg o { op0 with imm := 0xFFFFF }) ∧
    (∀ o ∈ [0x82], ls.legal lg o { op0 with dst := .v 1, imm := 3 }) ∧ (∀ o ∈ [0x83, 0x84], ls.legal lg o { op0 with sa := .v 1 }) ∧
    (∀ o ∈ [0x85, 0x86], ls.legal lg o op0) ∧ (∀ o ∈ [0x84], ls.legal lg o { op0 with sa := .imm, imm := 1 }) ∧
    (∀ l ∈ lg.active ls.cells op0, (ls.srcInt lg l 32 0 (.v 1)).2 = false) ∧
    (∀ n ∈ [0, 7, 8], (wl (stacked n)).cells.filter (stacked n).liveCell = List.range 8) ∧
    (∀ n ∈ [0, 7, 8], ∀ c < 8, ((stacked n).cell c).stack.length = n) ∧ ls.cells.Nodup ∧
    ∀ c < 8, ∀ k < 4, (15 : BitVec 4).getLsbD k = (((stacked 7).cell c).mask.getLsbD k && (stacked 7).guard op0 (4 * c + k) &&
      decide ((ls.srcInt (stacked 7) (4 * c + k) 32 1 .imm).1 ≠ 0) &&
      (match ((stacked 7).cell c).pending with | some p => p.getLsbD k | none => true)) := by
  and_intros
  all_goals first
    | exact legal_all (by decide +kernel)
    | decide +kernel

/-- A gang whose first cell issues alone while the others do what `r` says. -/
def firstOf (r : CellRun) : Gang :=
  { lg with cells := (List.range 8).map fun c => (c, { Cell.blank with run := if c = 0 then .run else r }) }
def soloOf (r : CellRun) : State := { wg (firstOf r) with cells := [0] }

/-- The first cell waits while others run, and joins where they all wait; tags at the highest granted name, with a count and without. -/
theorem witness_LaneWaits :
    (∀ r ∈ [CellRun.run, .regang, .lend, .barg 3], (soloOf r).issuing (firstOf r)) ∧
    (∀ o ∈ [0x87, 0x88, 0x89, 0x8A, 0x8B, 0x8C, 0xD1], (soloOf .run).legal (firstOf .run) o op0) ∧
    (∀ o ∈ [0x8B, 0xD0], (soloOf .run).legal (firstOf .run) o { op0 with imm := 3 }) ∧ (∀ o ∈ [0xD0], ls.legal lg o { op0 with imm := 4 }) ∧
    (∀ c, Tbl.atD (firstOf .run).wcl c [] = []) ∧
    (∀ r ∈ [CellRun.run, .regang, .lend, .barg 3],
      ∀ c ∈ (List.range 8).filter (fun c => (firstOf r).liveCell c && !(soloOf r).cells.contains c), ((firstOf r).cell c).run = r) ∧
    (List.range 8).filter (fun c => (firstOf .run).liveCell c && !(soloOf .run).cells.contains c) = [1, 2, 3, 4, 5, 6, 7] ∧
    (∀ c < 8, (Tbl.at? (firstOf .lend).cells c).isSome) ∧ (∀ l < 32, (Tbl.at? lg.lanes l).isSome) ∧
    ((firstOf .run).lane 4).exited = false ∧ 4 ∉ (firstOf .run).active [0] op0 ∧
    (∀ l < 32, l ∈ lg.active ls.cells op0) ∧ ls.tagsOf lg.team = 4 ∧ ((ls.team lg.team).tag 3).count = 0 ∧
    ((({ team0 with tags := [(3, { Tag.blank with count := 1 })] } : Team)).tag 3).count ≠ 0 := by
  refine ⟨?_, legal_all (by decide +kernel), legal_all (by decide +kernel), legal_all (by decide +kernel), fun _ => rfl, by decide +kernel⟩
  intro r _
  rfl

/-- A gang barrier bound at domain scope while a write of the context is on its way; LEND of the first cell while one waits at gang barrier 3 and the others have
ended; LEXIT of a first cell that has no lane left besides its active ones. -/
theorem witness_LaneWaits_barriers :
    (let b : Binding := { base := 0x10000, len := 128, scope := 4, kind := kBarrier, owner := 1, name := 3 }
     let s := { world { ctx0 with binds := [b] } team0 (firstOf .run) with cells := [0], requests := [write0] }
     s.issuing (firstOf .run) ∧ 4 ≤ s.widest (s.asidOf (firstOf .run)) 0 (s.isBar s.cur 3) ∧ s.ctxWritesOut (s.asidOf (firstOf .run)) = true) ∧
    (let g := { lg with cells := (List.range 8).map fun c => (c, { Cell.blank with run := if c = 0 then .run else if c = 1 then .barg 3 else .lend }) }
     let s := { wg g with cells := [0] }
     let others := (List.range 8).filter fun c => g.liveCell c && !s.cells.contains c
     s.issuing g ∧ others = [1, 2, 3, 4, 5, 6, 7] ∧ (g.cell 1).run = .barg 3 ∧ (∀ c ∈ others, (g.cell c).run = .barg 3 ∨ (g.cell c).run = .lend) ∧
       (∀ c < 8, (Tbl.at? g.cells c).isSome) ∧ (∀ l < 32, (Tbl.at? g.lanes l).isSome) ∧ g.active s.cells op0 = [0, 1, 2, 3]) :=
  ⟨⟨rfl, by decide +kernel⟩, rfl, by decide +kernel⟩

/-- Loads of 4 bytes: the last of G, of S, of D, of K and of M; a packed load. -/
theorem witness_LaneLoads :
    (∀ o ∈ [0xA0, 0xA2, 0xAD], ls.legal lg o (wld 0xFFFC 0)) ∧ (∀ o ∈ [0xA0], ls.legal lg o (wld 1020 1)) ∧
    (∀ o ∈ [0xA0], ls.legal lg o (wld 1020 2)) ∧ (∀ o ∈ [0xA0], ls.legal lg o (wld 252 3)) ∧
    ls.reaches lg (wld 0xFFFC 0) 0 false .load (fun _ => .pa 0x10FFFC) ∧ ls.reaches lg (wld 1020 1) 1 false .load (fun _ => .off 1020) ∧
    ls.reaches lg (wld 1020 2) 2 false .load (fun _ => .off 1020) ∧ ls.reaches lg (wld 252 3) 3 false .load (fun _ => .pa 0x1000FC) ∧
    ls.reaches lg (wld 0x7FFFC 0) 5 false .load (fun _ => .off 0x7FFFC) ∧
    (nearby (List.range 32) (fun _ => .pa 0x10FFFC) ∧ nearby (List.range 32) (fun _ => .pa 0x1000FC) ∧ nearby (List.range 32) (fun _ => .off 1020)) ∧
    ls.unshared ∧ (∀ sg ∈ [1, 2], ∀ l < 32, ∀ k < 32, ls.apart lg (wld 1020 1) sg (fun _ => .off 1020) l k) ∧
    (ls.storeAddr lg 2 (.off 1020)).isSome ∧ (∀ l < 32, (ls.found lg l 0 4 (.pa 0x10FFFC)).2 = false) ∧
    (∀ sg ∈ [1, 2, 5], (ls.found lg 0 sg 4 (.off 1020)).2 = false) ∧ poisoned ls.memBad 0x10FFFC 4 = false ∧
    ls.steady 0 1 4 (List.replicate 32 0x10FFFC) ∧ ∀ l k, ls.apart lg (wld 0x7FFFC 0) 5 (fun _ => .off 0x7FFFC) l k := by
  refine ⟨legal_all (by decide +kernel), legal_all (by decide +kernel), legal_all (by decide +kernel), legal_all (by decide +kernel),
    reaches_of (by decide +kernel), reaches_of (by decide +kernel), reaches_of (by decide +kernel), reaches_of (by decide +kernel),
    reaches_of (by decide +kernel), ⟨nearby_of rfl, nearby_of rfl, nearby_off⟩, unshared_one rfl rfl, ?_, by decide +kernel, by decide +kernel,
    by decide +kernel, by decide +kernel, Or.inl ⟨0x10FFFC / 128, fun a h => by rw [List.eq_of_mem_replicate h]⟩,
    fun l k a h => by rw [(by decide +kernel : ls.storeAddr lg 5 (.off 0x7FFFC) = none)] at h; cases h⟩
  intro sg hs l hl k hk
  have h : ls.storeAddr lg sg (.off 1020) = some (64 * 128 + 1020) :=
    (by decide +kernel : ∀ sg ∈ [1, 2], ls.storeAddr lg sg (.off 1020) = some (64 * 128 + 1020)) sg hs
  refine apart_of h ?_
  exact (by decide +kernel : ∀ k < 32, ∀ r ∈ dstRegs (wld 1020 1).dst (Ty.i32.width = 64) 0,
    64 * 128 + 1020 + 4 ≤ ls.regAddr lg r.1 k ∨ ls.regAddr lg r.1 k + 4 ≤ 64 * 128 + 1020) k hk

/-- A lane gang whose G is write-combined. -/
def lwc : Gang := laneGang wcGang

theorem witness_LaneStores :
    (∀ o ∈ [0xA1, 0xA3, 0xA4, 0xAE], ls.legal lg o (wst 0xFFFC 0)) ∧ (∀ o ∈ [0xA1], ls.legal lg o (wst 1020 1)) ∧
    (∀ o ∈ [0xA1], ls.legal lg o (wst 1020 2)) ∧ ls.reaches lg (wst 0xFFFC 0) 0 true .store (fun _ => .pa 0x10FFFC) ∧
    ls.reaches lg (wst 1020 1) 1 true .store (fun _ => .off 1020) ∧ ls.reaches lg (wst 1020 2) 2 true .store (fun _ => .off 1020) ∧
    ls.reaches lg (wst 0x7FFFC 0) 5 true .store (fun _ => .off 0x7FFFC) ∧ (wl wcGang).issuing lwc ∧ (lwc.seg 0).wc = true ∧
    (wl wcGang).reaches lwc (wst 0xFFFC 0) 0 true .store (fun _ => .pa 0x10FFFC) ∧ nearby (List.range 32) (fun _ => .pa 0x10FFFC) ∧ ls.unshared ∧
    (∀ c, Tbl.atD lg.wcl c [] = []) ∧ (lg.seg 0).wc = false ∧ (∀ l < 32, (ls.dataSrc (wst 0xFFFC 0) lg l).2 = false) ∧
    (∀ sg ∈ [1, 2], ls.frozenAtOff lg sg 1020 4 = false) ∧ ls.frozenAtOff lg 5 0x7FFFC 4 = false ∧ ls.mReadOnly (ls.asidOf lg) 0x7FFFC = false :=
  ⟨legal_all (by decide +kernel), legal_all (by decide +kernel), legal_all (by decide +kernel), reaches_of (by decide +kernel),
    reaches_of (by decide +kernel), reaches_of (by decide +kernel), reaches_of (by decide +kernel), rfl, by decide +kernel,
    reaches_of (by decide +kernel), nearby_of rfl, unshared_one rfl rfl, fun _ => rfl, by decide +kernel⟩

/-- Atomics of every lane on one element of G and one of S; the operation with three operands, and minimum. -/
theorem witness_LaneAtomics :
    (∀ o ∈ [0xA5], ls.legal lg o { wst 0xFFFC 0 with dst := .v 1 }) ∧ (∀ o ∈ [0xA5], ls.legal lg o { wst 1020 15 with dst := .v 1, sc := .v 5 }) ∧
    (∀ o ∈ [0xA6], ls.legal lg o { wst 0xFFFC 7 with sc := .v 5 }) ∧ (∀ o ∈ [0xA6], ls.legal lg o (wst 1020 9)) ∧
    ls.reaches lg (wst 0xFFFC 0) 0 true .atomic (fun _ => .pa 0x10FFFC) ∧ ls.reaches lg (wst 1020 15) 1 true .atomic (fun _ => .off 1020) ∧
    nearby (List.range 32) (fun _ => .pa 0x10FFFC) ∧ ls.unshared ∧
    (∀ l < 32, ∀ k < 32, ls.apart lg { wst 1020 15 with dst := .v 1 } 1 (fun _ => .off 1020) l k) ∧ (∀ c, Tbl.atD lg.wcl c [] = []) ∧
    (∀ l < 32, (ls.srcTy lg l .i32 .rne 0 (.v 4)).2 = false ∧ (ls.srcTy lg l .i32 .rne 0 (.v 5)).2 = false) ∧
    ls.frozenAtOff lg 1 1020 4 = false ∧ poisoned ls.memBad 0x10FFFC 4 = false ∧ ls.storeAddr lg 1 (.off 1020) = some (64 * 128 + 1020) ∧
    poisoned ls.storeBad (64 * 128 + 1020) 4 = false := by
  refine ⟨legal_all (by decide +kernel), legal_all (by decide +kernel), legal_all (by decide +kernel), legal_all (by decide +kernel),
    reaches_of (by decide +kernel), reaches_of (by decide +kernel), nearby_of rfl, unshared_one rfl rfl, ?_, fun _ => rfl, by decide +kernel⟩
  intro l hl k hk
  have h : ls.storeAddr lg 1 (.off 1020) = some (64 * 128 + 1020) := by decide +kernel
  refine apart_of h ?_
  exact (by decide +kernel : ∀ k < 32, ∀ r ∈ dstRegs (.v 1) (Ty.i32.width = 64) 0,
    64 * 128 + 1020 + 4 ≤ ls.regAddr lg r.1 k ∨ ls.regAddr lg r.1 k + 4 ≤ 64 * 128 + 1020) k hk

theorem far_of {act : List Nat} {a : Nat} (h : isPeer a = true) : far act fun _ => .pa a := fun _ _ => ⟨a, rfl, h⟩

/-- Lanes whose elements lie in another device's memory: asked for, and answered. -/
theorem witness_LanePeer :
    let s := { ls with mem := peerTables }
    let req := fun (a : Option (List Byte × BitVec 128)) => ({ read0 with tag := 9, who := .lane 1 0, addr := peerAt 0xFFFC, n := 4, answer := a } : Request)
    let on := fun (a : Option (List Byte × BitVec 128)) => ({ s with requests := [req a] } : State)
    s.issuing lg ∧ s.reaches lg (wld 0xFFFC 0) 0 false .load (fun _ => .pa (peerAt 0xFFFC)) ∧
      s.reaches lg (wst 0xFFFC 0) 0 true .store (fun _ => .pa (peerAt 0xFFFC)) ∧ s.reaches lg (wst 0xFFFC 0) 0 true .atomic (fun _ => .pa (peerAt 0xFFFC)) ∧
      far (List.range 32) (fun _ => .pa (peerAt 0xFFFC)) ∧ lineRequests (List.range 32) (fun _ => peerAt 0xFFFC) 4 [(0, peerAt 0xFFFC, 4)] ∧
      lg.active s.cells op0 = List.range 32 ∧ s.requests = [] ∧ (on none).findReq (.lane 1 0) (peerAt 0xFFFC) 4 = some (req none) ∧
      (on (some ([1, 2, 3, 4], 1))).findReq (.lane 1 0) (peerAt 0xFFFC) 4 = some (req (some ([1, 2, 3, 4], 1))) ∧
      ∀ k < 4, (1 : BitVec 128).getLsbD (peerAt 0xFFFC % 128 + k) = false := by
  refine ⟨rfl, reaches_of (by decide +kernel), reaches_of (by decide +kernel), reaches_of (by decide +kernel), far_of (by decide +kernel), ?_, by decide +kernel⟩
  unfold lineRequests
  decide +kernel

/-- A lane gang with 2 KiB of R, whose team's slots 0 and 1 are in the states given. -/
def rowGang : Gang := { lg with segs := Tbl.put lg.segs 4 { base := 0, lim := 2048 } }
def rowWorld (x y : RowState) : State :=
  { world ctx0 { team0 with rows := [(0, { heldSlot with st := x }), (1, { heldSlot with st := y })] } rowGang with cells := List.range 8 }

/-- Offsets of the second slot of R: held, lost, opening and free; the last slot of the last tile, the first offset beyond, and a misaligned one;
tiles of mode 0 and of mode 1. -/
theorem witness_RowAndAccumulatorWords :
    ((rowWorld .held .lost).issuing rowGang ∧ (rowWorld .free .opening).issuing rowGang ∧ ls.issuing lg) ∧
    (∀ o ∈ [0xA8], (rowWorld .held .lost).legal rowGang o (wld 2044 0)) ∧ (∀ o ∈ [0xA9], (rowWorld .held .lost).legal rowGang o (wst 2044 0)) ∧
    (∀ c x, rowGang.place 16 4 2044 4 true ≠ .bad c x) ∧ (rowGang.seg 4).ros = false ∧
    (∀ l < 32, (rowWorld .held .lost).laneOff rowGang (wst 2044 0) false l = 2044 ∧ ((rowWorld .held .lost).srcAddr rowGang l false (.v 2)).2 = false ∧
      ((rowWorld .held .lost).dataSrc (wst 2044 0) rowGang l).2 = false) ∧
    (let r := fun (x y : RowState) (n : Nat) => (((rowWorld x y).team rowGang.team).row n).st
     r .held .lost 0 = .held ∧ r .held .lost 1 = .lost ∧ r .free .opening 0 = .free ∧ r .free .opening 1 = .opening) ∧
    poisoned (rowWorld .held .lost).memBad (1024 * 1024 + 1020) 4 = false ∧
    (∀ o ∈ [0xAA], ls.legal lg o (wld 32760 0)) ∧ (∀ o ∈ [0xAB], ls.legal lg o { op0 with ty := .i64, sa := .v 2, sb := .v 4, sc := .v 6, imm := 32760 }) ∧
    (ls.recOf lg).tiles * 8192 = 32768 ∧ laneOffset 0 (32760 : BitVec 20) = 32760 ∧ laneOffset 0 (32764 : BitVec 20) % 8 ≠ 0 ∧
    (∀ l < 32, (ls.srcAddr lg l false (.v 2)).2 = false ∧ sext 32 (ls.srcInt lg l 32 0 (.v 6)).1 = 0 ∧ (ls.srcInt lg l 32 0 (.v 6)).2 = false ∧
      (ls.srcInt lg l 64 0 (.v 4)).2 = false) ∧
    ls.tileBusy lg 3 = false ∧ metaMode (ls.tileMeta (ls.coreOf lg) 3) = 0 ∧
    (let s := { ls with metas := [(3, 1)] }
     metaMode (s.tileMeta (s.coreOf lg) 3) = 1 ∧ metaUnit (s.tileMeta (s.coreOf lg) 3) = 0) := by
  refine ⟨⟨rfl, rfl, rfl⟩, legal_all (by decide +kernel), legal_all (by decide +kernel), fun c x h => ?_, by decide +kernel, by decide +kernel,
    by decide +kernel, by decide +kernel, legal_all (by decide +kernel), legal_all (by decide +kernel), by decide +kernel⟩
  have : rowGang.place 16 4 2044 4 true = .off 2044 := by decide +kernel
  rw [this] at h
  cases h

/-- A task that writes tile 1, before a lane block enqueued after it: its tile is busy; lanes whose unit no tile takes, and that their tile's state turns away. -/
theorem witness_AccumulatorWords_busy :
    let k : Task := { rcd := [4, 0, 1] ++ List.replicate 61 0, enq := 0, gang := 1, gidx := 0, soff := 0, ctv := 0, rmd := 1, prog := 0, engine := none,
                      wait0 := true, wait1 := true, tensA := none, tensB := none, flags := 0, fault := none }
    let g := { lg with block := some { idx := 0, k := [], den := false, satd := false, rmd := 1, enq := 1 } }
    let w := { op0 with ty := .i64, sa := .v 2, sb := .v 4, sc := .imm, imm := 8192 }
    let s := { world ctx0 { team0 with tasks := [k] } g with cells := List.range 8 }
    (s.issuing g ∧ Tbl.at? s.gangs s.cur = some g) ∧ s.legal g 0xAA (wld 8192 0) ∧ s.legal g 0xAB w ∧
      (∀ l ∈ g.active s.cells w, laneOffset (s.srcAddr g l false w.sa).1 w.imm = 8192 ∧ 8192 < (s.recOf g).tiles * 8192 ∧ s.tileBusy g (8192 / 8192) = true ∧
        127 < sext 32 (s.srcInt g l 32 w.imm w.sc).1) ∧
      (∀ l ∈ lg.active ls.cells op0, ¬ (metaMode 1 = 0) ∧ ¬ (metaMode 1 = 1 ∧ metaUnit 1 = 5)) :=
  ⟨⟨rfl, rfl⟩, legal_all (l := [0xAA]) (by decide +kernel) _ (by decide), legal_all (l := [0xAB]) (by decide +kernel) _ (by decide), by decide +kernel,
    by decide +kernel⟩

/-- Tables whose page at virtual 0x10000 is a multicast-reduce page (R292): kind 1. -/
def groupTables : Mem := tables ++ [(0x1C00C, 0x80), (0x1C00D, 0xFF), (0x1C00E, 0x0F), (0x1C00F, 0x10)]

/-- VFENCE with a write on its way, at the narrowest scope that waits for it, and without; REDMC of a sum. -/
theorem witness_PrefetchSendAndFence :
    (∀ o ∈ [0xAC], ls.legal lg o { op0 with ty := .i32, sa := .v 2, imm := 8 }) ∧ (∀ o ∈ [0xAF], ls.legal lg o { op0 with fn := 4 }) ∧
    (∀ o ∈ [0xAF], ls.legal lg o { op0 with fn := 3 }) ∧ (∀ o ∈ [0xA7], ls.legal lg o (wst 0 1)) ∧ (∀ c, Tbl.atD lg.wcl c [] = []) ∧
    lg.active ls.cells op0 = List.range 32 ∧ lg.active ls.cells { op0 with neg := true } = [] ∧ ls.requests = [] ∧
    (let s := { ls with requests := [{ write0 with who := .lane 1 31 }] }
     (s.requests.any fun r => r.asid = s.asidOf lg && (r.ptype = 1 || r.ptype = 5) && match r.who with
       | .scalar _ | .lane _ _ => true
       | _ => false) = true) ∧
    ({ ls with mem := groupTables } : State).reaches lg (wst 0 1) 0 true .redmc (fun _ => .pa 0xFFF8000100000) ∧ ∀ l < 32, (ls.dataSrc (wst 0 1) lg l).2 = false :=
  ⟨legal_all (by decide +kernel), legal_all (by decide +kernel), legal_all (by decide +kernel), legal_all (by decide +kernel), fun _ => rfl,
    by decide +kernel, by decide +kernel, rfl, by decide +kernel, reaches_of (by decide +kernel), by decide +kernel⟩

/-! ### Witnesses: the host and the fabric -/

/-- Queues enabled and not, at the edges of a tail move; a reply to a waiting slot of a gang, one for another sequence number; windows enabled and not;
bring-up at its sixth step and before. -/
theorem witness_HostPages :
    (let c := { ctx0 with slots := [(5, slot0)], queues := [(0, { Queue.blank with en := true, tail := 3 }), (1, devQueue)] }
     let s := world c team0 { gang0 with run := .parked 5 }
     let w := 2 ^ 32 + 2 ^ 24 + 2 ^ 16 + 5
     Tbl.at? s.ctxs 1 = some c ∧ Tbl.at? s.gangs 1 = some { gang0 with run := .parked 5 } ∧ s.asidOf { gang0 with run := .parked 5 } = 1 ∧
       (s.clusterOfTeam gang0.team).st = .resident ∧ (Tbl.atD c.slots (w % 1024) FaultSlot.blank).owner = .gang 1 ∧
       (Tbl.atD c.slots (w % 1024) FaultSlot.blank).st = .waiting ∧ w / 2 ^ 32 % 2 ^ 16 = 1 ∧
       (Tbl.atD c.slots (w % 1024) FaultSlot.blank).seq = w / 2 ^ 16 % 2 ^ 8 ∧ w / 2 ^ 24 % 2 ^ 8 ≤ 1 ∧
       (Tbl.atD c.slots (w % 1024) FaultSlot.blank).seq ≠ (w + 2 ^ 16) / 2 ^ 16 % 2 ^ 8 ∧
       (let x := Tbl.atD c.queues 0 Queue.blank
        (4 - x.tail).toNat = 1 ∧ (4 - x.tail).toNat + (x.tail - x.head).toNat = 2 ^ x.log2s)) ∧
    (let win : HdmWin := { en := true, base := 0, len := 65536, asid := 1 }
     let y := { Partition.blank with wins := [(15, win)] }
     Tbl.at? ({ w0 with parts := [(0, y)] } : State).parts 0 = some y ∧ y.mwait = [] ∧ 15 < 16) ∧
    (6 ≤ w0.boot ∧ (11 : Nat) < 12 ∧ ({ w0 with boot := 5 } : State).boot < 6 ∧ ({ w0 with boot := 5, bootFailed := some 5 } : State).bootFailed.isSome) ∧
    (Tbl.atD w0.tdisp 64 .unlocked = .unlocked ∧ Tbl.atD ({ w0 with tdisp := [(64, .locked)] } : State).tdisp 64 .unlocked = .locked) ∧
    (let s := { w0 with tdisp := [(1, .run)] }
     Tbl.atD s.tdisp ctx0.fn .unlocked = .run ∧ s.ide ≠ ctx0.fn ∧ ({ s with ide := 1 } : State).ide = ctx0.fn) ∧
    (let c := { ctx0 with doomed := some 1 }
     Tbl.at? (world c team0 gang0).ctxs 1 = some c ∧ ¬ c.doomed = none) ∧ ctx0.doomed = none ∧ w0.pageAsid ctx0.fn ctx0.page = some 1 ∧
    0x230 ≤ 0x230 ∧ 0x140 ≤ 0x140 :=
  ⟨⟨rfl, rfl, by decide +kernel⟩, ⟨rfl, by decide +kernel⟩, by decide +kernel, by decide +kernel, by decide +kernel, ⟨rfl, by decide +kernel⟩, rfl,
    by decide +kernel⟩

/-- A page of a context that is gone; a context and a partition to read from; a function whose page is in RUN, reached outside its stream. -/
theorem witness_HostReads :
    let y : PageStat := { fn := 2, page := 63, asid := 9, why := 3, disc := 0 }
    let s := { w0 with pages := [y] }
    (Tbl.at? s.ctxs 1 = some ctx0 ∧ Tbl.at? s.parts 0 = some Partition.blank) ∧ 15 < 16 ∧ Tbl.at? s.ctxs 9 = none ∧
      s.pages.reverse.find? (fun z => z.asid = 9) = some y ∧ Tbl.atD s.tdisp (s.ctx 9).fn .unlocked ≠ .run ∧
      (s.ctxs.find? (fun e => e.2.fn = 1)).isSome ∧ (∀ e ∈ s.ctxs, ¬ (e.2.fn = 2 ∧ e.2.page = 63)) ∧
      s.pages.find? (fun z => decide (z.fn = 2) && decide (z.page = 63)) = some y ∧ Tbl.atD s.tdisp 2 .unlocked ≠ .run ∧ s.pageAsid 1 0 = some 1 :=
  ⟨⟨rfl, rfl⟩, by decide +kernel⟩

/-- A packet under FPID 7, which the context of a partition serves, with what it carries. -/
def packet0 : Packet :=
  { ptype := 0, part := 7, cw := 1, src := 2, dst := 1, addr := 0x100040, value := 5, cval := 0, key := 9, op := 0, mask := 0xF, data := [1, 2, 3, 4],
    bad := 0 }
def fab : State := { w0 with parts := [(0, { Partition.blank with fpid := 7, fpidCtx := 1, fmembers := [2] })], ports := [(0, 2)] }

/-- A packet that is served and one that is not; an answer that names a request, one that names none, and requests at 1 ms and before. -/
theorem witness_FabricPackets :
    (fab.serving packet0 = some 1 ∧ fab.serving { packet0 with part := 0 } = none ∧ fab.ports ≠ [] ∧ (fab.part (fab.ctx 1).part).fpid ≠ 0 ∧
      packet0.src.toNat ∈ (fab.part (fab.ctx 1).part).fmembers ∧
      poisoned fab.memBad 0x100040 1 = false ∧ poisoned [0x100040] 0x100040 1 = true ∧ ({ packet0 with bad := 1 } : Packet).bad ≠ 0) ∧
    (let r := { write0 with tag := 9, ptype := 0 }
     let w := { write0 with tag := 9, key := 9 }
     let s := { fab with requests := [r] }
     let t := { fab with requests := [w] }
     packet0.part ≠ 0 ∧ (∃ p ∈ fab.parts, p.2.fpid = packet0.part) ∧ (s.requests.find? fun r =>
       r.tag % 2 ^ 32 = packet0.key.toNat && (r.ptype = 0 || r.ptype = 3) && r.answer.isNone && (s.part (s.ctx r.asid).part).fpid = packet0.part &&
         s.now < r.sent + 1000000) = some r ∧
       r.ptype ≠ 3 ∧ t.requests.find? (t.acked packet0) = some w ∧ fab.requests.find? (fab.acked packet0) = none ∧
       t.requests.find? (fun r => r.tag = 9) = some w ∧ w.answer = none ∧ w.ptype ≠ 0 ∧ w.ptype ≠ 3 ∧
       (Tbl.at? t.teams w.team).isSome ∧ Tbl.at? t.teams 9 = none ∧ w.sent + 1000000 ≤ ({ t with now := 1000000 } : State).now ∧ ({ t with now := 999999 } : State).now < w.sent + 1000000) := by
  refine ⟨by decide +kernel, by decide +kernel, ⟨(0, { Partition.blank with fpid := 7, fpidCtx := 1, fmembers := [2] }), ?_, rfl⟩, by decide +kernel⟩
  exact List.mem_cons_self

def group0 : GroupDesc := { group := 1, root := 0, part := 7, nc := 65536, members := List.replicate 256 (1, 0) }

theorem witness_FabricPortsAndWindows :
    (1 ≤ group0.nc ∧ group0.nc ≤ 65536 ∧ group0.members.length ≤ 256 ∧ ¬ ({ group0 with nc := 65537 } : GroupDesc).nc ≤ 65536) ∧
    (let s := { fab with groups := [(1, { desc := group0, parts := [] })] }
     let x := { packet0 with addr := 2 ^ 27 + 8 }
     x.addr % 2 ^ 39 / 2 ^ 27 = 1 ∧ Tbl.at? s.groups 1 = some { desc := group0, parts := [] } ∧ group0.part = x.part ∧ x.part ≠ 0 ∧
       (∃ p ∈ s.parts, p.2.fpid = x.part) ∧ group0.root.toNat = s.swarm.self ∧ ({ group0 with root := 5 } : GroupDesc).root.toNat ≠ s.swarm.self ∧
       Tbl.at? fab.groups 1 = none) ∧
    (let d := { group0 with nc := 4 }
     let p := fun (n : Nat) => (BitVec.ofNat 32 n, (0 : BitVec 8), BitVec.ofNat 64 n)
     let l := [p 3, p 1, p 2] ++ [p 9]
     d.nc ≤ l.length ∧ (∀ e ∈ l, e.2.1 = packet0.op) ∧ (opOf packet0.op).2.binary = false ∧ (opOf packet0.op).1 = 0 ∧
       [p 1, p 2, p 3, p 9].Perm l ∧ [p 1, p 2, p 3, p 9].Pairwise (fun p q => p.1 < q.1)) ∧
    (17 < 18 ∧ 8 ≤ fab.boot ∧ 18 ≤ 18 ∧ ¬ 8 ≤ ({ fab with boot := 7 } : State).boot) ∧
    (let win : HdmWin := { en := true, base := 0x100000, len := 65536, asid := 1 }
     let y := { Partition.blank with wins := [(0, win)] }
     let s := { w0 with parts := [(0, y)] }
     (s.window 0x10FFF8 8).isSome ∧ s.window 0x10FFF9 8 = none) := by
  refine ⟨by decide +kernel, ⟨by decide +kernel, rfl, by decide +kernel, by decide +kernel, ⟨_, List.mem_cons_self, rfl⟩, by decide +kernel, by decide +kernel, rfl⟩,
    ⟨by decide +kernel, by simp [packet0], by decide +kernel⟩, by decide +kernel, by decide +kernel⟩

/-! ### Witnesses: the device's own steps -/

/-- Bring-up at every step, with a plan whose image verifies, and one whose version is too low. -/
theorem witness_Resets :
    (∀ n < 8, ({ State.reset with boot := n } : State).boot < 8 ∧ ({ State.reset with boot := n } : State).bootFailed = none) ∧
    (∀ x ∈ State.reset.plan, x.worker.ed25519 = true ∧ x.worker.mldsa65 = true ∧ State.reset.minver ≤ x.worker.version) ∧
    State.reset.plan ≠ [] ∧ (∃ x ∈ State.reset.plan, ¬ ({ State.reset with minver := 1 } : State).minver ≤ x.worker.version) ∧
    ({ State.reset with bootFailed := some 5 } : State).bootFailed.isSome := by decide +kernel

/-- A step of bring-up that the hardware fails, one whose patch may not run, one whose worker image may not, and each step that goes on; an early choice and another; a plan with
one partition of each number. -/
theorem witness_BringUp :
    let s := fun (n : Nat) => ({ State.reset with boot := n } : State)
    let runs := fun (least : Nat) (x : FwImage) => x.ed25519 = true ∧ x.mldsa65 = true ∧ least ≤ x.version
    (∀ n < 8, n ∉ (s n).broken) ∧ 2 ∈ ({ s 2 with broken := [2] } : State).broken ∧ runs (s 1).minPatch (s 1).patch ∧
      ¬ runs ({ s 1 with minPatch := 1000 } : State).minPatch (s 1).patch ∧ (∀ x ∈ (s 5).plan, runs (s 5).minver x.worker) ∧
      (Choice.event (.getVersion 0)).early = true ∧ (Choice.event .perst).early = true ∧ (Choice.scalar 0).early = false ∧
      (Choice.event (.portTraining 0 (some 2) true)).early = true ∧ ((s 7).farEnds.map (·.1)).Nodup ∧
      ∃ x ∈ (s 5).plan, (s 5).plan.filter (fun y => y.id = x.id) = [x] := by decide +kernel

def desc0 : CtxDesc :=
  { asid := 65535, part := 0, fn := 64, page := 63, l1 := 0x10000, parkt := 0xFFFFF, key := 4095, ectr := 0, cw := 15, depth := 0, refill := 0, gbase := 0, glim := 0,
    kbase := 0, klim := 0, pbudget := 0 }

/-- A descriptor at the top of each range, and one beyond; a locked function; a partition that holds no room, with an image that verifies; an unused region. -/
theorem witness_ContextsAndPartitions :
    let s := { w0 with clusters := [], parts := [(0, Partition.blank), (1, Partition.blank)] }
    let v := { s with tdisp := [(1, .run)] }
    (w0.creatable desc0 = true ∧ w0.creatable { desc0 with cw := 16 } = false) ∧ Tbl.at? w0.ctxs 1 = some ctx0 ∧ w0.locked ctx0.fn = false ∧
      v.locked ctx0.fn = true ∧ ctx0.fn = 1 ∧ (w0.gridsOf 1).find? (fun n => (w0.grid n).gid = 1) = some 1 ∧
      (∀ n ∈ w0.gridsOf 1, (w0.grid n).gid ≠ 2) ∧ w0.writeOk 1 = true ∧ v.writeOk 1 = false ∧
      (world { ctx0 with doomed := some 1 } team0 gang0).writeOk 1 = false ∧ ({ w0 with grids := [] } : State).gridsOf 1 = [] ∧
      (s.modRegion 0 fun x => { x with part := none }).region 0 = { s.region 0 with part := none } ∧ (∀ k ∈ s.spares, k / 12 ≠ 0 / 12) ∧
      (let t := { s with home := [(5, { dirty := true, asid := 1 })] }
       ∃ e ∈ t.home, e.1 ∈ [5] ∧ e.2.dirty = true) ∧ s.clusters = [] ∧ Tbl.at? s.parts 0 = some Partition.blank ∧ Partition.blank.updating = none ∧
      Partition.blank.failing = none ∧ (Tbl.at? s.regions 0).isSome ∧ (s.region 0).part = some 0 ∧ (Tbl.at? s.parts 1).isSome ∧
      (s.region 0).offline = false ∧ s.regionUsed 0 = false ∧ w0.regionUsed 0 = true ∧ s.spares = [] ∧
      ∃ k ∈ ({ s with spares := [11] } : State).spares, k / 12 = 0 / 12 := by
  refine ⟨by decide +kernel, rfl, by decide +kernel, by decide +kernel, rfl, ?_⟩
  decide +kernel

def dueRegion : Region :=
  { Region.reset with
    part := some 0, switchTo := some 3, switchEnd := 5, drowseMove := some true, drowseEnd := 5, trimAt := 5, holdoff := true, holdEnd := 5 }

/-- Switches, slews, drowse moves, trim steps and hold-offs at the time they are due; a hot region whose cluster another region can take; a swarm of two
devices at the end of a period, and after three reports missed. -/
theorem witness_PowerEvents :
    (let x := { dueRegion with slewing := true }
     let s := { w0 with regions := [(0, x)], now := 5 }
     Tbl.at? s.regions 0 = some x ∧ x.switchEnd ≤ s.now ∧ s.stopped = false ∧ x.raising = false ∧ x.drowseEnd ≤ s.now ∧ x.trimAt ≤ s.now ∧ x.holdEnd ≤ s.now ∧
       x.uv = 1000 * (mvOf (max x.req x.imposed) - x.trim) ∧ s.hotCluster 0 0 = none) ∧
    (let s := { w0 with regions := [(0, { Region.reset with part := some 0 }), (1, { Region.reset with part := some 0 })] }
     s.hotCluster 0 0 = some (1, 1) ∧ (Tbl.at? s.clusters 1).map (·.st) = some .resident) ∧
    (let x := { Region.reset with part := some 0, hotDue := true, slewing := true, raising := true, uv := 900000 }
     x.hotDue = true ∧ x.raising = true ∧ 1000 * mvOf x.freq ≤ x.uv ∧ 105 ≤ ({ w0 with hottest := 105 } : State).hottest ∧ w0.hottest < 95) ∧
    (let s := { w0 with now := 1000000, swarm := { w0.swarm with self := 0, members := [0, 1], missing := [(1, 3)] } }
     8 ≤ s.boot ∧ (s.swarm.period + 1) * 1000000 ≤ s.now ∧ s.swarm.members.filter (· ≠ s.swarm.self) = [1] ∧ 3 ≤ Tbl.atD s.swarm.missing 1 0 ∧
       ((s.parts.map fun e => e.2.floor).foldl (· + ·) 0) < 65536 ∧ w0.now < (w0.swarm.period + 1) * 1000000 ∧
       w0.swarm.members.filter (· ≠ w0.swarm.self) = [] ∧ w0.swarm.floorOnly = false ∧
       ((s.parts.map fun e => e.2.floor).foldl (· + ·) 0) ≤ 3000 ∧ (s.parts.filter fun e => e.1 = 0).length = 1) :=
  ⟨⟨rfl, by decide +kernel⟩, by decide +kernel, by decide +kernel, by decide +kernel⟩

/-- Sites that hold something and sites that do not, in an island without trim; an island that is trimmed; a team and a context; a held row with a bad line; stacks to
scrub, and the day's end. -/
theorem witness_ErrorEvents :
    (let s := { w0 with home := [(0x2000, { dirty := true, asid := 1 })], victim := [(5, { dirty := false, asid := 1 })],
                        rowTab := [{ row := 3, asid := 1, slots := [{ team := 1, slot := 0, opens := 1, dirty := 1 }] }] }
     (Tbl.at? s.home 0x2000).isSome ∧ (s.region (homeOf (128 * 0x2000))).trim = 0 ∧ (Tbl.at? s.victim 5).isSome ∧ (s.heldAt (128 * 24)).isSome ∧
       s.heldAt (128 * 25) = none ∧ 0 < 8 ∧ (∃ e ∈ s.rowTab, e.row = 3 ∧ e.opens.getLsbD 0 = true) ∧
       (∃ g y, Tbl.at? s.gangs 1 = some g ∧ (s.region (s.regOf g)).trim = 0 ∧ Tbl.at? g.lanes 31 = some y) ∧
       (∃ x, Tbl.at? s.teams 1 = some x) ∧ ctx0.doomed = none ∧ (∀ e ∈ s.ctxs, e.1 ≠ 1 → e.2.fn = ctx0.fn → e.2.page ≠ ctx0.page) ∧
       (∀ r, s.siteRegion (.directory 1 0) = some r → (s.region r).trim = 0) ∧ s.workBusy 1 = false ∧ (Tbl.at? s.ctxs (s.asidOfTeam 1)).isSome ∧ (s.ctx (s.asidOfTeam 1)).freeSlot = some 0 ∧
       (7 < 8 ∧ Tbl.atD s.scrub 7 0 / 2 ^ 26 * 86400000000000 ≤ s.now ∧ s.stopped = false) ∧
       ¬ Tbl.atD ({ s with scrub := [(7, 2 ^ 26)] } : State).scrub 7 0 / 2 ^ 26 * 86400000000000 ≤ s.now ∧ visitRow 3 0 = 3 ∧ s.rowHeld 3 = true ∧
       s.rowHeld 7 = false) ∧
    (2 ^ 32 - 1 < 2 ^ 32 ∧ 8191 < 8192 ∧ 2 ^ 20 - 1 < 2 ^ 20 ∧ 65535 < 65536 ∧ (w0.region (0 / 8)).trim = 0) ∧
    (let x := { Region.reset with part := some 0, trim := 5 }
     Tbl.at? ({ w0 with regions := [(0, x)] } : State).regions (7 / 8) = some x ∧ 0 < x.trim) ∧ 7 < 8 ∧ 8 ≤ 8 := by
  refine ⟨⟨by decide +kernel, by decide +kernel, by decide +kernel, by decide +kernel, by decide +kernel, by decide, by decide +kernel,
    ⟨gang0, Lane.blank, rfl, by decide +kernel, by decide +kernel⟩, ⟨team0, rfl⟩, rfl, by decide +kernel, fun r h => by cases h; rfl, by decide +kernel⟩, by decide +kernel, ⟨rfl, by decide +kernel⟩, by decide, by decide⟩

/-- A buffer with 62 bytes, one with 61 and no gang to wait for, rings with room and full; readings that are due and not. -/
theorem witness_TraceAndMeter :
    (let b := { TraceBuf.blank with bytes := List.replicate 62 0, lens := [62] }
     let c := { ctx0 with trbase := 0x10000 }
     let s := { world c team0 gang0 with trace := [(0, [(1, b)])] }
     let full := { c with trtail := 64 }
     Tbl.at? s.ctxs 1 = some c ∧ (s.traceBuf 0 1).bytes.length = 62 ∧ c.trwait = false ∧ (c.trtail - c.trhead).toNat ≠ 2 ^ (c.trlog + 6) ∧
       (full.trtail - full.trhead).toNat = 2 ^ (full.trlog + 6) ∧ s.ringFault 1 0x10000 = none ∧ s.peekPa 1 0x10000 = some 0x100000 ∧
       isPeer 0x100000 = false ∧ s.gangsOnCore 1 1 = [] ∧ s.gangRuns gang0 = true ∧ s.gangRuns { gang0 with run := .forced } = false) ∧
    (let t := { w0 with trace := [(1, [(1, { TraceBuf.blank with bytes := List.replicate 61 0, lens := [61] })])] }
     (t.traceBuf 1 1).bytes.length = 61 ∧ ({ t.traceBuf 1 1 with flush := true } : TraceBuf).flush = true ∧
       ({ t with regions := [(0, { Region.reset with cycles := 102400 })] } : State).region (1 / 8) = { Region.reset with cycles := 102400 }) ∧
    (let c := { ctx0 with requested := 2 }
     let y := { Partition.blank with mren := true, mrlog := 2, mrtail := 3 }
     let s := { world c team0 gang0 with parts := [(0, y)] }
     Tbl.at? s.ctxs 1 = some c ∧ s.readingDue c = true ∧ ({ s with now := 1 } : State).readingDue c = false ∧ Tbl.at? s.parts c.part = some y ∧
       y.mwait = [] ∧ (y.mrtail - y.mrhead).toNat ≠ y.mrSize ∧ 2 ≤ y.mrlog ∧ y.mrlog ≤ 12) ∧
    (let s := { w0 with now := w0.tickEnd }
     (∀ e ∈ s.ctxs, s.readingDue e.2 = false) ∧ s.now ≤ s.tickEnd ∧ ∀ d ∈ s.deadlines, s.tickEnd ≤ d) ∧
    (let q := { Queue.blank with en := true, tail := 1, appended := [(1, 0)] }
     let s := { world { ctx0 with queues := [(0, q)] } team0 gang0 with tickEnd := 32000 }
     (∀ e ∈ s.ctxs, s.readingDue e.2 = false) ∧ s.now < s.tickEnd ∧ 16000 ∈ s.deadlines ∧ 16000 < s.tickEnd) ∧
    (let m : List Sample := (List.range 48).map fun k => { island := k, m := 0, s := 0, temp := if k = 0 then 20 else 5 }
     let temp : Nat → Int := fun r => ((m.find? fun x => x.island = r).map (·.temp)).getD 0
     (∀ k < 48, ∃ x ∈ m, x.island = k) ∧ temp 0 = 20 ∧ temp 1 = 5) :=
  ⟨⟨rfl, by decide +kernel⟩, by decide +kernel, ⟨rfl, by decide +kernel⟩, by decide +kernel⟩

/-- A block ready to start; a gang that has exited; pre-emption requests with a handler and without; an allowance used up; a template below and at its
count; teams that have retired, and one with a deferred report. -/
theorem witness_GangBoundaries :
    (let g := { gang0 with queue := [entry0] }
     Tbl.at? (wg g).gangs 1 = some g ∧ (wg g).gangRuns g = true ∧ g.block = none ∧ g.allExited = false) ∧
    (let g := { gang0 with exiting := true }
     Tbl.at? (wg g).gangs 1 = some g ∧ (wg g).gangRuns g = true ∧ g.exiting = true ∧ g.queue = [] ∧ g.block = none ∧ g.wcs = [] ∧
       (∀ c, Tbl.atD g.wcl c [] = []) ∧ (wg g).requests = [] ∧ g.stepping ≠ 2 ∧ (wg g).stopped = false ∧
       ((wg g).recOf g).ntb ≤ 16 ∧ ((wg g).recOf g).ncb ≤ 8 ∧ ((wg g).recOf g).nkb ≤ 4 ∧ ((wg g).recOf g).nxb ≤ 4 ∧
       (Tbl.at? (wg g).teams g.team).isSome ∧ (Tbl.at? (wg g).clusters ((wg g).team g.team).cluster).isSome ∧
       (Tbl.at? (wg g).grids ((wg g).team g.team).grid).isSome) ∧
    (let g := { gang0 with preq := some 7 }
     Tbl.at? (wg g).gangs 1 = some g ∧ (wg g).gangRuns g = true ∧ g.priv = false ∧ g.hasStream = true ∧ ((wg g).ctxOf g).pvec = 0 ∧ g.pframe = none ∧
       ((world { ctx0 with pvec := 0x10800 } team0 g).ctxOf g).pvec ≠ 0 ∧ g.pbleft = 0 ∧ g.run = .run ∧
       ((({ wg g with clusters := [(1, { Cluster.blank with grid := 1, teams := [1], st := .saving })] } : State)).clusterOfTeam g.team).st = .saving) ∧
    (let g := { gang0 with run := .template 3 2 }
     let s := wg g
     Tbl.at? s.gangs 1 = some g ∧ s.itemRoom g.team = some (0, 16) ∧ s.freeIndex g.team (s.recOf g).gangs = some 1 ∧ 2 < 3 ∧
       (s.clusterOfTeam g.team).st = .resident ∧ Tbl.at? s.gangs s.uid = none ∧ w0.itemRoom 9 = none ∧ (s.team g.team).dying = false ∧
       ((world ctx0 { team0 with dying := true } g).team 1).dying = true) ∧
    (let g := { gang0 with preq := some 7, exiting := true, stepping := 2 }
     (wg g).gangRuns g = true ∧ g.stepping = 2 ∧ g.priv = false ∧ g.stepIn = g.pframe.isSome ∧ g.allExited = false) ∧
    (let t := { team0 with retired := true }
     Tbl.at? (world ctx0 t gang0).teams 1 = some t ∧ t.tasks = [] ∧ t.copies = [] ∧ t.deferred = [] ∧ t.image = none ∧ (world ctx0 t gang0).stopped = false ∧
       (let u := { t with rows := [(7, heldSlot)] }
        (u.row 7).st = .held ∧ (u.row 7).saved = false)) ∧
    (let t := { team0 with deferred := [(1, 0, 64)] }
     let s := world ctx0 t gang0
     Tbl.at? s.teams 1 = some t ∧ s.deferredTo 1 1 = some 1 ∧ s.gangRuns gang0 = true ∧ gang0.priv = false ∧ (s.ctxOf gang0).tvec ≠ 0) := by
  refine ⟨⟨rfl, by decide +kernel⟩, ⟨rfl, by decide +kernel, rfl, rfl, rfl, rfl, fun _ => rfl, rfl, by decide +kernel⟩, ⟨rfl, by decide +kernel⟩,
    ⟨rfl, by decide +kernel⟩, by decide +kernel, ⟨rfl, rfl, rfl, rfl, rfl, rfl, by decide +kernel⟩, rfl, by decide +kernel⟩

/-- The device with one gang saved and its cluster in the state `st`. -/
def saved (st : ClusterState) (target : Option Nat) : State :=
  { wg { gang0 with run := .forced } with clusters := [(1, { Cluster.blank with grid := 1, teams := [1], st := st, target := target })] }

/-- A context with a queue that holds one record not yet read. -/
def queued : Ctx := { ctx0 with queues := [(0, { Queue.blank with en := true, base := 0x10000, tail := 1, prio := 7, blocked := true, blockNs := 64000 })] }

/-- A grid of the queue, of which nothing is placed. -/
def waiting : State :=
  { world queued team0 gang0 with grids := (2, { Grid.blank with asid := 1, gid := 2, rcd := { rec0 with teams := 1, cx := 1, cy := 1, cz := 1 } }) :: w0.grids }

/-- A stalled cluster of a gang that a fault has parked, and a grid whose teams each take a whole core of its region: the swap helps. -/
def stalledWorld : State :=
  { waiting with
    ctxs := [(1, { queued with parkt := 200, slots := [(0, slot0)] })], gangs := [(1, { gang0 with run := .parked 0, held := [0] })]
    clusters := [(1, { Cluster.blank with grid := 1, teams := [1], st := .stalled, stallNs := 200000 })]
    grids := [(1, w0.grid 1), (2, { Grid.blank with asid := 1, gid := 2, rcd := { rec0 with cx := 1, cy := 1, cz := 1, teams := 8, gangs := 16, regs := 256, scratch := 458752 } })] }

/-- What the scheduler's decision finds: the unit, and the regions of its clusters. -/
def decides (s : State) : Option (Work × List Nat) := (s.tryUnits 0 (s.units 0)).2.map fun x => (x.1, x.2.map (·.1))

theorem witness_Scheduling :
    ((saved .saving none).canSave 1 = true ∧ (saved .swapping none).canSave 1 = true ∧ w0.canSave 1 = false ∧
      ((saved .saving none).cluster 1).target = none ∧ (Tbl.at? (saved .saving none).teams 1).isSome) ∧
    (let s := { stalledWorld with clusters := [(1, { Cluster.blank with grid := 1, teams := [1], st := .swapping })] }
     s.canSave 1 = true ∧ (s.gang 1).run = .parked 0 ∧ 1 ∈ s.gangsOfCluster 1 ∧ (Tbl.atD (s.ctx 1).slots 0 FaultSlot.blank).st = .waiting ∧
       0 ∈ s.slotsOwned 1 (fun o => [1].any fun m => s.ownedByTeam m o) ∧ ∀ u ∈ (saved .swapping none).gangsOfCluster 1, ((saved .swapping none).gang u).run = .forced) ∧
    (stalledWorld.clusterStalled 1 = true ∧ (stalledWorld.ctx 1).parkt = 200 ∧ 200 * 1000 ≤ (stalledWorld.cluster 1).stallNs ∧
      stalledWorld.swapHelps 0 1 = true ∧ w0.swapHelps 0 1 = false) ∧
    (let c := fun (st : ClusterState) => { Cluster.blank with grid := 1, teams := [1], st := st }
     ({ stalledWorld with clusters := [(1, c .resident)] } : State).clusterStalled 1 = true ∧
       ({ w0 with clusters := [(1, c .stalled)] } : State).clusterStalled 1 = false ∧
       (∀ e ∈ w0.clusters, (e.2.st = .resident → w0.clusterStalled e.1 = false) ∧ (e.2.st = .stalled → w0.clusterStalled e.1 = true))) ∧
    (waiting.ageDue 0 = some (.ageStep 1 0) ∧ waiting.parts = [(0, Partition.blank)] ∧ w0.ageDue 0 = none ∧ w0.decisionDue 0 = false ∧
      (saved .ready none).ageDue 0 = none ∧ (saved .ready none).decisionDue 0 = true ∧ (saved .ready none).endDue 0 = none ∧
      (saved .ready none).parts = [(0, Partition.blank)]) ∧
    (({ saved .restoring none with clusters := [(1, { Cluster.blank with grid := 1, teams := [1], st := .restoring, asked := some 7 })] } : State).cluster 1).asked =
      some 7 ∧
    (decides (saved .ready none) = some (.back 1, [0]) ∧ (saved .ready none).decisionWaits 0 = false ∧ decides waiting = some (.head 1 0 2, [0]) ∧
      decides w0 = none ∧ (Tbl.at? waiting.grids 2).isSome ∧ (∀ a ∈ waiting.ctxsOf 0, (waiting.ctx a).st ≠ .preempting) ∧ w0.decisionWaits 0 = false ∧
      waiting.decisionWaits 0 = true ∧
      (let s := { waiting with ctxs := [(1, { queued with queues := [(0, { Tbl.atD queued.queues 0 Queue.blank with blockNs := 0, age := 15 })] })] }
       s.decisionWaits 0 = false ∧ (∀ a ∈ s.ctxsOf 0, ∀ e ∈ (s.ctx a).queues, e.2.age < 16) ∧ decides s = some (.head 1 0 2, [0])) ∧
      (let s := { w0 with parts := [(0, { Partition.blank with updating := some FwImage.default })] }
       s.decisionWaits 0 = false ∧ s.quiesced 0 = false)) ∧
    (let s := { world queued team0 gang0 with mem := tables ++ record0 }
     let x := Tbl.atD queued.queues 0 Queue.blank
     Tbl.at? s.ctxs 1 = some queued ∧ x.en = true ∧ x.prod = false ∧ x.ferr = false ∧ x.read ≠ x.tail ∧ x.blocked = true ∧ 64000 ≤ x.blockNs ∧
       x.base + 256 * (x.read.toNat % 2 ^ x.log2s) = 0x10000 ∧
       (match s.sysRead (.sched 1 0) 1 0x10000 192 with
         | .bytes _ bs none => bs
         | _ => []) = recordBytes ∧
       (match (world queued team0 gang0).sysRead (.sched 1 0) 1 0x10000 192 with
         | .bytes _ bs none => bs
         | _ => []) = List.replicate 192 0 ∧
       (match ({ s with memBad := [0x100000] } : State).sysRead (.sched 1 0) 1 0x10000 192 with
         | .bytes _ _ b => b.isSome
         | _ => false) = true ∧
       (match s.sysRead (.sched 1 0) 1 0x50000 192 with
         | .fault _ _ _ => true
         | _ => false) = true) ∧
    (let c := { ctx0 with slice := some 2048000 }
     let s := world c team0 gang0
     Tbl.at? s.ctxs 1 = some c ∧ (s.part c.part).sliceLen ≤ 2048000 ∧ s.now < s.tickEnd ∧ (s.part c.part).epochPos < (s.part c.part).epochLen ∧
       c.st = .eligible ∧ s.hasResident 1 = true) ∧
    (let y := { Partition.blank with epochPos := 1024 }
     Tbl.at? ({ w0 with parts := [(0, y)] } : State).parts 0 = some y ∧ y.epochLen ≤ y.epochPos ∧ y.updating = none ∧ y.failing = none) := by
  refine ⟨by decide +kernel, by decide +kernel, by decide +kernel, by decide +kernel, by decide +kernel, by decide +kernel, by decide +kernel,
    ⟨rfl, by decide +kernel⟩, ⟨rfl, by decide +kernel⟩, ⟨rfl, by decide +kernel⟩⟩

/-- A task of opcode `opc` for tile 1, with its second step to come and 8 blocks; its factors are of format 0. -/
def task0 (opc : Byte) (prog : Nat) : Task :=
  { rcd := [opc, 0, 1, 0, 64, 0, 0, 0] ++ List.replicate 56 0, enq := 3, gang := 1, gidx := 0, soff := 0, ctv := 0, rmd := 1, prog := prog, engine := some 0,
    wait0 := true, wait1 := true, tensA := none, tensB := none, flags := 0, fault := none }

def worldOf (k : Task) : State := world ctx0 { team0 with tasks := [k] } gang0

/-- Tasks of each kind on an engine; one to be started whose tiles are in the right mode, and in the wrong one; a copy within S at its last chunk; row slots
opening on a channel with room, and full; a fault ring with room. -/
theorem witness_EngineSteps :
    (∀ o ∈ [1, 2, 3, 4, 5, 6], let k := task0 (BitVec.ofNat 8 o) 0
      let s := worldOf k
      s.findTask 1 3 = some k ∧ (TaskRec.of k.rcd).opc = o ∧ k.engine.isSome ∧ k.fault = none ∧ s.enginesRun 1 = true ∧ s.stopped = false ∧
        (TaskRec.of k.rcd).akind = 0 ∧ (TaskRec.of k.rcd).bkind = 0 ∧
        (o ≤ 2 → 0 + min (TaskRec.of k.rcd).kappa ((TaskRec.of k.rcd).blocks - 0) < (TaskRec.of k.rcd).blocks)) ∧
    (let k := { task0 5 0 with engine := none }
     let s := worldOf k
     let t := { s with metas := [(1, 1), (0, 1)] }
     (List.range 8).find? (fun e => !(s.busyEngines 0).contains e) = some 0 ∧ s.nextTaskFor 0 = some (1, k) ∧ t.nextTaskFor 0 = some (1, k) ∧
       s.tilesOk 1 (TaskRec.of k.rcd) = false ∧ t.tilesOk 1 (TaskRec.of k.rcd) = true ∧ w0.nextTaskFor 0 = none) ∧
    (let k := { copy0 with count := 65536 + 64, prog := 1, dst := 0, src := 0 }
     let t := { team0 with copies := [k] }
     let s := world ctx0 t gang0
     s.copyOn 0 0 = some (1, k) ∧ s.enginesRun 1 = true ∧ Tbl.at? s.gangs k.gang = some gang0 ∧ gang0.team = 1 ∧ k.src + k.prog * 65536 + 64 ≤ 0x100000 ∧
       k.dst + k.prog * 65536 + 64 ≤ 0x100000 ∧ poisoned s.storeBad (s.scratchAddr 1 65536) 64 = false ∧ k.prog * 65536 < k.count ∧
       w0.copyOn 0 1 = none ∧ w0.nextCopyFor 0 = none) ∧
    (let t := { team0 with rows := [(0, { heldSlot with st := .opening })] }
     let s := world ctx0 t gang0
     let e := fun (n : Nat) => ({ row := n, asid := 1, slots := [{ team := 2, slot := 1, opens := 1, dirty := 1 }] } : RowEntry)
     let here := fun (e : RowEntry) => stackOf (1024 * e.row) = stackOf (1024 * 1024) && pchanOf (1024 * e.row) = pchanOf (1024 * 1024)
     ((s.team 1).row 0).st = .opening ∧ (s.rowTab.filter here).length < 4 ∧ (∀ n ∈ [2, 515, 1537, 2054], n ≠ 1024 ∧ here (e n) = true) ∧
       (([e 1024].find? fun e => e.row = 1024) = some (e 1024) ∧ (e 1024).asid = s.asidOfTeam 1 ∧ (e 1024).slots.length < 64)) ∧
    (let c := { ctx0 with fren := true, unposted := [0], slots := [(0, slot0)], frlog := 4, frtail := 15 }
     Tbl.at? (world c team0 gang0).ctxs 1 = some c ∧ c.fren = true ∧ (c.frtail - c.frhead).toNat ≠ c.frSize ∧ 4 ≤ c.frlog ∧ c.frlog ≤ 15) := by
  refine ⟨by decide +kernel, by decide +kernel, ⟨by decide +kernel, by decide +kernel, rfl, by decide +kernel⟩,
    by decide +kernel, rfl, by decide +kernel⟩

/-- A reduction of 128 bytes of 32-bit integers within S: its pieces, where each byte lies, and that none is poisoned. -/
theorem witness_CopiedChunks :
    let k := { copy0 with op := some 2, count := 128, src := 0, dst := 512 }
    let s := world ctx0 { team0 with copies := [k] } gang0
    let place := fun (ps : List Piece) (i : Nat) => match ps.find? fun p => decide (p.at_ ≤ i ∧ i < p.at_ + p.len) with
      | some p => (s.storeAddr gang0 1 p.place).map (· + (i - p.at_))
      | none => none
    let sp : List Piece := [{ at_ := 0, place := .off 0, len := 128 }]
    let dp : List Piece := [{ at_ := 0, place := .off 512, len := 128 }]
    (Tbl.at? s.gangs k.gang = some gang0 ∧ s.unshared) ∧ s.stopped = false ∧ s.copyOn 0 0 = some (1, k) ∧ k.fault = none ∧ k.landing = none ∧
      s.enginesRun 1 = true ∧ s.requests = [] ∧ k.prog * 65536 < k.count ∧ (s.copyPieces (.copy 1 0) 0 1 1 0 128 false).2 = (sp, none) ∧
      (s.copyPieces (.copy 1 0) 0 1 1 512 128 true).2 = (dp, none) ∧
      (∀ i < 128, place sp i = some (8192 + i) ∧ place dp i = some (8704 + i) ∧ 8192 + i ∉ s.storeBad ∧ 8704 + i ∉ s.storeBad) ∧ 128 % 4 = 0 ∧
      ∀ p ∈ dp, p.at_ % 4 = 0 ∧ p.len % 4 = 0 :=
  ⟨⟨rfl, unshared_one rfl rfl⟩, by decide +kernel⟩

/-- The last step of a task whose SIG is tag 3 of the COUNT its tile leaves at 0, with a task that waits for it. -/
theorem witness_TaskSteps :
    let k := { task0 4 0 with rcd := [4, 0, 1] ++ List.replicate 25 0 ++ [3, 0x80] ++ List.replicate 34 0 }
    let j := { task0 4 0 with rcd := [4, 0, 2] ++ List.replicate 21 0 ++ [3, 0x80] ++ List.replicate 38 0, enq := 4, engine := none, wait0 := false }
    let s := world ctx0 { team0 with tasks := [k, j], tags := [(3, { Tag.blank with count := 8192 })] } gang0
    let x := TaskRec.of k.rcd
    s.findTask 1 3 = some k ∧ k.engine.isSome ∧ k.fault = none ∧ s.enginesRun 1 = true ∧ s.stopped = false ∧ Tbl.at? s.teams 1 ≠ none ∧ x.opc = 4 ∧
      x.nw + 1 ≤ k.prog + 1 ∧ x.sig = 2 ^ 15 + 3 ∧ ((s.team 1).tag 3).count - 8192 * (x.nw + 1) = 0 ∧ (TaskRec.of j.rcd).wait0 = 2 ^ 15 + 3 ∧
      (Tbl.at? s.gangs k.gang).isSome ∧ (s.team 1).dying = false ∧
      (let e : Request := { write0 with ptype := 0, who := .task 1 3 }
       let d := { world ctx0 { team0 with tasks := [k], dying := true } gang0 with requests := [e] }
       (d.team 1).dying = true ∧ d.stepBusy 1 k = true ∧ d.enginesRun 1 = false ∧ d.workBusy 1 = true) := by decide +kernel

/-! ### Witnesses: the machine as a whole -/

/-- An event; a word at SPC; and a lane word at the LPC of a cell, each next on the agenda. -/
theorem witness_StepRunsTheDecodedInstruction :
    let s := { w0 with agenda := [.scalar 1] }
    let t := { wl gang0 with agenda := [.lane 1 0] }
    (8 ≤ s.boot ∧ 8 ≤ t.boot ∧ Tbl.at? s.gangs 1 = some gang0 ∧ Tbl.at? t.gangs 1 = some lg) ∧ s.gangRuns gang0 = true ∧ gang0.allExited = false ∧
      s.stopped = false ∧ gang0.exiting = false ∧ s.deferredFor 1 = false ∧ s.pbleftOut gang0 = false ∧ gang0.preq = none ∧ gang0.breakDue = false ∧
      gang0.sttLeft = [] ∧ trafficInstr (.cxlMemAccess { pa := 0, n := 8, write := none }) = true ∧ trafficInstr .perst = false ∧ clockedInstr .perst = false ∧
      trafficInstr (.gangRetire 1) = false ∧ clockedInstr (.gangRetire 1) = true ∧ (s.ctxOf gang0).breakAt false gang0.spc.toNat = none ∧
      (s.translateFor (.fetch 1) (.core (s.coreOf gang0)) (s.asidOf gang0) gang0.spc.toNat .fetch).2 = .ok 0x100000 0x100017 16 ∧
      (s.codeAt (s.coreOf gang0) (s.asidOf gang0) 0x100000 4).2 = false ∧ gang0.spc.toNat % 128 + 4 ≤ 128 ∧ isPeer 0x100000 = false ∧
      t.gangRuns lg = true ∧ (t.region (t.regOf lg)).drowseMove = none ∧ lg.block.isSome ∧ (lg.cell 0).run = .run ∧
      (t.ctxOf lg).breakAt true (lg.lpcOf (lg.issueGroup 0)) = none ∧ w0.dueNow = none ∧ w0.swapTimes = [] ∧ waiting.dueNow = some (.ageStep 1 0) := by
  refine ⟨⟨by decide, by decide, rfl, rfl⟩, by decide +kernel⟩

theorem witness_EncodingsAgree :
    (Instr.sadd 32 32 3).wellFormed = true ∧ encode (.sadd 32 32 3) = some (32, 0x01040180) ∧
      decodeBytes [0x80, 0x01, 0x04, 0x01] = some (.sadd 32 32 3) := by decide +kernel

theorem witness_EveryInstructionRuns : (Tbl.at? w0.gangs w0.cur).isSome := by decide +kernel

theorem witness_StepKeepsTheStores : State.reset.stores ∧ step State.reset = .next { State.reset with boot := 2 } := by
  refine ⟨?_, rfl⟩
  exact ⟨rfl, rfl, rfl⟩

/-! ### Single lane words, with results worked out from the rules -/

/-- What a lane word leaves in v1 of lane `l` of a gang whose v2 holds `x` and v4 `y` in lane 0; 0 where it does not complete. -/
def lane0 (i : Instr) (x y : Nat) (l : Nat) : Nat :=
  let s := { ls with store := (ls.store.write (ls.regAddr lg 2 0) (bytesOf 4 x)).write (ls.regAddr lg 4 0) (bytesOf 4 y) }
  match exec i s with
  | .next t => (t.readReg (t.gang 1) 1 l).1
  | _ => 0

def wab (t : Ty) : LaneOp := { op0 with ty := t, dst := .v 1, sa := .v 2, sb := .v 4 }

/-- R9, R153: every lane stores its v4 over v4 of lane 31 through the own window, and lane 31, whose turn is last, finds there what lane 30 stored. -/
theorem test_stv_data_in_turn :
    let s := { ls with store := (ls.store.write (ls.regAddr lg 2 0) (List.replicate 32 (bytesOf 4 0x100000)).flatten).write (ls.regAddr lg 4 30) (bytesOf 8 0x700000005) }
    (match exec (.stv { op0 with ty := .i32, fn := 1, sa := .v 2, sb := .v 4, imm := 4 * 128 + 124 }) s with
      | .next t => (t.readReg (t.gang 1) 4 31).1
      | _ => 0) = 5 := by decide +kernel

/-- R287: the scrub of a held row counts what it corrects at the row's refresh. -/
theorem test_scrub_of_held_row :
    let s := { w0 with rowTab := [{ row := 3, asid := 1, slots := [{ team := 1, slot := 0, opens := 1, dirty := 0 }] }] }
    let next := fun (i : Instr) (s : State) => match exec i s with
      | .next t => t
      | _ => s
    let t := next (.patrolScrub 3 2) s
    t.errRate = [] ∧ (next (.refresh 3 (pchanOf 3072) []) t).errRate = [(51, 2)] := by decide +kernel

/-- R124: an i8 sum wraps and is written with its sign; saturated, it is the greatest value. -/
theorem test_vadd : lane0 (.vadd (wab .i8)) 100 100 0 = 0xFFFFFFC8 ∧ lane0 (.vadd { wab .i8 with sm := .sat }) 100 100 0 = 127 := by decide +kernel
/-- R124: a division by 0 gives −1, and the most negative number over −1 itself. -/
theorem test_vdiv : lane0 (.vdiv (wab .i32)) 7 0 0 = 0xFFFFFFFF ∧ lane0 (.vdiv (wab .i32)) 0x80000000 0xFFFFFFFF 0 = 0x80000000 := by decide +kernel
/-- R126: an arithmetic shift by its count modulo 32. -/
theorem test_vsra : lane0 (.vsra (wab .i32)) 0x80000000 33 0 = 0xC0000000 := by decide +kernel
/-- R129: 1.5 + 2.25 = 3.75 in f32, and 1 / 3 rounded to nearest. -/
theorem test_fadd : lane0 (.fadd (wab .f32)) 0x3FC00000 0x40100000 0 = 0x40700000 ∧
    lane0 (.fdiv (wab .f32)) 0x3F800000 0x40400000 0 = 0x3EAAAAAB := by decide +kernel
/-- R134: 300.0 as i8, saturated and not. -/
theorem test_cvt : lane0 (.cvt { op0 with ty := .i8, fn := 10, dst := .v 1, sa := .v 2, sm := .sat }) 0x43960000 0 0 = 127 := by decide +kernel
/-- R140: the sum over all lanes, 31 of which hold 0, reaches every lane. -/
theorem test_vreds : lane0 (.vreds { wab .i32 with sb := .v 0 }) 5 0 31 = 5 := by decide +kernel

end Sys2Proof.Tests
end

section
/-!
PROOF. Scalar division and remainder (R104).
-/

namespace Sys2Proof.Machine

/-! ### The functions of R104 -/

/-- R104: q × b + r = a modulo 2⁶⁴, for SDIV and SREM. -/
theorem sdivQ_mul_add_sremQ (a b : Word64) : sdivQ a b * b + sremQ a b = a := by
  by_cases hb : b = 0
  · simp [sdivQ, sremQ, hb]
  · rw [sdivQ, sremQ, if_neg hb, if_neg hb]
    calc w64 (a.toInt.tdiv b.toInt) * b + w64 (a.toInt.tmod b.toInt)
        = w64 (a.toInt.tdiv b.toInt * b.toInt + a.toInt.tmod b.toInt) := by
          simp only [w64, BitVec.ofInt_add, BitVec.ofInt_mul, BitVec.ofInt_toInt]
      _ = a := by rw [Int.tdiv_mul_add_tmod, w64, BitVec.ofInt_toInt]

/-- R104: q × b + r = a modulo 2⁶⁴, for SDIVN and SREMN. -/
theorem sdivN_mul_add_sremN (a b : Word64) : sdivN a b * b + sremN a b = a := by
  by_cases hb : b = 0
  · simp [sdivN, sremN, hb]
  · rw [sdivN, sremN, if_neg hb, if_neg hb]
    calc BitVec.ofNat 64 (a.toNat / b.toNat) * b + BitVec.ofNat 64 (a.toNat % b.toNat)
        = BitVec.ofNat 64 (a.toNat / b.toNat * b.toNat + a.toNat % b.toNat) := by
          simp only [BitVec.ofNat_add, BitVec.ofNat_mul, BitVec.ofNat_toNat, BitVec.setWidth_eq]
      _ = a := by rw [Nat.div_add_mod', BitVec.ofNat_toNat, BitVec.setWidth_eq]

/-- R104: −2⁶³ by −1 wraps to −2⁶³. -/
theorem sdivQ_intMin_allOnes : sdivQ (BitVec.intMin 64) (BitVec.allOnes 64) = BitVec.intMin 64 := by decide

theorem sremQ_intMin_allOnes : sremQ (BitVec.intMin 64) (BitVec.allOnes 64) = 0 := by decide

/-! ### The words of R104 -/

section
variable {s : State} {g : Gang} (h : s.issuing g) (d ra rb : SReg)
include h

theorem sdiv_completes : s.completes (.sdiv d ra rb) g (g.spc + 4) (g.withReg d (sdivQ (g.sreg ra) (g.sreg rb))) :=
  State.setReg_completes h _ d (fun g => sdivQ (g.sreg ra) (g.sreg rb)) rfl

theorem srem_completes : s.completes (.srem d ra rb) g (g.spc + 4) (g.withReg d (sremQ (g.sreg ra) (g.sreg rb))) :=
  State.setReg_completes h _ d (fun g => sremQ (g.sreg ra) (g.sreg rb)) rfl

theorem sdivn_completes : s.completes (.sdivn d ra rb) g (g.spc + 4) (g.withReg d (sdivN (g.sreg ra) (g.sreg rb))) :=
  State.setReg_completes h _ d (fun g => sdivN (g.sreg ra) (g.sreg rb)) rfl

theorem sremn_completes : s.completes (.sremn d ra rb) g (g.spc + 4) (g.withReg d (sremN (g.sreg ra) (g.sreg rb))) :=
  State.setReg_completes h _ d (fun g => sremN (g.sreg ra) (g.sreg rb)) rfl

/-- R104: SDIV of −2⁶³ by −1 completes with −2⁶³, and SREM with 0. -/
theorem sdiv_srem_overflow (ha : g.sreg ra = BitVec.intMin 64) (hb : g.sreg rb = BitVec.allOnes 64) :
    s.completes (.sdiv d ra rb) g (g.spc + 4) (g.withReg d (BitVec.intMin 64)) ∧
      s.completes (.srem d ra rb) g (g.spc + 4) (g.withReg d 0) := by
  have hq := sdiv_completes h d ra rb
  have hr := srem_completes h d ra rb
  rw [ha, hb, sdivQ_intMin_allOnes] at hq
  rw [ha, hb, sremQ_intMin_allOnes] at hr
  exact ⟨hq, hr⟩

end

/-- Settles O2: each word of R104 is a register word, so it completes with the value of its function; the quotient and the remainder add up by the
division identity of the integers, carried to words. -/
theorem scalarDivision : Obligations.ScalarDivision := by
  unfold Obligations.ScalarDivision
  intro s g h d ra rb
  exact ⟨sdiv_completes h d ra rb, srem_completes h d ra rb, sdivn_completes h d ra rb, sremn_completes h d ra rb,
    sdiv_srem_overflow h d ra rb, sdivQ_mul_add_sremQ _ _, sdivN_mul_add_sremN _ _⟩

end Sys2Proof.Machine
end

section
/-!
PROOF. What the writes of a lane word do to the device: registers of the gang's own window, lanes and flags, one lane after another.
-/

namespace Sys2Proof

/-- Memories that agree on a range of bytes are read alike there. -/
theorem Mem.read_congr {m n : Mem} {a k : Nat} (h : ∀ i < k, m.get (a + i) = n.get (a + i)) : m.read a k = n.read a k := by
  refine List.ext_getElem (by simp [Mem.read_length]) fun i hi _ => ?_
  rw [Mem.read_length] at hi
  rw [Mem.read_getElem _ _ _ _ hi, Mem.read_getElem _ _ _ _ hi, h i hi]

theorem Ty.width_pos (t : Ty) : 0 < t.width := by cases t <;> decide

end Sys2Proof

namespace Sys2Proof.Machine

/-! ### Bytes of the cores' stores -/

theorem bytesOf_length (n x : Nat) : (bytesOf n x).length = n := by
  induction n generalizing x with
  | zero => rfl
  | succ n ih => simp [bytesOf, ih]

theorem natOf_bytesOf (n x : Nat) : natOf (bytesOf n x) = x % 256 ^ n := by
  induction n generalizing x with
  | zero => simp [bytesOf, natOf, Nat.mod_one]
  | succ n ih =>
    rw [bytesOf, natOf, ih, Nat.pow_succ', Nat.mod_mul, BitVec.toNat_ofNat]

theorem poisoned_congr {x y : List Nat} {a k : Nat} (h : ∀ i < k, a + i ∈ x ↔ a + i ∈ y) : poisoned x a k = poisoned y a k := by
  have key : ∀ b, a ≤ b ∧ b < a + k → (b ∈ x ↔ b ∈ y) := fun b hb => by
    have := h (b - a) (by omega)
    rwa [Nat.add_sub_cancel' hb.1] at this
  rw [Bool.eq_iff_iff]
  simp only [poisoned, List.any_eq_true, Bool.and_eq_true, decide_eq_true_eq]
  exact exists_congr fun b => and_congr_left fun hb => key b hb

/-- The marks left after a register is wholly written. -/
theorem mem_clearRegPoison {bad : List Nat} {a x : Nat} (h : a % 4 = 0) :
    x ∈ clearRegPoison bad a 4 ↔ x ∈ bad ∧ (x < a ∨ a + 4 ≤ x) := by
  simp only [clearRegPoison, List.mem_filter, Bool.not_eq_true', Bool.and_eq_false_iff, decide_eq_false_iff_not]
  exact and_congr_right fun _ => by omega

/-- The device is as before but for bytes of the cores' stores, and their poison, at addresses of `P`. -/
structure State.onlyStoreAt (s t : State) (P : Nat → Prop) : Prop where
  device : t = { s with store := t.store, storeBad := t.storeBad }
  bytes : ∀ a, ¬ P a → t.store.get a = s.store.get a ∧ (a ∈ t.storeBad ↔ a ∈ s.storeBad)

theorem State.onlyStoreAt.refl (s : State) (P : Nat → Prop) : s.onlyStoreAt s P := ⟨rfl, fun _ _ => ⟨rfl, Iff.rfl⟩⟩

theorem State.onlyStoreAt.trans {s t r : State} {P : Nat → Prop} (h : s.onlyStoreAt t P) (k : t.onlyStoreAt r P) : s.onlyStoreAt r P where
  device := k.device.trans (by rw [h.device])
  bytes a ha := ⟨(k.bytes a ha).1.trans (h.bytes a ha).1, (k.bytes a ha).2.trans (h.bytes a ha).2⟩

theorem State.onlyStoreAt.mono {s t : State} {P Q : Nat → Prop} (h : s.onlyStoreAt t P) (hPQ : ∀ a, P a → Q a) : s.onlyStoreAt t Q :=
  ⟨h.device, fun a ha => h.bytes a fun hp => ha (hPQ a hp)⟩

theorem State.onlyStoreAt_putRegBytes (s : State) {a : Nat} (h : a % 4 = 0) (v : Nat) :
    s.onlyStoreAt (s.putRegBytes a (bytesOf 4 v)) fun x => a ≤ x ∧ x < a + 4 where
  device := rfl
  bytes x hx := by
    refine ⟨Mem.get_write_out _ _ _ _ (by rw [bytesOf_length]; omega), ?_⟩
    rw [State.putRegBytes, bytesOf_length, mem_clearRegPoison h]
    exact and_iff_left (by omega)

/-- One row of registers copied from `src` to `dst`, with its poison (R219). -/
def State.copyRow (s : State) (src dst : Nat) : State :=
  { s with
    store := Mem.write s.store dst (Mem.read s.store src 128)
    storeBad := delPoison s.storeBad dst 128 ++ (s.storeBad.filter fun x => src ≤ x && x < src + 128).map fun x => x - src + dst }

theorem State.onlyStoreAt_copyRow (s : State) (src dst : Nat) : s.onlyStoreAt (s.copyRow src dst) fun x => dst ≤ x ∧ x < dst + 128 where
  device := rfl
  bytes x hx := by
    refine ⟨Mem.get_write_out _ _ _ _ (by rw [Mem.read_length]; omega), ?_⟩
    simp only [State.copyRow, delPoison, List.mem_append, List.mem_filter, List.mem_map, Bool.not_eq_true', Bool.and_eq_true,
      Bool.and_eq_false_iff, decide_eq_false_iff_not, decide_eq_true_eq]
    constructor
    · rintro (⟨h, _⟩ | ⟨y, ⟨_, _⟩, rfl⟩)
      · exact h
      · omega
    · exact fun h => Or.inl ⟨h, by omega⟩

/-! ### The relation of a lane word's writes -/

/-- Where register vK of lane `l` lies in the window of gang `g` itself (R24). -/
def State.ownAddr (s : State) (g : Gang) (k l : Nat) : Nat := coreBase (s.coreOf g) + (g.wbase + k) * 128 + 4 * l

/-- Address `a` lies in page `p` of the window of gang `g` itself (R219). -/
def State.inPage (s : State) (g : Gang) (p a : Nat) : Prop :=
  coreBase (s.coreOf g) + (g.wbase + 16 * p) * 128 ≤ a ∧ a < coreBase (s.coreOf g) + (g.wbase + 16 * p) * 128 + 2048

/-- From `s` to `t` a word of gang `u` has made of each lane `l` what `f l` says and of the flags what `m` says, and has written the registers `rs`,
each a register, a lane and its value; pages of the gang's window may have been copied from its template's. -/
structure State.lanesWrote (s t : State) (u : Nat) (f : Nat → Lane → Lane) (m : Flags → Flags) (rs : List (Nat × Nat × Nat)) : Prop where
  found : Tbl.at? t.gangs u = some (t.gang u)
  device : t = { s with gangs := t.gangs, ctxs := t.ctxs, energy := t.energy, store := t.store, storeBad := t.storeBad }
  others : ∀ v, v ≠ u → Tbl.at? t.gangs v = Tbl.at? s.gangs v
  ctxs : s.sameCtxs t
  gang : t.gang u = { s.gang u with
    lanes := (t.gang u).lanes, mode := { (s.gang u).mode with flags := m (s.gang u).mode.flags }, shared := (t.gang u).shared }
  lanes : ∀ l, Tbl.at? (t.gang u).lanes l = (Tbl.at? (s.gang u).lanes l).map (f l)
  shared : ∀ p ∈ (t.gang u).shared, p ∈ (s.gang u).shared
  regs : ∀ x ∈ rs, x.2.1 < 32 ∧ x.1 / 16 ∉ (t.gang u).shared ∧ natOf (t.store.read (s.ownAddr (s.gang u) x.1 x.2.1) 4) = x.2.2 ∧
    poisoned t.storeBad (s.ownAddr (s.gang u) x.1 x.2.1) 4 = false
  bytes : ∀ a, (∀ p ∈ (s.gang u).shared, ¬ s.inPage (s.gang u) p a) →
    (∀ x ∈ rs, a < s.ownAddr (s.gang u) x.1 x.2.1 ∨ s.ownAddr (s.gang u) x.1 x.2.1 + 4 ≤ a) →
    t.store.get a = s.store.get a ∧ (a ∈ t.storeBad ↔ a ∈ s.storeBad)

/-- A register of a page that is the gang's own reads what stands in the gang's own window. -/
theorem State.readReg_own {s : State} {g : Gang} {k : Nat} (h : k / 16 ∉ g.shared) (l : Nat) :
    s.readReg g k l = (natOf (s.store.read (s.ownAddr g k l) 4), poisoned s.storeBad (s.ownAddr g k l) 4) := by
  have ha : s.regAddr g k l = s.ownAddr g k l := by rw [State.regAddr, State.pageOwner, if_neg (by simpa using h), State.ownAddr]
  rw [State.readReg, ha]

/-- A byte of a register lies in the page of that register and in no other. -/
theorem State.inPage_ownAddr {s : State} {g : Gang} {p k l i : Nat} (hl : l < 32) (hi : i < 4) :
    s.inPage g p (s.ownAddr g k l + i) ↔ p = k / 16 := by
  unfold State.inPage State.ownAddr
  omega

/-- Different registers of a window share no byte. -/
theorem State.ownAddr_apart {s : State} {g : Gang} {k l k' l' i : Nat} (hl : l < 32) (hl' : l' < 32) (hi : i < 4) (h : k ≠ k' ∨ l ≠ l') :
    s.ownAddr g k l + i < s.ownAddr g k' l' ∨ s.ownAddr g k' l' + 4 ≤ s.ownAddr g k l + i := by
  unfold State.ownAddr
  omega

section
variable {s t : State} {u : Nat} {f : Nat → Lane → Lane} {m : Flags → Flags} {rs : List (Nat × Nat × Nat)}

theorem State.lanesWrote.coreOf (h : s.lanesWrote t u f m rs) : t.coreOf (t.gang u) = s.coreOf (s.gang u) := by
  have ht : t.teams = s.teams := by rw [h.device]
  have hg : (t.gang u).team = (s.gang u).team := by rw [h.gang]
  rw [State.coreOf, State.team, ht, hg, State.coreOf, State.team]

theorem State.lanesWrote.wbase (h : s.lanesWrote t u f m rs) : (t.gang u).wbase = (s.gang u).wbase := by rw [h.gang]

theorem State.lanesWrote.ownAddr (h : s.lanesWrote t u f m rs) (k l : Nat) : t.ownAddr (t.gang u) k l = s.ownAddr (s.gang u) k l := by
  rw [State.ownAddr, h.coreOf, h.wbase, State.ownAddr]

theorem State.lanesWrote.inPage (h : s.lanesWrote t u f m rs) (p a : Nat) : t.inPage (t.gang u) p a ↔ s.inPage (s.gang u) p a := by
  rw [State.inPage, h.coreOf, h.wbase, State.inPage]

end

/-- Writes of a word one after the other: the later registers are others than the earlier ones. -/
theorem State.lanesWrote.trans {s t r : State} {u : Nat} {f f' : Nat → Lane → Lane} {m m' : Flags → Flags} {rs rs' : List (Nat × Nat × Nat)}
    (h : s.lanesWrote t u f m rs) (k : t.lanesWrote r u f' m' rs') (hd : ∀ x ∈ rs, ∀ y ∈ rs', x.1 ≠ y.1 ∨ x.2.1 ≠ y.2.1) :
    s.lanesWrote r u (fun l y => f' l (f l y)) (fun x => m' (m x)) (rs ++ rs') where
  found := k.found
  device := k.device.trans (by rw [h.device])
  others v hv := (k.others v hv).trans (h.others v hv)
  ctxs a := (k.ctxs a).trans (h.ctxs a)
  gang := k.gang.trans (by rw [h.gang])
  lanes l := by rw [k.lanes, h.lanes, Option.map_map]; rfl
  shared p hp := h.shared p (k.shared p hp)
  regs x hx := by
    rcases List.mem_append.1 hx with hx | hx
    · obtain ⟨hl, hp, hv, hb⟩ := h.regs x hx
      have keep : ∀ i < 4, r.store.get (s.ownAddr (s.gang u) x.1 x.2.1 + i) = t.store.get (s.ownAddr (s.gang u) x.1 x.2.1 + i) ∧
          (s.ownAddr (s.gang u) x.1 x.2.1 + i ∈ r.storeBad ↔ s.ownAddr (s.gang u) x.1 x.2.1 + i ∈ t.storeBad) := by
        intro i hi
        rw [← h.ownAddr]
        refine k.bytes _ (fun p hp' hin => ?_) fun y hy => State.ownAddr_apart hl (k.regs y hy).1 hi (hd x hx y hy)
        exact hp ((State.inPage_ownAddr hl hi).1 hin ▸ hp')
      refine ⟨hl, fun hp' => hp (k.shared _ hp'), ?_, ?_⟩
      · rw [Mem.read_congr fun i hi => (keep i hi).1, hv]
      · rw [poisoned_congr fun i hi => (keep i hi).2, hb]
    · have := k.regs x hx
      rwa [h.ownAddr] at this
  bytes a ha hx := by
    have h1 := h.bytes a ha fun x hm => hx x (List.mem_append_left _ hm)
    have h2 := k.bytes a (fun p hp hin => ha p (h.shared p hp) ((h.inPage p a).1 hin)) fun x hm => by
      rw [h.ownAddr]; exact hx x (List.mem_append_right _ hm)
    exact ⟨h2.1.trans h1.1, h2.2.trans h1.2⟩

/-- Later writes that name no register. -/
theorem State.lanesWrote.trans_nil {s t r : State} {u : Nat} {f f' : Nat → Lane → Lane} {m m' : Flags → Flags} {rs : List (Nat × Nat × Nat)}
    (h : s.lanesWrote t u f m rs) (k : t.lanesWrote r u f' m' []) : s.lanesWrote r u (fun l y => f' l (f l y)) (fun x => m' (m x)) rs := by
  have := h.trans k (by simp)
  rwa [List.append_nil] at this

/-- Nothing but energy counts, the store's shared pages and which pages are shared may differ: no lane, flag or register is written. -/
theorem State.lanesWrote_untouched {s t : State} {u : Nat} {sh : List Nat} (found : Tbl.at? t.gangs u = some { s.gang u with shared := sh })
    (device : t = { s with gangs := t.gangs, ctxs := t.ctxs, energy := t.energy, store := t.store, storeBad := t.storeBad })
    (others : ∀ v, v ≠ u → Tbl.at? t.gangs v = Tbl.at? s.gangs v) (ctxs : s.sameCtxs t) (sub : ∀ p ∈ sh, p ∈ (s.gang u).shared)
    (bytes : ∀ a, (∀ p ∈ (s.gang u).shared, ¬ s.inPage (s.gang u) p a) →
      t.store.get a = s.store.get a ∧ (a ∈ t.storeBad ↔ a ∈ s.storeBad)) :
    s.lanesWrote t u (fun _ y => y) id [] := by
  have hg := State.gang_of found
  exact
    { found := by rw [hg, found]
      device, others, ctxs
      gang := by rw [hg]; rfl
      lanes := fun l => by rw [hg]; simp
      shared := fun p hp => sub p (by rwa [hg] at hp)
      regs := fun x hx => by simp at hx
      bytes := fun a ha _ => bytes a ha }

/-! ### The writes of one lane -/

section
variable {s : State} {u : Nat} (hs : Tbl.at? s.gangs u = some (s.gang u))
include hs

theorem State.gang_modGang (F : Gang → Gang) : (s.modGang u F).gang u = F (s.gang u) :=
  State.gang_of (by rw [State.modGang_gangs, Tbl.at?_upd_self hs])

/-- A change of the gang's lanes and flags only, which are what every lane word changes of its gang. -/
theorem State.lanesWrote_modGang {F : Gang → Gang} {f : Nat → Lane → Lane} {m : Flags → Flags}
    (hF : F (s.gang u) = { s.gang u with lanes := (F (s.gang u)).lanes, mode := { (s.gang u).mode with flags := m (s.gang u).mode.flags } })
    (hl : ∀ l, Tbl.at? (F (s.gang u)).lanes l = (Tbl.at? (s.gang u).lanes l).map (f l)) : s.lanesWrote (s.modGang u F) u f m [] where
  found := by rw [State.gang_modGang hs, State.modGang_gangs, Tbl.at?_upd_self hs]
  device := rfl
  others v hv := by rw [State.modGang_gangs, Tbl.at?_upd_other _ _ hv]
  ctxs _ := rfl
  gang := by
    rw [State.gang_modGang hs]
    have hsh : (F (s.gang u)).shared = (s.gang u).shared := by rw [hF]
    rw [hsh]
    exact hF
  lanes l := by rw [State.gang_modGang hs, hl]
  shared p hp := by rwa [State.gang_modGang hs, hF] at hp
  regs x hx := by simp at hx
  bytes _ _ _ := ⟨rfl, Iff.rfl⟩

theorem State.lanesWrote_modLane (l : Nat) (F : Lane → Lane) :
    s.lanesWrote (s.modGang u fun g => g.modLane l F) u (fun k y => if k = l then F y else y) id [] := by
  refine State.lanesWrote_modGang hs rfl fun k => ?_
  rw [Gang.modLane, Tbl.at?_upd]
  split
  · next h => subst h; rfl
  · simp

theorem State.lanesWrote.refl : s.lanesWrote s u (fun _ y => y) id [] :=
  State.lanesWrote_untouched (sh := (s.gang u).shared) hs rfl (fun _ _ => rfl) (fun _ => rfl) (fun _ hp => hp) fun _ _ => ⟨rfl, Iff.rfl⟩

theorem State.lanesWrote_raise (fl : Flags) : s.lanesWrote (s.raise u fl) u (fun _ y => y) (· ||| fl) [] := by
  unfold State.raise
  split
  · next h =>
    have e : (· ||| fl) = (id : Flags → Flags) := funext fun _ => by rw [h]; exact BitVec.or_zero
    rw [e]
    exact State.lanesWrote.refl hs
  · exact State.lanesWrote_modGang hs rfl fun l => by simp [Gang.raise]

theorem State.lanesWrote_chargeGang (n : Nat) : s.lanesWrote (s.chargeGang u n) u (fun _ y => y) id [] := by
  obtain ⟨hd, hc⟩ := s.chargeGang_counts u n
  refine State.lanesWrote_untouched (sh := (s.gang u).shared) (by rw [State.chargeGang_gangs, hs]) (by rw [hd])
    (fun _ _ => by rw [State.chargeGang_gangs]) hc (fun _ hp => hp) fun a _ => ?_
  rw [hd]
  exact ⟨rfl, Iff.rfl⟩

/-- Bytes of shared pages of the gang's window only. -/
theorem State.onlyStoreAt.lanesWrote {t : State} (h : s.onlyStoreAt t fun a => ∃ p ∈ (s.gang u).shared, s.inPage (s.gang u) p a) :
    s.lanesWrote t u (fun _ y => y) id [] := by
  have hgs : t.gangs = s.gangs := by rw [h.device]
  exact State.lanesWrote_untouched (sh := (s.gang u).shared) (hgs ▸ hs) (by rw [h.device]) (fun _ _ => by rw [hgs])
    (fun a => by rw [h.device]) (fun _ hp => hp) fun a ha => h.bytes a fun ⟨p, hp, hin⟩ => ha p hp hin

/-- A page is no longer shared: nothing else of the gang changes. -/
theorem State.lanesWrote_unshare (p : Nat) :
    s.lanesWrote (s.modGang u fun g => { g with shared := g.shared.filter (· ≠ p) }) u (fun _ y => y) id [] :=
  State.lanesWrote_untouched (Tbl.at?_upd_self hs _) rfl (fun _ hv => Tbl.at?_upd_other _ _ hv) (fun _ => rfl)
    (fun _ hq => (List.mem_filter.1 hq).1) fun _ _ => ⟨rfl, Iff.rfl⟩

/-- A copy fault makes the page the gang's own and writes bytes of that page only (R219). -/
theorem State.lanesWrote_copyPage (p : Nat) :
    s.lanesWrote (s.copyPage u p) u (fun _ y => y) id [] ∧ p ∉ ((s.copyPage u p).gang u).shared := by
  by_cases hp : p ∈ (s.gang u).shared
  · have hc : (s.gang u).shared.contains p = true := by simpa using hp
    simp only [State.copyPage, hc, if_true]
    generalize (s.recOf (s.gang u)).regs = n
    generalize hr : List.foldl _ s _ = r
    have hrows : s.onlyStoreAt r fun a => s.inPage (s.gang u) p a := by
      rw [← hr]
      refine List.foldlRecOn (motive := fun r => s.onlyStoreAt r _) _ _ (State.onlyStoreAt.refl s _) fun r h i hi => h.trans ?_
      have hi16 : i < 16 := by simpa using (List.mem_filter.1 hi).1
      refine (State.onlyStoreAt_copyRow r _ _).mono fun a ha => ?_
      unfold State.inPage
      omega
    have h1 := (hrows.mono fun a ha => ⟨p, hp, ha⟩).lanesWrote hs
    have h2 := State.lanesWrote_chargeGang h1.found wCopyFault
    have h3 := State.lanesWrote_unshare h2.found p
    refine ⟨(h1.trans_nil h2).trans_nil h3, ?_⟩
    rw [State.gang_modGang h2.found]
    simp
  · rw [State.copyPage, if_neg (by simpa using hp)]
    exact ⟨State.lanesWrote.refl hs, hp⟩

/-- A register of a page that is the gang's own is written. -/
theorem State.lanesWrote_putReg {k l : Nat} (hl : l < 32) (hk : k / 16 ∉ (s.gang u).shared) (v : Nat) :
    s.lanesWrote (s.putRegBytes (s.ownAddr (s.gang u) k l) (bytesOf 4 v)) u (fun _ y => y) id [(k, l, v % 2 ^ 32)] := by
  have ha : s.ownAddr (s.gang u) k l % 4 = 0 := by unfold State.ownAddr coreBase; omega
  have hst := s.onlyStoreAt_putRegBytes ha v
  exact
    { found := hs
      device := rfl
      others := fun _ _ => rfl
      ctxs := fun _ => rfl
      gang := rfl
      lanes := fun l => by simp [State.gang, State.putRegBytes]
      shared := fun _ hp => hp
      regs := fun x hx => by
        obtain rfl := List.mem_singleton.1 hx
        refine ⟨hl, hk, ?_, ?_⟩
        · have := Mem.read_write_same s.store (s.ownAddr (s.gang u) k l) (bytesOf 4 v)
          rw [bytesOf_length] at this
          exact (congrArg natOf this).trans (natOf_bytesOf 4 v)
        · rw [State.putRegBytes, bytesOf_length]
          simp only [poisoned, List.any_eq_false, Bool.and_eq_true, decide_eq_true_eq]
          intro x hx
          have := (mem_clearRegPoison ha).1 hx
          omega
      bytes := fun a _ hx => hst.bytes a fun hin => by
        have := hx _ (List.mem_singleton.2 rfl)
        dsimp only at this
        omega }

theorem State.lanesWrote_writeReg {k l : Nat} (hl : l < 32) (v : Nat) :
    s.lanesWrote (s.writeReg u k l v) u (fun _ y => y) id [(k, l, v % 2 ^ 32)] := by
  obtain ⟨hc, hk⟩ := State.lanesWrote_copyPage hs (k / 16)
  exact hc.trans (State.lanesWrote_putReg hc.found hl hk v) (by simp)

end

end Sys2Proof.Machine
end

section
/-!
PROOF. What a lane word does whose lanes each depend on their own sources only (`State.perLane`): from the write of one lane to all active lanes and
to the cells that go on.
-/

namespace Sys2Proof.Machine

theorem State.lanesWrote.congr {s t : State} {u : Nat} {f f' : Nat → Lane → Lane} {m m' : Flags → Flags} {rs rs' : List (Nat × Nat × Nat)}
    (h : s.lanesWrote t u f m rs) (hf : ∀ l y, f l y = f' l y) (hm : ∀ x, m x = m' x) (hr : rs = rs') : s.lanesWrote t u f' m' rs' := by
  obtain rfl : f = f' := funext fun l => funext (hf l)
  obtain rfl : m = m' := funext hm
  exact hr ▸ h

/-! ### A result written to one lane -/

/-- Registers and their values, as registers of lane `l`. -/
def atLane (l : Nat) (rs : List (Nat × Nat)) : List (Nat × Nat × Nat) := rs.map fun k => (k.1, l, k.2)

section
variable {s : State} {u : Nat} (hs : Tbl.at? s.gangs u = some (s.gang u))
include hs

theorem State.lanesWrote_writeRegs {l : Nat} (hl : l < 32) (wide : Bool) (i v : Nat) :
    s.lanesWrote (if wide then (s.writeReg u i l (v % 2 ^ 32)).writeReg u (i + 1) l (v / 2 ^ 32) else s.writeReg u i l (v % 2 ^ 32)) u
      (fun _ y => y) id (atLane l ((i, v % 2 ^ 32) :: (if wide then [(i + 1, v / 2 ^ 32 % 2 ^ 32)] else []))) := by
  have h1 := State.lanesWrote_writeReg (k := i) hs hl (v % 2 ^ 32)
  rw [Nat.mod_mod] at h1
  cases wide with
  | false => exact h1
  | true => exact h1.trans (State.lanesWrote_writeReg h1.found hl _) (by simp)

/-- A result written to a lane: the lane is given it, and the main registers it names hold it. -/
theorem State.lanesWrote_putResult {l : Nat} (hl : l < 32) (wide : Bool) (d : Dst) (v : Nat) :
    s.lanesWrote (s.putResult u l wide d v) u (fun k y => if k = l then y.given d wide v else y) id (atLane l (dstRegs d wide v)) := by
  have latch {t : State} {f rs} (h : s.lanesWrote t u f id rs)
      (given : ∀ y, { f l y with latch := BitVec.ofNat 64 v, latchBad := false } = y.given d wide v) (other : ∀ k y, k ≠ l → f k y = y) :
      s.lanesWrote (t.modGang u fun g => g.modLane l fun x => { x with latch := BitVec.ofNat 64 v, latchBad := false }) u
        (fun k y => if k = l then y.given d wide v else y) id rs := by
    refine (h.trans_nil (State.lanesWrote_modLane h.found l _)).congr (fun k y => ?_) (fun _ => rfl) rfl
    split
    · next hk => rw [← given, hk]
    · next hk => exact other k y hk
  cases d with
  | latch => exact latch (State.lanesWrote.refl hs) (fun _ => rfl) fun _ _ _ => rfl
  | v i => exact latch (State.lanesWrote_writeRegs hs hl wide i.toNat v) (fun _ => rfl) fun _ _ _ => rfl
  | o j => exact latch (State.lanesWrote_modLane hs l _) (fun _ => by rw [if_pos rfl]; rfl) fun _ _ hk => if_neg hk
  | vo i j =>
    have h1 := State.lanesWrote_writeRegs hs hl wide i.toNat v
    exact latch (h1.trans_nil (State.lanesWrote_modLane h1.found l _)) (fun _ => by rw [if_pos rfl]; rfl) fun _ _ hk => if_neg hk

end

/-! ### One lane after another -/

/-- Lanes `ls`, each of which writes its own lane and registers, one after the other. -/
theorem State.lanesWrote_foldl {u : Nat} {step : State → Nat → State} {F : Nat → Lane → Lane} {fl : Nat → Flags} {R : Nat → List (Nat × Nat)}
    {ls : List Nat} (nd : ls.Nodup)
    (hstep : ∀ t : State, Tbl.at? t.gangs u = some (t.gang u) → ∀ l ∈ ls,
      t.lanesWrote (step t l) u (fun k y => if k = l then F l y else y) (· ||| fl l) (atLane l (R l)))
    {s : State} (hs : Tbl.at? s.gangs u = some (s.gang u)) :
    s.lanesWrote (ls.foldl step s) u (fun l y => if l ∈ ls then F l y else y) (fun x => ls.foldl (fun x l => x ||| fl l) x)
      (ls.flatMap fun l => atLane l (R l)) := by
  induction ls generalizing s with
  | nil => exact (State.lanesWrote.refl hs).congr (fun _ _ => by simp) (fun _ => rfl) rfl
  | cons l ls ih =>
    obtain ⟨hl, nd⟩ := List.nodup_cons.1 nd
    have h1 := hstep s hs l (List.mem_cons_self ..)
    have h2 := ih nd (fun t ht k hk => hstep t ht k (List.mem_cons_of_mem _ hk)) h1.found
    refine (h1.trans h2 fun x hx y hy => ?_).congr (fun k y => ?_) (fun _ => rfl) rfl
    · obtain ⟨_, _, rfl⟩ := List.mem_map.1 hx
      obtain ⟨k, hk, hy⟩ := List.mem_flatMap.1 hy
      obtain ⟨_, _, rfl⟩ := List.mem_map.1 hy
      exact Or.inr fun e : l = k => hl (e ▸ hk)
    · by_cases hk : k = l
      · subst hk; simp [hl]
      · simp [hk]

/-! ### Cells that go on -/

theorem Gang.goto_cells (g : Gang) (cells : List Nat) (lpc : Nat) :
    g.goto_ cells lpc = { g with cells := (g.goto_ cells lpc).cells, skipL := false } ∧
      ∀ c, Tbl.at? (g.goto_ cells lpc).cells c = (Tbl.at? g.cells c).map fun x => if c ∈ cells then x.at_ lpc else x := by
  induction cells generalizing g with
  | nil => exact ⟨rfl, fun c => by simp [Gang.goto_]⟩
  | cons d cells ih =>
    obtain ⟨h1, h2⟩ := ih (g.modCell d fun x => x.at_ lpc)
    refine ⟨h1, fun c => (h2 c).trans ?_⟩
    rw [Gang.modCell, Tbl.at?_upd]
    by_cases hc : c = d
    · subst hc
      rw [if_pos rfl, Option.map_map]
      simp [Function.comp_def, Cell.at_]
    · simp [hc]

/-! ### The word -/

theorem Gang.active_nodup (g : Gang) (cells : List Nat) (w : LaneOp) : (g.active cells w).Nodup := List.nodup_range.filter _

theorem Gang.lt_of_mem_active {g : Gang} {cells : List Nat} {w : LaneOp} {l : Nat} (h : l ∈ g.active cells w) : l < 32 :=
  List.mem_range.1 (List.mem_filter.1 h).1

/-- Once the active lanes of a word have written, its cells go on, and the word has done what its lanes have. -/
theorem State.lanesWrote.lanesDo {s t : State} {g : Gang} (hs : s.issuing g) {i : Instr} {w : LaneOp} {F : Nat → Lane → Lane}
    {R : Nat → List (Nat × Nat)} {fl : Nat → Flags} (e : exec i s = .next (t.laneNext s.cur t.cells))
    (h : s.lanesWrote t s.cur (fun l y => if l ∈ g.active s.cells w then F l y else y)
      (fun x => (g.active s.cells w).foldl (fun x l => x ||| fl l) x) ((g.active s.cells w).flatMap fun l => atLane l (R l))) :
    s.lanesDo i g w F R fl := by
  have hg : s.gang s.cur = g := State.gang_of hs
  have hc : t.cells = s.cells := by rw [h.device]
  have hcells : (t.gang s.cur).cells = g.cells := by rw [h.gang, hg]
  have hgang := h.gang
  rw [hc] at e
  rw [hg] at hgang
  obtain ⟨hgo, hat⟩ := Gang.goto_cells (t.gang s.cur) s.cells ((t.gang s.cur).lpcOf s.cells + 1)
  have hlpc : (t.gang s.cur).lpcOf s.cells = g.lpcOf s.cells := by rw [Gang.lpcOf, Gang.cell, hcells, Gang.lpcOf, Gang.cell]
  have mem {l : Nat} (hl : l ∈ g.active s.cells w) {k : Nat × Nat} (hk : k ∈ R l) :
      (k.1, l, k.2) ∈ (g.active s.cells w).flatMap fun l => atLane l (R l) :=
    List.mem_flatMap.2 ⟨l, hl, List.mem_map.2 ⟨k, hk, rfl⟩⟩
  refine ⟨_, _, e, Tbl.at?_upd_self h.found _, fun l => ?_, fun l hl k hk => ?_, ?_, ⟨?_, fun c => ?_⟩,
    ?_, fun v hv => ?_, h.ctxs, fun hsh a ha => ?_⟩
  · rw [hgo, ← congrArg Gang.lanes hg]
    exact h.lanes l
  · obtain ⟨_, hp, hv, hb⟩ := h.regs _ (mem hl hk)
    rw [← h.ownAddr] at hv hb
    rw [State.readReg_own (by rw [hgo]; exact hp), hgo]
    exact Prod.ext hv hb
  · rw [hgo, hgang]
  · rw [hgo, hgang]
  · rw [hat, hcells, hlpc]
    rfl
  · exact (congrArg (fun t : State => t.laneNext s.cur s.cells) h.device).trans rfl
  · exact (Tbl.at?_upd_other _ _ hv).trans (h.others v hv)
  · refine h.bytes a (fun p hp => by simp [hg, hsh] at hp) fun x hx => ?_
    obtain ⟨l, hl, hx⟩ := List.mem_flatMap.1 hx
    obtain ⟨k, hk, rfl⟩ := List.mem_map.1 hx
    have := ha l hl k hk
    rwa [State.regAddr, State.pageOwner, if_neg (by simp [hsh]), ← State.ownAddr, ← hg] at this

section
variable {s : State} {g : Gang} (hs : s.issuing g) {i : Instr} {opc eu : Nat} {w : LaneOp} (hw : s.legal g opc w)
  {srcs : Gang → Nat → List (Nat × Bool)} {f : Gang → Nat → List Nat → FRes} {val : Nat → FRes}
  (clean : ∀ l ∈ g.active s.cells w, ∀ x ∈ srcs g l, x.2 = false)
include hs hw clean

/-- A word with no poisoned source runs through all its active lanes, and its cells go on. -/
theorem State.perLane_clean (put : State → Nat → Nat → Nat → State) :
    s.perLane opc w eu srcs f put =
      .next (State.lanePoison ((g.active s.cells w).foldl
        (fun r l => (put r s.cur l (f g l ((srcs g l).map (·.1))).bits).raise s.cur (f g l ((srcs g l).map (·.1))).flags)
        (s.chargeCells s.cur eu (cellsOf (g.active s.cells w)))) s.cur [] []) := by
  have hany : ∀ e ∈ (g.active s.cells w).map fun l => (l, srcs g l), e.2.any (·.2) = false := by
    intro e he
    obtain ⟨l, hl, rfl⟩ := List.mem_map.1 he
    exact List.any_eq_false.2 fun x hx => by simp [clean l hl x hx]
  have hbad := List.filter_eq_nil_iff.2 fun e he => (Bool.eq_false_iff.1 (hany e he))
  have hok := List.filter_eq_self.2 fun e he => (congrArg (!·) (hany e he))
  rw [State.perLane, State.laneRun, hs]
  simp only [hw.1, hw.2, Bool.and_self, if_true, hbad, hok, List.map_nil, List.foldl_map]

/-- A word with no poisoned source does in every active lane what its `put` does there with that lane's result `val`. -/
theorem State.perLane_lanesDo {put : State → Nat → Nat → Nat → State} {F : Nat → Nat → Lane → Lane} {R : Nat → Nat → List (Nat × Nat)}
    (e : exec i s = s.perLane opc w eu srcs f put) (hval : ∀ l ∈ g.active s.cells w, f g l ((srcs g l).map (·.1)) = val l)
    (hput : ∀ (t : State) (l v : Nat), Tbl.at? t.gangs s.cur = some (t.gang s.cur) → l < 32 →
      t.lanesWrote (put t s.cur l v) s.cur (fun k y => if k = l then F l v y else y) id (atLane l (R l v))) :
    s.lanesDo i g w (fun l => F l (val l).bits) (fun l => R l (val l).bits) fun l => (val l).flags := by
  have hg : s.gang s.cur = g := State.gang_of hs
  have hfound : Tbl.at? s.gangs s.cur = some (s.gang s.cur) := by rw [hg]; exact hs
  have hc := State.lanesWrote_chargeGang hfound (eu * ((cellsOf (g.active s.cells w)).filter fun c => !((s.gang s.cur).cell c).unpaid).length)
  have hfold := State.lanesWrote_foldl
    (step := fun r l => (put r s.cur l (f g l ((srcs g l).map (·.1))).bits).raise s.cur (f g l ((srcs g l).map (·.1))).flags)
    (F := fun l => F l (val l).bits) (fl := fun l => (val l).flags) (R := fun l => R l (val l).bits) (g.active_nodup s.cells w)
    (fun r hr l hl => by
      rw [hval l hl]
      have h1 := hput r l (val l).bits hr (Gang.lt_of_mem_active hl)
      exact h1.trans_nil (State.lanesWrote_raise h1.found _)) hc.found
  exact (hc.trans hfold (by simp)).lanesDo hs (e.trans (State.perLane_clean hs hw clean put))

/-- A word whose result has the type's width gives every active lane its result, extended as R42 says. -/
theorem State.perLane_gives (e : exec i s = s.perLane opc w eu srcs f fun s u l v => s.putTy u l w.ty w.dst v)
    (hval : ∀ l ∈ g.active s.cells w, f g l ((srcs g l).map (·.1)) = val l) :
    s.lanesGive i g w (w.ty.width = 64) fun l => ⟨extendTo w.ty (val l).bits, (val l).flags⟩ :=
  State.perLane_lanesDo (F := fun _ v y => y.given w.dst (w.ty.width = 64) (extendTo w.ty v))
    (R := fun _ v => dstRegs w.dst (w.ty.width = 64) (extendTo w.ty v)) hs hw clean e hval
    fun _ _ _ ht hl => State.lanesWrote_putResult ht hl _ _ _

/-- A word whose result is a predicate gives every active lane its condition `p`. -/
theorem State.perLane_tests {p : Nat → Bool} (e : exec i s = s.perLane opc w eu srcs f fun s u l v => s.putPred u l w.dst (v = 1))
    (hval : ∀ l ∈ g.active s.cells w, f g l ((srcs g l).map (·.1)) = ⟨b2n (p l), 0⟩) : s.lanesTest i g w p fun _ => 0 := by
  have h := State.perLane_lanesDo hs hw clean e hval (R := fun _ _ => []) fun _ l _ ht _ => State.lanesWrote_modLane ht l _
  refine Eq.mp (congrArg (s.lanesDo i g w · _ _) (funext fun l => funext fun y => ?_)) h
  cases p l <;> rfl

end

end Sys2Proof.Machine
end

section
/-!
PROOF. The values of the integer lane words (R124 to R128): the machine's functions against wrapping, saturation and single bits.
-/

namespace Sys2Proof.Machine

/-! ### Wrapping -/

theorem two_pow_pos_int (n : Nat) : (0 : Int) < (2 ^ n : Nat) := Int.natCast_pos.2 (Nat.two_pow_pos n)

theorem wrapN_congr {n : Nat} {a b : Int} (h : a % (2 ^ n : Nat) = b % (2 ^ n : Nat)) : wrapN n a = wrapN n b := by
  rw [wrapN, wrapN, h]

theorem wrapN_natCast (n x : Nat) : wrapN n (x : Int) = x % 2 ^ n := by
  rw [wrapN, ← Int.natCast_emod, Int.toNat_natCast]

theorem natCast_wrapN (n : Nat) (r : Int) : (wrapN n r : Int) = r % (2 ^ n : Nat) :=
  Int.toNat_of_nonneg (Int.emod_nonneg _ (Int.ne_of_gt (two_pow_pos_int n)))

theorem wrapN_lt (n : Nat) (r : Int) : wrapN n r < 2 ^ n := by
  have := Int.emod_lt_of_pos r (two_pow_pos_int n)
  rw [← natCast_wrapN] at this
  exact Int.ofNat_lt.1 this

theorem sext_emod (n x : Nat) : sext n x % (2 ^ n : Nat) = (x : Int) % (2 ^ n : Nat) := by
  have hx : ((x % 2 ^ n : Nat) : Int) % (2 ^ n : Nat) = (x : Int) % (2 ^ n : Nat) := by
    rw [Int.natCast_emod, Int.emod_emod]
  unfold sext
  dsimp only
  split
  · exact hx
  · exact (Int.sub_emod_right _ _).trans hx

theorem Ty.int_emod (t : Ty) (x : Nat) : Ty.int t x % (2 ^ t.width : Nat) = (x : Int) % (2 ^ t.width : Nat) := by
  unfold Ty.int
  split
  · exact sext_emod _ _
  · rw [Int.natCast_emod, Int.emod_emod]

/-! ### Arithmetic (R124, R125, R128) -/

/-- R124: the exact result, or where the word saturates the bound it lies beyond, with ISAT. -/
theorem Gang.fit_eq (g : Gang) (w : LaneOp) (r : Int) :
    g.fit w r =
      if g.satOf w.sm = true ∧ (r < intMin w.ty.signed w.ty.width ∨ intMax w.ty.signed w.ty.width < r) then
        ⟨wrapN w.ty.width (if r < intMin w.ty.signed w.ty.width then intMin w.ty.signed w.ty.width else intMax w.ty.signed w.ty.width), 0x40⟩
      else ⟨wrapN w.ty.width r, 0⟩ := by
  unfold Gang.fit narrow sat
  by_cases hs : g.satOf w.sm = true
  · by_cases hlo : r < intMin w.ty.signed w.ty.width
    · simp [hs, hlo, Int.ne_of_gt hlo, fISAT]
    · by_cases hhi : intMax w.ty.signed w.ty.width < r
      · simp [hs, hlo, hhi, Int.ne_of_lt hhi, fISAT]
      · simp [hs, hlo, hhi]
  · simp [hs]

theorem plain_divQ (t : Ty) (a b : Int) : plain t (divQ t a b) = ⟨wrapN t.width (if b = 0 then -1 else a.tdiv b), 0⟩ := by
  unfold plain divQ
  split
  · split
    · rfl
    · have h : (2 ^ t.width - 1 : Int) = -1 + (2 ^ t.width : Nat) := by
        rw [Int.natCast_pow]
        exact Int.add_comm (2 ^ t.width) (-1)
      rw [h, wrapN_congr (Int.add_emod_right _ _)]
  · rfl

theorem ite_lt_eq_min (a b : Int) : (if b < a then b else a) = min a b := by rw [Int.min_def]; split <;> split <;> omega

theorem ite_lt_eq_max (a b : Int) : (if a < b then b else a) = max a b := by rw [Int.max_def]; split <;> split <;> omega

theorem natAbs_eq_ite (a : Int) : (a.natAbs : Int) = if a < 0 then -a else a := by split <;> omega

theorem natAbs_sub_eq_ite (a b : Int) : ((a - b).natAbs : Int) = if a < b then b - a else a - b := by split <;> omega

/-- R128: element `k` of 8 bits of a code. -/
def byteInt (t : Ty) (x k : Nat) : Int := if t.signed then sext 8 (x / 2 ^ (8 * k)) else ((x / 2 ^ (8 * k) % 256 : Nat) : Int)

theorem add_dot4 (t : Ty) (a b : Nat) (c : Int) :
    c + dot4 t a b =
      c + byteInt t a 0 * byteInt t b 0 + byteInt t a 1 * byteInt t b 1 + byteInt t a 2 * byteInt t b 2 + byteInt t a 3 * byteInt t b 3 := by
  have e (x k : Nat) : (if t.signed then sext 8 (x / 2 ^ (8 * k) % 256) else ((x / 2 ^ (8 * k) % 256 : Nat) : Int)) = byteInt t x k := by
    unfold byteInt sext
    simp
  simp only [dot4, e, List.range_succ, List.range_zero, List.nil_append, List.cons_append, List.foldl_cons, List.foldl_nil, Int.zero_add,
    Int.add_assoc]

/-! ### Bits of an integer -/

theorem bit_eq_testBit (x i : Nat) : bit x i = x.testBit i := by rw [bit, Nat.testBit_eq_decide_div_mod_eq]

/-- Bit `j` of an integer in two's complement. -/
def intBit (r : Int) (j : Nat) : Bool := decide (r / 2 ^ j % 2 = 1)

theorem intBit_natCast (x j : Nat) : intBit x j = x.testBit j := by
  rw [intBit, Nat.testBit_eq_decide_div_mod_eq]
  refine decide_eq_decide.2 ?_
  exact_mod_cast Iff.rfl

theorem intBit_div (r : Int) (k j : Nat) : intBit (r / 2 ^ k) j = intBit r (k + j) := by
  rw [intBit, Int.ediv_ediv_of_nonneg (Int.pow_nonneg (by decide)), ← Int.pow_add, intBit]

theorem intBit_emod {n j : Nat} (h : j < n) (a : Int) : intBit (a % (2 ^ n : Nat)) j = intBit a j := by
  obtain ⟨k, rfl⟩ : ∃ k, n = j + (k + 1) := ⟨n - j - 1, by omega⟩
  have ha : a = a % (2 ^ (j + (k + 1)) : Nat) + 2 ^ j * (2 * (2 ^ k * (a / (2 ^ (j + (k + 1)) : Nat)))) := by
    have e : ((2 ^ (j + (k + 1)) : Nat) : Int) = 2 ^ j * (2 * 2 ^ k) := by rw [Int.natCast_pow, Int.pow_add, Int.pow_succ']; rfl
    rw [← Int.mul_assoc 2, ← Int.mul_assoc, ← e, Int.emod_add_mul_ediv]
  generalize a % (2 ^ (j + (k + 1)) : Nat) = c at ha
  rw [ha, intBit, intBit, Int.add_mul_ediv_left _ _ (Int.ne_of_gt (Int.pow_pos (by decide))), Int.add_mul_emod_self_left]

theorem intBit_congr {n j : Nat} (h : j < n) {a b : Int} (e : a % (2 ^ n : Nat) = b % (2 ^ n : Nat)) : intBit a j = intBit b j := by
  rw [← intBit_emod h a, e, intBit_emod h b]

theorem testBit_wrapN {n j : Nat} (h : j < n) (r : Int) : (wrapN n r).testBit j = intBit r j := by
  rw [← intBit_natCast, natCast_wrapN, intBit_emod h]

theorem intBit_sext_low {n j : Nat} (h : j < n) (x : Nat) : intBit (sext n x) j = x.testBit j := by
  rw [intBit_congr h (sext_emod n x), intBit_natCast]

/-- The highest bit of a code of `n` bits tells whether it lies in the upper half. -/
theorem testBit_top {n : Nat} (h0 : 0 < n) (x : Nat) : x.testBit (n - 1) = decide (2 ^ (n - 1) ≤ x % 2 ^ n) := by
  have hlt : x % 2 ^ n < 2 ^ n := Nat.mod_lt _ (Nat.two_pow_pos n)
  have hx : x.testBit (n - 1) = (x % 2 ^ n).testBit (n - 1) := by
    rw [Nat.testBit_mod_two_pow, decide_eq_true (Nat.sub_lt h0 Nat.one_pos), Bool.true_and]
  rw [hx, Bool.eq_iff_iff, decide_eq_true_iff]
  refine ⟨Nat.ge_two_pow_of_testBit, fun hge => ?_⟩
  obtain ⟨i, hi, hb⟩ := Nat.exists_ge_and_testBit_of_ge_two_pow hge
  have hin : i < n := Nat.lt_of_not_le fun hn => by
    rw [Nat.testBit_lt_two_pow (Nat.lt_of_lt_of_le hlt (Nat.pow_le_pow_right (by decide) hn))] at hb
    cases hb
  obtain rfl : i = n - 1 := by omega
  exact hb

/-- Above its width a sign-extended code repeats its highest bit. -/
theorem intBit_sext_high {n j : Nat} (h0 : 0 < n) (h : n ≤ j) (x : Nat) : intBit (sext n x) j = x.testBit (n - 1) := by
  have hlt : x % 2 ^ n < 2 ^ n := Nat.mod_lt _ (Nat.two_pow_pos n)
  have hj : 2 ^ n ≤ 2 ^ j := Nat.pow_le_pow_right (by decide) h
  have cast (k : Nat) : (2 : Int) ^ k = (2 ^ k : Nat) := (Int.natCast_pow 2 k).symm
  have hpos : (0 : Int) < 2 ^ j := Int.pow_pos (by decide)
  rw [testBit_top h0, intBit]
  unfold sext
  dsimp only
  split
  · next hs =>
    have hzero : ((x % 2 ^ n : Nat) : Int) / 2 ^ j = 0 := Int.ediv_eq_zero_of_lt (Int.natCast_nonneg _) (by rw [cast]; omega)
    rw [hzero, decide_eq_false (Nat.not_le.2 hs)]
    rfl
  · next hs =>
    have hneg : (((x % 2 ^ n : Nat) : Int) - 2 ^ n) / 2 ^ j = -1 :=
      ((Int.ediv_emod_unique (r := ((x % 2 ^ n : Nat) : Int) - 2 ^ n + 2 ^ j) hpos).2
        ⟨by omega, by rw [cast, cast]; omega, by rw [cast, cast]; omega⟩).1
    rw [hneg, decide_eq_true (Nat.le_of_not_lt hs)]
    rfl

/-! ### Bit words (R124, R126) -/

theorem State.readReg_lt (s : State) (g : Gang) (k l : Nat) : (s.readReg g k l).1 < 2 ^ 32 := by
  have key (bs : List Byte) : natOf bs < 256 ^ bs.length := by
    induction bs with
    | nil => simp [natOf]
    | cons b r ih =>
      have := b.isLt
      rw [natOf, List.length_cons, Nat.pow_succ]
      omega
  have := key (s.store.read (s.regAddr g k l) 4)
  rwa [Mem.read_length] at this

/-- A source read as an integer has the bits of its width only. -/
theorem State.srcInt_lt (s : State) (g : Gang) (l n : Nat) (imm : BitVec 20) (x : Src) : (s.srcInt g l n imm x).1 < 2 ^ n := by
  have hmod (y : Nat) : y % 2 ^ n < 2 ^ n := Nat.mod_lt _ (Nat.two_pow_pos n)
  unfold State.srcInt
  split
  · exact wrapN_lt _ _
  · unfold State.srcRaw
    cases x with
    | v i =>
      have h0 := s.readReg_lt g i.toNat l
      have h1 := s.readReg_lt g (i.toNat + 1) l
      dsimp only
      split
      · next hn => subst hn; dsimp only; omega
      · exact hmod _
    | o i =>
      have h0 := (Tbl.atD (g.lane l).o i.toNat 0).isLt
      have h1 := (Tbl.atD (g.lane l).o (i.toNat + 1) 0).isLt
      dsimp only
      split
      · next hn => subst hn; dsimp only; omega
      · exact hmod _
    | imm => exact Nat.two_pow_pos n
    | lt => exact hmod _
    | k i => exact hmod _
    | sp y => exact hmod _

theorem popcount_eq_countP (n x : Nat) : popcount n x = (List.range n).countP fun j => x.testBit j := by
  induction n generalizing x with
  | zero => rfl
  | succ n ih =>
    rw [popcount, ih, List.range_succ_eq_map, List.countP_cons, List.countP_map, Nat.testBit_zero, Nat.add_comm]
    congr 1
    · simp [Function.comp_def, Nat.testBit_succ]
    · rcases Nat.mod_two_eq_zero_or_one x with h | h <;> simp [h]

section
variable {n x : Nat} (hx : x < 2 ^ n)
include hx

/-- The number of zero bits above the highest one bit is the only number of that kind. -/
theorem clz_eq {z : Nat} (hz : z ≤ n) (zeros : ∀ j, n - z ≤ j → x.testBit j = false) (one : z < n → x.testBit (n - 1 - z) = true) :
    clz n x = z := by
  have hlt : x < 2 ^ (n - z) := Nat.lt_pow_two_of_testBit x zeros
  have hlen : bitLen x = n - z := by
    unfold bitLen
    by_cases hzn : z < n
    · have hge := Nat.ge_two_pow_of_testBit (one hzn)
      have h0 : x ≠ 0 := Nat.ne_of_gt (Nat.lt_of_lt_of_le (Nat.two_pow_pos _) hge)
      rw [if_neg h0, (Nat.log2_eq_iff h0).2 ⟨hge, by rwa [show n - 1 - z + 1 = n - z by omega]⟩]
      omega
    · rw [show n - z = 0 by omega, Nat.pow_zero] at hlt
      rw [if_pos (by omega)]
      omega
  rw [clz, Nat.mod_eq_of_lt hx, hlen]
  omega

/-- A rotation's two parts share no bit. -/
theorem rotate_eq_or {k : Nat} (hk : k ≤ n) : x * 2 ^ k + x / 2 ^ (n - k) = x <<< k ||| x >>> (n - k) := by
  have hlow : x >>> (n - k) < 2 ^ k := by
    rw [Nat.shiftRight_eq_div_pow, Nat.div_lt_iff_lt_mul (Nat.two_pow_pos _), ← Nat.pow_add, Nat.add_sub_cancel' hk]
    exact hx
  rw [← Nat.shiftLeft_add_eq_or_of_lt hlow, Nat.shiftLeft_eq, Nat.shiftRight_eq_div_pow]

end

theorem plain_not {t : Ty} {x : Nat} (hx : x < 2 ^ t.width) : plain t (-(Ty.int t x) - 1) = ⟨2 ^ t.width - 1 - x, 0⟩ := by
  have h : (-(Ty.int t x) - 1) % (2 ^ t.width : Nat) = ((2 ^ t.width - 1 - x : Nat) : Int) % (2 ^ t.width : Nat) := by
    calc (-(Ty.int t x) - 1) % (2 ^ t.width : Nat)
        = (-1 - Ty.int t x) % (2 ^ t.width : Nat) := by rw [show -(Ty.int t x) - 1 = -1 - Ty.int t x by omega]
      _ = (-1 - (x : Int)) % (2 ^ t.width : Nat) := by rw [Int.sub_emod, Ty.int_emod, ← Int.sub_emod]
      _ = (-1 - (x : Int) + (2 ^ t.width : Nat)) % (2 ^ t.width : Nat) := (Int.add_emod_right _ _).symm
      _ = ((2 ^ t.width - 1 - x : Nat) : Int) % (2 ^ t.width : Nat) := by
        rw [show -1 - (x : Int) + (2 ^ t.width : Nat) = ((2 ^ t.width - 1 - x : Nat) : Int) by omega]
  rw [plain, wrapN_congr h, wrapN_natCast, Nat.mod_eq_of_lt (by omega)]

/-! ### Bit fields (R126) -/

/-- Bit `p` of a code of type `t`, extended above its width by the type. -/
def wholeBit (t : Ty) (x p : Nat) : Bool := if p < t.width then x.testBit p else t.signed && x.testBit (t.width - 1)

theorem intBit_whole {t : Ty} {x : Nat} (hx : x < 2 ^ t.width) (p : Nat) :
    intBit (if t.signed then sext t.width x else (x : Int)) p = wholeBit t x p := by
  unfold wholeBit
  by_cases hp : p < t.width
  · rw [if_pos hp]
    split
    · exact intBit_sext_low hp x
    · exact intBit_natCast x p
  · rw [if_neg hp]
    have hpw : t.width ≤ p := Nat.le_of_not_lt hp
    cases t.signed with
    | true => exact intBit_sext_high t.width_pos hpw x
    | false =>
      refine (intBit_natCast x p).trans (Nat.testBit_lt_two_pow ?_)
      exact Nat.lt_of_lt_of_le hx (Nat.pow_le_pow_right (by decide) hpw)

/-- Bit `j` of an extracted field: of the code inside the field, and above it of the field's highest bit or 0. -/
theorem intBit_bfx {t : Ty} {x : Nat} (hx : x < 2 ^ t.width) (c j : Nat) :
    intBit (bfx t x c) j =
      if c / 256 % 128 = 0 then false
      else if j < c / 256 % 128 then wholeBit t x (c % 64 + j) else t.signed && wholeBit t x (c % 64 + c / 256 % 128 - 1) := by
  unfold bfx
  rw [show bits c 14 8 = c / 256 % 128 from rfl]
  generalize c / 256 % 128 = len
  generalize c % 64 = pos
  dsimp only
  by_cases h0 : len = 0
  · rw [if_pos h0, if_pos h0]
    simp [intBit]
  rw [if_neg h0, if_neg h0]
  have hfield {i : Nat} (hi : i < len) :
      (wrapN len ((if t.signed then sext t.width x else (x : Int)) / 2 ^ pos)).testBit i = wholeBit t x (pos + i) := by
    rw [testBit_wrapN hi, intBit_div, intBit_whole hx]
  by_cases hj : j < len
  · rw [if_pos hj, ← hfield hj]
    split
    · exact intBit_sext_low hj _
    · exact intBit_natCast _ j
  · have hlen : len ≤ j := Nat.le_of_not_lt hj
    rw [if_neg hj, show pos + len - 1 = pos + (len - 1) by omega, ← hfield (by omega)]
    cases t.signed with
    | true => exact intBit_sext_high (by omega) hlen _
    | false =>
      refine (intBit_natCast _ j).trans (Nat.testBit_lt_two_pow ?_)
      exact Nat.lt_of_lt_of_le (wrapN_lt _ _) (Nat.pow_le_pow_right (by decide) hlen)

/-- Two numbers of `n` bits with the same bits are equal. -/
theorem eq_of_low_testBit {n x y : Nat} (hx : x < 2 ^ n) (hy : y < 2 ^ n) (h : ∀ j < n, x.testBit j = y.testBit j) : x = y := by
  refine Nat.eq_of_testBit_eq fun j => ?_
  by_cases hj : j < n
  · exact h j hj
  · have hp := Nat.pow_le_pow_right (show 0 < 2 by decide) (Nat.le_of_not_lt hj)
    rw [Nat.testBit_lt_two_pow (Nat.lt_of_lt_of_le hx hp), Nat.testBit_lt_two_pow (Nat.lt_of_lt_of_le hy hp)]

theorem plain_bfx {t : Ty} {x c z : Nat} (hx : x < 2 ^ t.width) (hz : z < 2 ^ t.width)
    (h : ∀ j < t.width, z.testBit j =
      if c / 256 % 128 = 0 then false
      else if j < c / 256 % 128 then wholeBit t x (c % 64 + j) else t.signed && wholeBit t x (c % 64 + c / 256 % 128 - 1)) :
    plain t (bfx t x c) = ⟨z, 0⟩ := by
  have : wrapN t.width (bfx t x c) = z := eq_of_low_testBit (wrapN_lt _ _) hz fun j hj => by
    rw [testBit_wrapN hj, intBit_bfx hx, h j hj]
  rw [plain, this]

/-- A number put together from its bits. -/
theorem testBit_sum_bits (p : Nat → Bool) (w : Nat) :
    (List.range w).foldl (fun n i => n + 2 ^ i * b2n (p i)) 0 < 2 ^ w ∧
      ∀ j < w, ((List.range w).foldl (fun n i => n + 2 ^ i * b2n (p i)) 0).testBit j = p j := by
  induction w with
  | zero => simp
  | succ w ih =>
    obtain ⟨hlt, hbit⟩ := ih
    rw [List.range_succ, List.foldl_append]
    generalize (List.range w).foldl (fun n i => n + 2 ^ i * b2n (p i)) 0 = y at hlt hbit
    simp only [List.foldl_cons, List.foldl_nil]
    constructor
    · have hb : b2n (p w) ≤ 1 := by cases p w <;> decide
      have := Nat.mul_le_mul_left (2 ^ w) hb
      rw [Nat.pow_succ]
      omega
    · intro j hj
      rw [Nat.add_comm, Nat.testBit_two_pow_mul_add _ hlt]
      split
      · next h => exact hbit j h
      · next h =>
        obtain rfl : j = w := by omega
        rw [Nat.sub_self]
        cases p j <;> rfl

theorem bfi_eq {n x y c z : Nat} (hz : z < 2 ^ n)
    (h : ∀ j < n, z.testBit j = if c % 64 ≤ j ∧ j < c % 64 + c / 256 % 128 then y.testBit (j - c % 64) else x.testBit j) : bfi n x y c = z := by
  obtain ⟨hlt, hbit⟩ := testBit_sum_bits
    (fun i => if c % 64 ≤ i && i < c % 64 + bits c 14 8 then bit y (i - c % 64) else bit x i) n
  refine eq_of_low_testBit hlt hz fun j hj => (hbit j hj).trans ?_
  rw [h j hj, show bits c 14 8 = c / 256 % 128 from rfl]
  simp only [bit_eq_testBit, Bool.and_eq_true, decide_eq_true_eq]

end Sys2Proof.Machine
end

section
/-!
PROOF. The integer lane words (R124 to R128), by the shape of each: one, two or three sources of the type's width, a 32-bit control, or a predicate.
-/

namespace Sys2Proof.Machine

section
variable {s : State} {g : Gang} (hs : s.issuing g) {i : Instr} {opc : Nat} {w : LaneOp} (hw : s.legal g opc w) {val : Nat → FRes}
include hs hw

/-! ### Shapes -/

/-- A word of `n` sources of the type's width. -/
theorem State.intWord_gives {n : Nat} {f : Gang → List Nat → FRes}
    (clean : ∀ l ∈ g.active s.cells w, ∀ x ∈ [w.sa, w.sb, w.sc].take n, (s.srcInt g l w.ty.width w.imm x).2 = false)
    (e : exec i s = s.intWord opc w n f)
    (hval : ∀ l ∈ g.active s.cells w, f g (([w.sa, w.sb, w.sc].take n).map fun x => (s.srcInt g l w.ty.width w.imm x).1) = val l) :
    s.lanesGive i g w (w.ty.width = 64) fun l => ⟨extendTo w.ty (val l).bits, (val l).flags⟩ := by
  refine State.perLane_gives hs hw (fun l hl x hx => ?_) e fun l hl => ?_
  · obtain ⟨y, hy, rfl⟩ := List.mem_map.1 hx
    exact clean l hl y hy
  · rw [List.map_map]
    exact hval l hl

theorem State.int1_gives {f : Gang → Int → FRes}
    (clean : ∀ l ∈ g.active s.cells w, ∀ x ∈ [w.sa], (s.srcInt g l w.ty.width w.imm x).2 = false)
    (e : exec i s = s.int1 opc w f) (hval : ∀ l ∈ g.active s.cells w, f g (Ty.int w.ty (s.srcInt g l w.ty.width w.imm w.sa).1) = val l) :
    s.lanesGive i g w (w.ty.width = 64) fun l => ⟨extendTo w.ty (val l).bits, (val l).flags⟩ :=
  State.intWord_gives (n := 1) hs hw clean e hval

theorem State.int2_gives {f : Gang → Int → Int → FRes}
    (clean : ∀ l ∈ g.active s.cells w, ∀ x ∈ [w.sa, w.sb], (s.srcInt g l w.ty.width w.imm x).2 = false) (e : exec i s = s.int2 opc w f)
    (hval : ∀ l ∈ g.active s.cells w,
      f g (Ty.int w.ty (s.srcInt g l w.ty.width w.imm w.sa).1) (Ty.int w.ty (s.srcInt g l w.ty.width w.imm w.sb).1) = val l) :
    s.lanesGive i g w (w.ty.width = 64) fun l => ⟨extendTo w.ty (val l).bits, (val l).flags⟩ :=
  State.intWord_gives (n := 2) hs hw clean e hval

theorem State.int3_gives {f : Gang → Int → Int → Int → FRes}
    (clean : ∀ l ∈ g.active s.cells w, ∀ x ∈ [w.sa, w.sb, w.sc], (s.srcInt g l w.ty.width w.imm x).2 = false) (e : exec i s = s.int3 opc w f)
    (hval : ∀ l ∈ g.active s.cells w, f g (Ty.int w.ty (s.srcInt g l w.ty.width w.imm w.sa).1)
      (Ty.int w.ty (s.srcInt g l w.ty.width w.imm w.sb).1) (Ty.int w.ty (s.srcInt g l w.ty.width w.imm w.sc).1) = val l) :
    s.lanesGive i g w (w.ty.width = 64) fun l => ⟨extendTo w.ty (val l).bits, (val l).flags⟩ :=
  State.intWord_gives (n := 3) hs hw clean e hval

theorem State.shiftWord_gives {f : Gang → Nat → Nat → FRes}
    (clean : ∀ l ∈ g.active s.cells w, (s.srcInt g l w.ty.width w.imm w.sa).2 = false ∧ (s.srcInt g l 32 w.imm w.sb).2 = false)
    (e : exec i s = s.shiftWord opc w f)
    (hval : ∀ l ∈ g.active s.cells w, f g (s.srcInt g l w.ty.width w.imm w.sa).1 (s.srcInt g l 32 w.imm w.sb).1 = val l) :
    s.lanesGive i g w (w.ty.width = 64) fun l => ⟨extendTo w.ty (val l).bits, (val l).flags⟩ :=
  State.perLane_gives hs hw (fun l hl => by simpa using clean l hl) e hval

theorem State.bitWord_gives {f : Nat → Nat → Nat}
    (clean : ∀ l ∈ g.active s.cells w, ∀ x ∈ [w.sa, w.sb], (s.srcInt g l w.ty.width w.imm x).2 = false) (e : exec i s = s.bitWord opc w f)
    (hval : ∀ l ∈ g.active s.cells w, (⟨f (s.srcInt g l w.ty.width w.imm w.sa).1 (s.srcInt g l w.ty.width w.imm w.sb).1, 0⟩ : FRes) = val l) :
    s.lanesGive i g w (w.ty.width = 64) fun l => ⟨extendTo w.ty (val l).bits, (val l).flags⟩ :=
  State.intWord_gives (n := 2) hs hw clean e hval

end

/-- R126: VBFI reads two sources of the type's width and a 32-bit control. -/
theorem vbfi_gives {s : State} {g : Gang} (hs : s.issuing g) {w : LaneOp} (hw : s.legal g 0x16 w) {z : Nat → Nat}
    (clean : ∀ l ∈ g.active s.cells w, ((s.srcInt g l w.ty.width w.imm w.sa).2 = false ∧ (s.srcInt g l w.ty.width w.imm w.sb).2 = false) ∧
      (s.srcInt g l 32 w.imm w.sc).2 = false)
    (hval : ∀ l ∈ g.active s.cells w, bfi w.ty.width (s.srcInt g l w.ty.width w.imm w.sa).1 (s.srcInt g l w.ty.width w.imm w.sb).1
      (s.srcInt g l 32 w.imm w.sc).1 = z l) : s.lanesGive (.vbfi w) g w (w.ty.width = 64) fun l => ⟨extendTo w.ty (z l), 0⟩ := by
  have e : exec (.vbfi w) s = execVbfi w s := rfl
  rw [execVbfi] at e
  exact State.perLane_gives (val := fun l => ⟨z l, 0⟩) hs hw (fun l hl => by simpa [and_assoc] using clean l hl) e
    fun l hl => congrArg (FRes.mk · 0) (hval l hl)

/-! ### Predicates (R127) -/

/-- R127: bit 3 of FN inverts the choice. -/
theorem vsel_choice (p : Bool) (fn : BitVec 4) (a b : Nat) :
    (if p != bit fn.toNat 3 then a else b) = if p = (decide (fn.toNat < 8) : Bool) then a else b := by
  have h : bit fn.toNat 3 = !decide (fn.toNat < 8) := by revert fn; decide
  rw [h]
  cases p <;> cases decide (fn.toNat < 8) <;> rfl

/-- R127: VADC leaves its carry in the predicate that FN names, one of p0 to p7. -/
theorem fn_lt_of_vadc {s : State} {g : Gang} {w : LaneOp} (hw : s.legal g 0x19 w) : w.fn.toNat < 8 := by
  refine Nat.lt_of_not_le fun h => ?_
  have : laneSpec 0x19 w = none := by simp [laneSpec, Nat.not_lt.2 h]
  have hok := hw.1
  rw [laneOk, this] at hok
  cases hok

section
variable {s : State} {g : Gang} (hs : s.issuing g) {w : LaneOp}
  (clean : ∀ l ∈ g.active s.cells w, (s.srcInt g l w.ty.width w.imm w.sa).2 = false ∧ (s.srcInt g l w.ty.width w.imm w.sb).2 = false)
include hs clean

theorem vcmp_tests (hw : s.legal g 0x17 w) :
    s.lanesTest (.vcmp w) g w (fun l => icmp w.fn.toNat (Ty.int w.ty (s.srcInt g l w.ty.width w.imm w.sa).1)
      (Ty.int w.ty (s.srcInt g l w.ty.width w.imm w.sb).1)) fun _ => 0 := by
  have e : exec (.vcmp w) s = execVcmp w s := rfl
  rw [execVcmp] at e
  exact State.perLane_tests hs hw (fun l hl => by simpa using clean l hl) e fun _ _ => rfl

theorem vsel_gives (hw : s.legal g 0x18 w) :
    s.lanesGive (.vsel w) g w (w.ty.width = 64) fun l =>
      ⟨extendTo w.ty (if (g.lane l).pred (w.fn.toNat % 8) = (decide (w.fn.toNat < 8) : Bool) then (s.srcInt g l w.ty.width w.imm w.sa).1
        else (s.srcInt g l w.ty.width w.imm w.sb).1), 0⟩ := by
  have e : exec (.vsel w) s = execVsel w s := rfl
  rw [execVsel] at e
  exact State.perLane_gives (val := fun l => ⟨if (g.lane l).pred (w.fn.toNat % 8) = (decide (w.fn.toNat < 8) : Bool) then
      (s.srcInt g l w.ty.width w.imm w.sa).1 else (s.srcInt g l w.ty.width w.imm w.sb).1, 0⟩)
    hs hw (fun l hl => by simpa using clean l hl) e fun _ _ => congrArg (FRes.mk · 0) (vsel_choice _ _ _ _)

theorem vadc_does (hw : s.legal g 0x19 w) :
    let sum := fun l => (s.srcInt g l w.ty.width w.imm w.sa).1 + (s.srcInt g l w.ty.width w.imm w.sb).1 +
      if (g.lane l).pred (w.fn.toNat % 8) then 1 else 0
    s.lanesDo (.vadc w) g w
      (fun l z => (z.given w.dst (w.ty.width = 64) (extendTo w.ty (sum l))).setPred (w.fn.toNat % 8) (2 ^ w.ty.width ≤ sum l))
      (fun l => dstRegs w.dst (w.ty.width = 64) (extendTo w.ty (sum l))) fun _ => 0 := by
  rw [Nat.mod_eq_of_lt (fn_lt_of_vadc hw)]
  intro sum
  have e : exec (.vadc w) s = execVadc w s := rfl
  rw [execVadc] at e
  refine State.perLane_lanesDo (val := fun l => ⟨sum l, 0⟩)
    (F := fun _ v z => (z.given w.dst (w.ty.width = 64) (extendTo w.ty v)).setPred w.fn.toNat (2 ^ w.ty.width ≤ v))
    (R := fun _ v => dstRegs w.dst (w.ty.width = 64) (extendTo w.ty v)) hs hw (fun l hl => by simpa using clean l hl) e
    (fun _ _ => rfl) fun t l v ht hl => ?_
  have h := State.lanesWrote_putResult ht hl (w.ty.width = 64) w.dst (extendTo w.ty v)
  refine (h.trans_nil (State.lanesWrote_modLane h.found l _)).congr (fun k y => ?_) (fun _ => rfl) rfl
  split <;> rfl

end

/-! ### The words -/

/-- Settles O32: every word reads its sources, gives each active lane the value of its function and lets the cells go on (`State.perLane`); what is left
is the value of each function, by wrapping and saturation for the arithmetic and bit by bit for the fields. -/
theorem laneIntegers : Obligations.LaneIntegers := by
  unfold Obligations.LaneIntegers
  refine ⟨fun s g hs w => ?_, fun s g hs w => ?_, fun s g hs w => ?_⟩
  · intro act n src int lo hi exact fit gives a b c two
    exact ⟨fun hw hc => State.int2_gives hs hw hc (show exec (.vadd w) s = execVadd w s from rfl) fun l _ => g.fit_eq w _,
      fun hw hc => State.int2_gives hs hw hc (show exec (.vsub w) s = execVsub w s from rfl) fun l _ => g.fit_eq w _,
      fun hw hc => State.int2_gives hs hw hc (show exec (.vmul w) s = execVmul w s from rfl) fun l _ => g.fit_eq w _,
      fun hw hc => State.int2_gives hs hw hc (show exec (.vmulh w) s = execVmulh w s from rfl) fun l _ => rfl,
      fun hw hc => State.int3_gives hs hw hc (show exec (.vmad w) s = execVmad w s from rfl) fun l _ => g.fit_eq w _,
      fun hw hc => State.int2_gives hs hw hc (show exec (.vdiv w) s = execVdiv w s from rfl) fun l _ => plain_divQ _ _ _,
      fun hw hc => State.int2_gives hs hw hc (show exec (.vrem w) s = execVrem w s from rfl) fun l _ => rfl,
      fun hw hc => State.int1_gives hs hw hc (show exec (.vabs w) s = execVabs w s from rfl) fun l _ =>
        natAbs_eq_ite (a l) ▸ g.fit_eq w _,
      fun hw hc => State.int1_gives hs hw hc (show exec (.vneg w) s = execVneg w s from rfl) fun l _ => g.fit_eq w _,
      fun hw hc => State.int2_gives hs hw hc (show exec (.vmin w) s = execVmin w s from rfl) fun l _ =>
        congrArg (plain w.ty) (ite_lt_eq_min (a l) (b l)),
      fun hw hc => State.int2_gives hs hw hc (show exec (.vmax w) s = execVmax w s from rfl) fun l _ =>
        congrArg (plain w.ty) (ite_lt_eq_max (a l) (b l)),
      fun hw hc => State.int3_gives hs hw hc (show exec (.vsad w) s = execVsad w s from rfl) fun l _ =>
        congrArg (fun d => plain w.ty (c l + d)) (natAbs_sub_eq_ite (a l) (b l)),
      fun hw hc => State.intWord_gives (n := 3) hs hw hc (show exec (.vdot4 w) s = execVdot4 w s from rfl) fun l _ =>
        (congrArg (g.fit w) (add_dot4 w.ty (src w.sa l).1 (src w.sb l).1 (c l))).trans (g.fit_eq w _)⟩
  · intro act n src ctl lo hi fit gives pat a b k one two sh
    have lt (x : Src) (l : Nat) : (src x l).1 < 2 ^ n := s.srcInt_lt g l n w.imm x
    have two_clean (hc : ∀ l ∈ act, two l) : ∀ l ∈ act, ∀ x ∈ [w.sa, w.sb], (src x l).2 = false := fun l hl => by simpa using hc l hl
    have one_clean (hc : ∀ l ∈ act, one l) : ∀ l ∈ act, ∀ x ∈ [w.sa], (src x l).2 = false := fun l hl => by simpa using hc l hl
    exact ⟨fun hw hc => State.bitWord_gives hs hw (two_clean hc) (show exec (.vand w) s = execVand w s from rfl) fun l _ => rfl,
      fun hw hc => State.bitWord_gives hs hw (two_clean hc) (show exec (.vor w) s = execVor w s from rfl) fun l _ => rfl,
      fun hw hc => State.bitWord_gives hs hw (two_clean hc) (show exec (.vxor w) s = execVxor w s from rfl) fun l _ => rfl,
      fun hw hc => State.int1_gives hs hw (one_clean hc) (show exec (.vnot w) s = execVnot w s from rfl) fun l _ => plain_not (lt w.sa l),
      fun hw hc => State.shiftWord_gives hs hw hc (show exec (.vshl w) s = execVshl w s from rfl) fun l _ => g.fit_eq w _,
      fun hw hc => State.shiftWord_gives hs hw hc (show exec (.vshr w) s = execVshr w s from rfl) fun l _ =>
        congrArg (FRes.mk · 0) (Nat.shiftRight_eq_div_pow (a l) (k l)).symm,
      fun hw hc => State.shiftWord_gives hs hw hc (show exec (.vsra w) s = execVsra w s from rfl) fun l _ => rfl,
      fun hw hc => State.shiftWord_gives hs hw hc (show exec (.vrot w) s = execVrot w s from rfl) fun l _ =>
        congrArg (fun x => FRes.mk (x % 2 ^ n) 0) (rotate_eq_or (lt w.sa l) (Nat.le_of_lt (Nat.mod_lt _ w.ty.width_pos))),
      fun hw hc => State.intWord_gives (n := 1) hs hw (one_clean hc) (show exec (.vpopc w) s = execVpopc w s from rfl) fun l _ =>
        congrArg (FRes.mk · 0) (popcount_eq_countP n (a l)),
      fun z hz hw hc => State.intWord_gives (n := 1) hs hw (one_clean hc) (show exec (.vclz w) s = execVclz w s from rfl) fun l hl => by
        obtain ⟨hle, zeros, top⟩ := hz l hl
        exact congrArg (FRes.mk · 0) (clz_eq (lt w.sa l) hle zeros top),
      fun z hz hw hc => State.shiftWord_gives hs hw hc (show exec (.vbfx w) s = execVbfx w s from rfl) fun l hl =>
        plain_bfx (lt w.sa l) (hz l hl).1 (hz l hl).2,
      fun z hz hw hc => vbfi_gives hs hw hc fun l hl => bfi_eq (hz l hl).1 (hz l hl).2⟩
  · intro act n src a b x y q sum hc
    have cmp {c : BitVec 4} {p : Nat → Bool} (hw : s.legal g 0x17 w) (hp : ∀ l, icmp c.toNat (x l) (y l) = p l) (hf : w.fn = c) :
        s.lanesTest (.vcmp w) g w p fun _ => 0 := by
      have h := vcmp_tests hs hc hw
      rw [hf] at h
      exact funext hp ▸ h
    refine ⟨fun hw => ?_, vsel_gives hs hc, vadc_does hs hc⟩
    exact ⟨cmp hw fun _ => rfl, cmp hw fun _ => rfl, cmp hw fun _ => rfl, cmp hw fun _ => rfl, cmp hw fun _ => rfl, cmp hw fun _ => rfl⟩

end Sys2Proof.Machine
end
